-- ==== Sys2Proof/Word.lean ====
section
/-! DEFINITION. The byte and the 32-bit register word, bit fields of words and of numbers, and the
little-endian reading of bytes (R11, R12, R36). -/

namespace Sys2Proof

/-- A byte of memory or of a packet. -/
abbrev Byte := BitVec 8

/-- A 32-bit register (R12). -/
abbrev Word := BitVec 32

end Sys2Proof
end

