-- ==== Sys2Proof/Machine/Types.lean ====
section
/-! DEFINITION. The plain data that commands carry and that the state holds beside registers: who asks, what
the host answers, packets, flits, faults found by checks, management messages. -/

namespace Sys2Proof

/-- Who makes a register access (R582): the host through BAR0, or a unit of core `c` through the device map. -/
inductive Requester where
  | host
  | core (c : Nat)
  deriving DecidableEq, Repr

/-- How a host-window read fails (R178, R206, R242). -/
inductive HostAnswer where
  | unsupported
  | aborted
  | timedOut
  deriving DecidableEq, Repr

/-- What host memory answers while one command runs (R156). `cells` are the bytes it holds, by host address; a byte
that is not listed reads as zero. A read that touches a range of `fails` is answered as given there, and one that
touches a range of `ep` comes back with EP = 1 (R171). Ranges are lowest and highest byte. -/
structure HostView where
  cells : List (Nat × Byte) := []
  fails : List (Nat × Nat × HostAnswer) := []
  ep : List (Nat × Nat) := []
  deriving DecidableEq, Repr

/-- The two program slots of a unit's stream (R228). -/
inductive Slot where
  | step
  | side
  deriving DecidableEq, Repr

/-- The four units of a core that issue instructions (Table 1.2). -/
inductive CoreUnit where
  | mx
  | vx
  | rx
  | mv
  deriving DecidableEq, Repr

/-- Torus coordinates (R347, R376). -/
structure Coord where
  x : Nat
  y : Nat
  z : Nat
  deriving DecidableEq, Repr

/-- Where stored bits have gone wrong (R166, R167): an HBM block by its address div 64, an aligned 64-bit word of a scratchpad or of an
instruction memory by its address div 8, an aligned 64-bit word of an accumulator bank of a core (array × 8,192 + row × 64 + pair of
columns), corrections of a stack's on-die ECC in an HBM block, or a word of a town-hall memory, which has no device address. -/
inductive FlawPlace where
  | hbm (block : Nat)
  | word (w : Nat)
  | bank (core bank w : Nat)
  | onDie (block : Nat)
  | townHall
  deriving DecidableEq, Repr

/-- Wrong stored bits: `err` is what symbol `sym` differs by. An HBM block has 72 symbols of 8 bits (64 data, 5 metadata, 3 check bytes), an
SRAM word 9 (8 data, 1 check byte). For corrections by on-die ECC `err` is their number on each read of the block. -/
structure Flaw where
  place : FlawPlace
  sym : Nat
  err : Nat
  deriving DecidableEq, Repr

/-- What a result of a sliced FP64 product was made of (R97, R98): the result, as 8 × position + slot, the slice count S, and the FP64 words
of each row and column segment that it uses. -/
structure Sliced where
  result : Nat
  slices : Nat
  segs : List (List Nat)
  deriving DecidableEq, Repr

/-- What a command meets that neither its instruction nor the state shows: `check` are the arrays (for MX) or the checks that fail (R93,
R153, R502); `flaws` the stored bits that go wrong just before the command (R166, R167); `spread` the sliced products that its FP64
LACC_READ results belong to (R98). -/
structure Upset where
  check : List Nat := []
  flaws : List Flaw := []
  spread : List Sliced := []
  deriving DecidableEq, Repr

/-- A transport packet (R376, Table 12.7). `poison` has bit g set for data bytes 32g to 32g + 31 (R362). -/
structure Packet where
  ttype : Nat
  first : Bool
  last : Bool
  ackReq : Bool
  status : Nat
  dst : Coord
  src : Coord
  tag : Nat
  addr : Nat
  data : List Byte
  poison : Nat
  deriving DecidableEq, Repr

/-- What a flit says (R360, Table 12.4); `ftype` 0 IDLE, 1 DATA, 2 NAK. A DATA flit carries `pkt`, none where its body holds no packet
of at most 224 data bytes. -/
structure Flit where
  ftype : Nat
  vc : Nat
  cls : Nat
  seq : Nat
  ack : Nat
  crVc : Nat
  crCount : Nat
  pkt : Option Packet
  deriving DecidableEq, Repr

/-- The queue a descriptor comes from: ring `r`, the replayed standing step program (R245), or a witness's replay
program (R517). -/
inductive DescSource where
  | ring (r : Nat)
  | step
  | replay
  deriving DecidableEq, Repr

/-- What a training block says (R355, Table 12.3). -/
structure TrainBlock where
  verMin : Nat
  verMax : Nat
  xyz : Coord
  site : Nat
  port : Nat
  dir : Nat
  x4ok : Bool
  refuse : Bool
  lanes : Nat
  serial : Nat
  deriving DecidableEq, Repr

/-- What the management bus asks of the endpoint: MCTP control requests (R563), and the bus controller's enabling and disabling of I3C
in-band interrupts (R550), which is no MCTP message (log entry 44). -/
inductive MctpControl where
  | setEndpointId (eid : Nat)
  | getEndpointId
  | getMessageTypes
  | other (code : Nat)
  | interrupts (on : Bool)
  deriving DecidableEq, Repr

/-- SPDM requests (R565). `certificate` is the peer's answer to the module as requester of its certificate, with the public key that it
holds; `finish` ends a key exchange: `keyHash` is the SHA-256 of the requester's public key and `mutualAuth` says that the requester
proved that it holds the key. -/
inductive SpdmRequest where
  | getVersion
  | getCapabilities
  | negotiateAlgorithms
  | getDigests
  | getCertificate (slot : Nat)
  | challenge (slot : Nat)
  | getMeasurements (index : Nat)
  | keyExchange (slot : Nat)
  | finish (keyHash : List Byte) (mutualAuth : Bool)
  | endSession
  | other (code : Nat)
  | certificate (publicKey : List Byte)
  deriving DecidableEq, Repr

/-- PCI Express configuration requests the module acts on (R159, R178, R207, R214, R216): reads and writes of a word, a look for a
capability by id, and fields of capabilities whose places in configuration space the spec does not give. -/
inductive ConfigRequest where
  | read (off : Nat)
  | write (off val : Nat)
  | capability (extended : Bool) (id : Nat)
  | maxPayload (bytes : Nat)
  | maxReadRequest (bytes : Nat)
  | aerRead
  | aerClear (mask : Nat)
  | resizeBar4 (log2 : Nat)
  | busMaster (on : Bool)
  | powerState (d3 : Bool)
  | linkUp (up : Bool)
  | serialNumber (high : Bool)
  deriving DecidableEq, Repr

/-- A check failure or recomputable poison read reported to the integrity controller (R500, R511): `core` is the core,
or 0x40 + d for link die d; `unit` as ARG1 of Table 17.2. -/
structure FaultReport where
  cause : Nat
  bell : Nat
  core : Nat
  unit : Nat
  array : Nat
  desc : Nat
  deriving DecidableEq, Repr

end Sys2Proof
end

