-- ==== Sys2Proof/Syntax.lean ====
section
/-! DEFINITION. The commands of the block: one constructor for each row of the opcode table (R8 to R586), with the operands
that the rule of the row names. Numbers of cores, ports, rings, channels, slots and the like are plain numbers,
checked in WellFormed. -/

namespace Sys2Proof

/-- The commands. A register write carries its requester and the whole word written; an event of the block carries the
unit it happens in and what the outside world supplies (a frame, a flit, what the host answers, a failed check). -/
inductive Instr where
  /-- REGISTER_WRITE (R8): A host or device-map write to a BAR0 register that has no row of its own stores the field or is refused and counted. -/
  | registerWrite (who : Requester) (off width val : Nat) (host : HostView) (up : Upset)
  /-- RC_COUNTER_READ (R15): A read of an RC counter returns its value and clears it. -/
  | rcCounterRead (who : Requester) (off width : Nat)
  /-- LO_HALF_READ (R573): A read of the _LO register of a wide RO value latches the _HI half for the same requester. -/
  | loHalfRead (who : Requester) (off width : Nat)
  /-- BAR4_ACCESS (R159): A BAR4 access reaches HBM at BAR4_BASE plus offset or completes as Unsupported Request. -/
  | bar4Access (write : Bool) (off len : Nat) (data : List Byte) (ep : Bool) (up : Upset)
  /-- FUNCTION_LEVEL_RESET (R217): A function-level reset disables rings, stops channels and streams, and resets ring, DMA and interrupt registers. -/
  | functionLevelReset
  /-- STANDBY_POWER_ON (R558): The input reaches 63 V, the standby domain starts, BOARD_POS is sampled and the boot ROM selects and verifies an image. -/
  | standbyPowerOn (inputDv boardPos : Nat)
  /-- BOOT_COMPLETE (R562): The first-stage firmware reports boot complete, events 0x0002 and 0x0001 are written and the anti-rollback counter may rise. -/
  | bootComplete
  /-- BOOT_WATCHDOG (R560): No boot complete within 30 s sets WDOG and restarts the management controller with the other image first. -/
  | bootWatchdog
  /-- PWR_EN_ASSERT (R547): Assertion of PWR_EN starts the main domain when boot is done, the input is high enough and nothing is latched. -/
  | pwrEnAssert
  /-- MAIN_DOMAIN_UP (R554): The rails have risen and the module drives PWR_GOOD high. -/
  | mainDomainUp
  /-- PWR_EN_DEASSERT (R547): Deassertion of PWR_EN turns the main domain off. -/
  | pwrEnDeassert
  /-- UNDERVOLTAGE_LOCKOUT (R547): The input falls below 60 V, the main domain turns off and the lockout is latched. -/
  | undervoltageLockout (inputDv : Nat)
  /-- THERMAL_TRIP (R552): A sensor reaches its trip threshold, THERM_TRIP_N is asserted and the main domain turns off. -/
  | thermalTrip (sensor temp : Nat)
  /-- SENSOR_UPDATE (R550): A periodic sensor reading updates warning, ALERT_N and throttling state. -/
  | sensorUpdate (sensor value : Nat)
  /-- POWER_SAMPLE (R548): An input power sample every 10 µs adjusts the issue gating share to keep within the limits. -/
  | powerSample (watts : Nat)
  /-- PWR_LIMIT_WRITE (R567): A write of PWR_LIMIT sets the host power limit or is refused and counted. -/
  | pwrLimitWrite (who : Requester) (val : Nat)
  /-- PERST_N_ASSERT (R556): Assertion of PERST_N resets registers, disables ports, zeroes tallies and stops channels and streams. -/
  | perstNAssert
  /-- PERST_N_DEASSERT (R556): Deassertion of PERST_N lets the package leave reset at the later of that moment and 100 ms after PWR_GOOD. -/
  | perstNDeassert
  /-- PACKAGE_LEAVE_RESET (R556): The package leaves reset, loads standby mirrors and starts PCI Express and HBM training. -/
  | packageLeaveReset
  /-- FUNCTION_READY (R556): Training completes, the function becomes ready and MC_STATUS.READY is set in each trained stack. -/
  | functionReady (trained : Nat)
  /-- MCTP_CONTROL (R563): An MCTP control message is answered by the management controller. -/
  | mctpControl (req : MctpControl)
  /-- GET_TID (R564): PLDM GetTID returns the terminus id. -/
  | getTid
  /-- GET_PLDM_VERSION (R564): PLDM GetPLDMVersion returns the supported version. -/
  | getPldmVersion (type : Nat)
  /-- GET_PLDM_TYPES (R564): PLDM GetPLDMTypes returns the supported types. -/
  | getPldmTypes
  /-- GET_PLDM_COMMANDS (R564): PLDM GetPLDMCommands returns the supported commands. -/
  | getPldmCommands (type : Nat)
  /-- GET_PDR (R564): PLDM GetPDR returns a platform descriptor record. -/
  | getPdr (record : Nat)
  /-- GET_SENSOR_READING (R564): PLDM GetSensorReading returns a numeric sensor of Table 19.2. -/
  | getSensorReading (sensor : Nat)
  /-- GET_STATE_SENSOR_READINGS (R564): PLDM GetStateSensorReadings returns state sensor values. -/
  | getStateSensorReadings (sensor : Nat)
  /-- SET_NUMERIC_EFFECTER_VALUE (R548): PLDM SetNumericEffecterValue sets the board power limit of effecter 1 or is refused with ERROR_INVALID_DATA. -/
  | setNumericEffecterValue (effecter value : Nat)
  /-- GET_NUMERIC_EFFECTER_VALUE (R564): PLDM GetNumericEffecterValue returns the effecter value. -/
  | getNumericEffecterValue (effecter : Nat)
  /-- QUERY_DEVICE_IDENTIFIERS (R564): PLDM QueryDeviceIdentifiers returns the device identifiers. -/
  | queryDeviceIdentifiers
  /-- GET_FIRMWARE_PARAMETERS (R564): PLDM GetFirmwareParameters returns the firmware parameters. -/
  | getFirmwareParameters
  /-- REQUEST_UPDATE (R564): PLDM RequestUpdate starts a firmware update of the image that is not booted. -/
  | requestUpdate
  /-- PASS_COMPONENT_TABLE (R564): PLDM PassComponentTable passes the update component table. -/
  | passComponentTable
  /-- UPDATE_COMPONENT (R564): PLDM UpdateComponent begins transfer of a component. -/
  | updateComponent (size : Nat)
  /-- REQUEST_FIRMWARE_DATA (R564): PLDM RequestFirmwareData exchanges image data for the update. -/
  | requestFirmwareData (off : Nat) (data : List Byte)
  /-- TRANSFER_COMPLETE (R564): PLDM TransferComplete ends the image transfer. -/
  | transferComplete (ok : Bool)
  /-- VERIFY_COMPLETE (R564): PLDM VerifyComplete reports verification of the new image under R559. -/
  | verifyComplete
  /-- APPLY_COMPLETE (R564): PLDM ApplyComplete reports that the image has been applied. -/
  | applyComplete
  /-- ACTIVATE_FIRMWARE (R564): PLDM ActivateFirmware restarts the management controller while PWR_EN is deasserted, or leaves activation pending. -/
  | activateFirmware
  /-- GET_STATUS (R564): PLDM GetStatus returns the update status. -/
  | getStatus
  /-- CANCEL_UPDATE (R564): PLDM CancelUpdate cancels the running update. -/
  | cancelUpdate
  /-- SPDM_MESSAGE (R565): An SPDM or secured message is handled for authentication, measurement and session set-up. -/
  | spdmMessage (req : SpdmRequest)
  /-- KEY_FILL (R490): An SPDM FILL command loads a key into an export or root slot and increments its GEN. -/
  | keyFill (space slot mode : Nat) (key : List Byte)
  /-- KEY_ERASE (R490): An SPDM ERASE command empties a key-store slot. -/
  | keyErase (space slot : Nat)
  /-- KEY_STATUS (R566): An SPDM STATUS command returns a slot's GEN and check value. -/
  | keyStatus (space slot : Nat)
  /-- CONFIG_WRITE (R537): A configuration key write on the management path appends a CONFIG entry or is refused. -/
  | configWrite (key : Nat) (value : Option (List Byte))
  /-- EVENT_SUBMIT (R536): An event enters the recorder queue or is lost and counted in EVT_LOST. -/
  | eventSubmit (code source status : Nat) (payload : List Byte)
  /-- EVENT_RECORD_WRITE (R534): The recorder takes an event from the queue and merges it into the newest record or appends a new record. -/
  | eventRecordWrite
  /-- REPEAT_ENTRY_TIMER (R534): Within 1 s of a merge a REPEAT entry carrying the merged count is written. -/
  | repeatEntryTimer
  /-- TIME_ENTRY_TIMER (R539): Every 600 s of operation a TIME entry is written. -/
  | timeEntryTimer
  /-- REC_INDEX_WRITE (R543): A write to REC_INDEX snapshots the record with that SEQ into REC_DATA. -/
  | recIndexWrite (who : Requester) (seq : Nat)
  /-- TALLY_WRITE (R283): A host write to TALLY sets the tally value, signals of the same clock being added after it. -/
  | tallyWrite (who : Requester) (core tally val signals : Nat)
  /-- TALLY_SIGNAL (R283): A signal reaches a tally and adds 1 modulo 2^16. -/
  | tallySignal (core tally : Nat)
  /-- MX_SYNC (R73): An MX SYNC instruction issues once its wait is satisfied and signals at issue. -/
  | mxSync (core : Nat) (slot : Slot) (up : Upset)
  /-- MX_TILE_ISSUE (R80): A TILE instruction issues when its wait, bank credit and shadow registers allow, and its weight load starts. -/
  | mxTileIssue (core : Nat) (slot : Slot) (up : Upset)
  /-- TILE_PASS_START (R82): The pass of a TILE instruction starts once its load is complete and the previous pass has ended. -/
  | tilePassStart (core : Nat) (up : Upset)
  /-- TILE_PASS_END (R83): The pass ends, scratchpad reads are finished and RSIG_EN signals. -/
  | tilePassEnd (core : Nat) (up : Upset := {})
  /-- TILE_BANK_COMPLETE (R83): The bank is complete 13 clocks after the pass, SIG_EN signals and REL releases the bank. -/
  | tileBankComplete (core : Nat) (up : Upset)
  /-- AUDIT_START (R505): A pending audit takes the arrays when they are idle or when a handover or flip waits on it. -/
  | auditStart (core : Nat)
  /-- AUDIT_END (R505): An audit ends and its comparison passes or opens a case with cause 0x04. -/
  | auditEnd (core : Nat) (differs : Bool) (host : HostView := {})
  /-- VX_SYNC (R122): A VX SYNC instruction issues and signals at issue. -/
  | vxSync (core : Nat) (slot : Slot) (up : Upset)
  /-- VX_RECIPE_ISSUE (R121): A RECIPE instruction issues after its checks and starts reading its streams. -/
  | vxRecipeIssue (core : Nat) (slot : Slot) (up : Upset)
  /-- VX_READS_END (R139): The reads of a VX instruction end, RSIG_EN signals and a BANK stream with RET returns its credit. -/
  | vxReadsEnd (core : Nat)
  /-- VX_WRITES_COMPLETE (R139): The last write of a VX instruction completes and SIG_EN signals. -/
  | vxWritesComplete (core : Nat)
  /-- RX_SYNC (R144): An RX SYNC instruction issues and signals at issue. -/
  | rxSync (core : Nat) (slot : Slot) (up : Upset)
  /-- RX_REDUCE (R145): A REDUCE instruction issues and folds its rows. -/
  | rxReduce (core : Nat) (slot : Slot) (up : Upset)
  /-- RX_READS_END (R144): The reads of an RX instruction end and RSIG_EN signals. -/
  | rxReadsEnd (core : Nat)
  /-- RX_WRITES_COMPLETE (R147): The results of an RX instruction are written 24 clocks after its reads and SIG_EN signals. -/
  | rxWritesComplete (core : Nat)
  /-- MV_SYNC (R176): An MV SYNC instruction issues and signals at issue. -/
  | mvSync (core : Nat) (slot : Slot) (up : Upset)
  /-- MV_MOVE (R177): A MOVE issues and copies, compresses or decompresses elements, or sends a message into link-die space. -/
  | mvMove (core : Nat) (slot : Slot) (host : HostView) (up : Upset)
  /-- MV_READS_END (R176): The reads of a MOVE end and RSIG_EN signals. -/
  | mvReadsEnd (core : Nat)
  /-- MV_WRITES_COMPLETE (R176): The last write of a MOVE completes and SIG_EN signals. -/
  | mvWritesComplete (core : Nat)
  /-- PATROL_SCRUB (R170): The scrub timer reads a block, writes back corrected data or poisons an uncorrectable block. -/
  | patrolScrub (block : Nat) (flaws : List Flaw) (onDie : Nat)
  /-- REGION_CTRL_WRITE (R162): A write to a region entry's CTRL enables, changes or disables the entry or is refused and counted. -/
  | regionCtrlWrite (who : Requester) (entry val : Nat)
  /-- DMA_GO (R187): CTRL.GO starts the descriptor in DESC after its checks, or is dropped. -/
  | dmaGo (who : Requester) (chan : Nat)
  /-- DMA_ABORT (R204): CTRL.ABORT stops the channel's reads and ends the descriptor with ABORTED. -/
  | dmaAbort (who : Requester) (chan : Nat)
  /-- DMA_RESUME (R209): CTRL.RESUME continues a stopped descriptor from its residue. -/
  | dmaResume (who : Requester) (chan : Nat)
  /-- DMA_BURST_READ_DONE (R195): A burst's reads have returned and it writes to the destination in stream order. -/
  | dmaBurstReadDone (chan : Nat) (host : HostView) (up : Upset)
  /-- DMA_BUS_ERROR (R206): A host-window read is answered with UR or CA or times out, and the channel enters RETRY_WAIT. -/
  | dmaBusError (chan : Nat) (answer : HostAnswer)
  /-- DMA_RETRY_TIMER (R206): The retry wait ends and the failed read is repeated, or the channel halts with BUS_ERROR_HALT. -/
  | dmaRetryTimer (chan : Nat) (host : HostView)
  /-- DMA_DESC_END (R197): A descriptor ends: writes completed, status record written, signal sent, EVENT set and interrupt raised. -/
  | dmaDescEnd (chan : Nat)
  /-- SQ_TAIL_DOORBELL (R222): A write of SQ_TAIL posts descriptors or is dropped under R223. -/
  | sqTailDoorbell (ring width val : Nat)
  /-- CQ_HEAD_DOORBELL (R234): A write of CQ_HEAD releases completion slots. -/
  | cqHeadDoorbell (ring width val : Nat)
  /-- RPT_HEAD_DOORBELL (R249): A write of RPT_HEAD releases step-report slots. -/
  | rptHeadDoorbell (ring width val : Nat)
  /-- RING_ENABLE (R219): Setting CTRL.ENABLE enables a ring and zeroes its pointers, or is refused and counted. -/
  | ringEnable (who : Requester) (ring val : Nat)
  /-- RING_DISABLE (R221): Clearing CTRL.ENABLE stops new descriptors and completions, the ring draining to DISABLED. -/
  | ringDisable (who : Requester) (ring val : Nat)
  /-- RING_FLUSH (R239): CTRL.FLUSH on a halted ring completes posted unstarted descriptors with NOT_EXECUTED. -/
  | ringFlush (who : Requester) (ring : Nat) (host : HostView)
  /-- RING_RESUME (R240): CTRL.RESUME on a halted ring returns it to RUNNING. -/
  | ringResume (who : Requester) (ring : Nat)
  /-- DESC_START (R237): The queue engine starts the next descriptor of a ring or of the step program once order, FENCE and streams allow. -/
  | descStart (src : DescSource) (host : HostView) (up : Upset)
  /-- NOP (R226): A NOP descriptor ends at once with OK. -/
  | nop (src : DescSource)
  /-- RUN (R227): A RUN descriptor starts the named streams of each core at START for COUNT instructions. -/
  | run (src : DescSource) (host : HostView)
  /-- RUN_PART_END (R227): A core's part of a RUN ends when its streams have issued and completed their instructions, and the RUN may complete. -/
  | runPartEnd (src : DescSource) (index core : Nat) (host : HostView)
  /-- RUN_TIMEOUT (R229): A RUN's TIMEOUT expires before a part ends, and the part fails with TIMEOUT. -/
  | runTimeout (src : DescSource) (index : Nat) (host : HostView)
  /-- DMA (R231): A DMA descriptor loads the channel descriptor from CDESC and starts the channel. -/
  | dma (src : DescSource) (host : HostView) (up : Upset)
  /-- STREAM_HALT (R287): STREAM_CTL action halt stops further issue on the named streams. -/
  | streamHalt (src : DescSource)
  /-- STREAM_RESUME (R287): STREAM_CTL action resume releases halted slots. -/
  | streamResume (src : DescSource)
  /-- STREAM_RESET (R287): STREAM_CTL action reset discards the slots' programs and frees them. -/
  | streamReset (src : DescSource)
  /-- WAIT_BELL (R226): A WAIT_BELL descriptor waits for the named bell edge, or ends at once with OK_LATE. -/
  | waitBell (src : DescSource)
  /-- SIGNAL (R285): A SIGNAL descriptor adds 1 to the named tally. -/
  | signal (src : DescSource)
  /-- COMPLETION_WRITE (R232): A completion is written to the next free slot with its phase, after waiting for a slot if needed. -/
  | completionWrite (ring : Nat)
  /-- COALESCING_TIMER (R255): COAL_TIME expires after the oldest pending completion and the ring's message is sent. -/
  | coalescingTimer (ring : Nat)
  /-- BELL_EDGE (R258): A local bell edge advances the bell number and performs the swap, scale derivation, commit, overrun test and replay start. -/
  | bellEdge (host : HostView) (up : Upset)
  /-- STEP_REPORT_WRITE (R248): The step report of the previous bell is written into its slot within 20 µs of the edge. -/
  | stepReportWrite
  /-- PENDING_SYNC_COPY (R272): After a swap the active half is copied into the pending half, ending within 40 µs. -/
  | pendingSyncCopy
  /-- CURFEW (R276): The curfew of the bell falls and excluded reduction parts are decided. -/
  | curfew (bell : Nat)
  /-- BELL_ENABLE (R267): Setting BELL_CTRL.EN starts the bell on the master after LEAD µs or awaits the first bell message. -/
  | bellEnable (who : Requester) (val : Nat)
  /-- BELL_DISABLE (R267): Clearing BELL_CTRL.EN stops edges and clears LOCKED and HOLDOVER. -/
  | bellDisable (who : Requester) (val : Nat)
  /-- ARM (R269): ARM_CTRL.ARM arms a posted-settings swap for the target bell, swapping at once while the bell is off. -/
  | arm (who : Requester) (val : Nat)
  /-- DISARM (R270): ARM_CTRL.DISARM cancels the armed swap. -/
  | disarm (who : Requester)
  /-- BELL_MESSAGE_SEND (R261): The bell master sends the message for its next edge LEAD µs ahead on the broadcast tree. -/
  | bellMessageSend
  /-- BELL_MESSAGE_RECEIVE (R262): A received bell message places the next edge, adopts its number and is forwarded with REMAIN corrected. -/
  | bellMessageReceive
  /-- BELL_IN_FALL (R266): A falling edge on BELL_IN places an edge after BELL_IN_DELAY when SRC = 1. -/
  | bellInFall
  /-- POOL_WAIT_ADMIT (R310): A waiting first STASH record is admitted once no live overlap remains. -/
  | poolWaitAdmit
  /-- FLIP (R327): COMMIT_PORT FLIP inverts ACTIVE, records the flip bell, updates LAND and may form a difference record. -/
  | flip (who : Requester) (slot : Slot) (unit : CoreUnit) (index : Nat)
  /-- MARK (R340): COMMIT_PORT MARK enters the shard in the barn watch. -/
  | mark (who : Requester) (slot : Slot) (unit : CoreUnit) (index : Nat)
  /-- REVERT (R339): COMMIT_PORT REVERT reverses a mirror header whose flip bell matches. -/
  | revert (who : Requester) (slot : Slot) (unit : CoreUnit) (index : Nat)
  /-- DIFF_RECORD_WRITE (R343): The difference writer writes a FLIP or UNDO record once space below DS_RPTR allows and advances DS_WPTR. -/
  | diffRecordWrite
  /-- UNDO_GO (R335): UNDO_CTRL.GO walks the shard directory and reverses uncommitted flips of the named bell. -/
  | undoGo (who : Requester)
  /-- PORT_ENABLE (R353): Setting PORT_CTRL.EN starts training of a Mopin port, or FAILED under R584. -/
  | portEnable (who : Requester) (port val : Nat)
  /-- PORT_DISABLE (R373): Clearing PORT_CTRL.EN takes the port out of service and drops its queued packets. -/
  | portDisable (who : Requester) (port val : Nat)
  /-- PORT_RETRAIN (R353): PORT_CTRL.RETRAIN retrains the port or leaves FAILED; in Ethernet mode it restarts the PCS. -/
  | portRetrain (who : Requester) (port : Nat)
  /-- SIGNAL_DETECT (R353): Signal on at least four lanes moves the port from DETECT to EQUALISE. -/
  | signalDetect (port lanes : Nat)
  /-- EQUALISE_DONE (R353): Equalisation completes and the port enters NEGOTIATE. -/
  | equaliseDone (port lanes : Nat)
  /-- TRAINING_BLOCK_RECEIVE (R355): The neighbour's training block is taken and version, identity, torus position and width are decided. -/
  | trainingBlockReceive (port : Nat) (block : List Byte) (lane : Nat := 0)
  /-- CALIBRATE_DONE (R359): Sixteen probes set LINK_DELAY and the port enters ACTIVE. -/
  | calibrateDone (port : Nat) (probes : List Nat)
  /-- TRAIN_ATTEMPT_TIMEOUT (R354): A training attempt not ACTIVE within 500 ms fails, FAILED with TIMEOUT after TRAIN_TRIES. -/
  | trainAttemptTimeout (port : Nat)
  /-- LANE_SIGNAL_LOSS (R365): A lane loses signal and the port retrains. -/
  | laneSignalLoss (port lane : Nat)
  /-- CODEWORD_PAIR_RECEIVE (R350): An FEC codeword pair is decoded, and an uncorrectable pair discards its flits and may trigger a retrain. -/
  | codewordPairReceive (port pairs lanes : Nat) (wrong : List Nat)
  /-- DATA_FLIT_RECEIVE (R364): A DATA flit is accepted in SEQ order, or discarded and NAKed, and its ACK and credits are taken. -/
  | dataFlitReceive (port : Nat) (flit : List Byte) (crc : Nat)
  /-- IDLE_FLIT_RECEIVE (R361): An IDLE flit delivers its ACK and credit return. -/
  | idleFlitReceive (port : Nat) (flit : List Byte) (crc : Nat)
  /-- NAK_FLIT_RECEIVE (R364): A NAK makes the transmitter resend every unacknowledged flit from the oldest. -/
  | nakFlitReceive (port : Nat) (flit : List Byte) (crc : Nat)
  /-- NAK_HOLDOFF_TIMER (R364): 16 µs without the expected flit allows the receiver to send another NAK. -/
  | nakHoldoffTimer (port : Nat)
  /-- RESEND_TIMEOUT (R364): The oldest unacknowledged flit waits 16 µs and the transmitter resends. -/
  | resendTimeout (port : Nat)
  /-- FLIT_TRANSMIT (R367): A port sends the next DATA flit by VC arbitration when it holds a credit and retry-buffer room. -/
  | flitTransmit (port : Nat) (wrong : List Nat := [])
  /-- WRITE (R377): A WRITE packet is accepted under the region rules and its data written, or refused. -/
  | writePkt (up : Upset)
  /-- READ_REQ (R379): A READ_REQ is checked and answered with one READ_RESP. -/
  | readReq (up : Upset)
  /-- BARN_WRITE (R164): A BARN_WRITE packet is written into a type 0x4 or 0x1 region, or refused. -/
  | barnWrite (up : Upset)
  /-- ADD_WRITE (R414): An ADD_WRITE packet adds its WIDE SQ32 words into the target words indivisibly. -/
  | addWrite (up : Upset)
  /-- READ_RESP (R383): A READ_RESP writes its data to the mover's elements, or a failure poisons them and is counted. -/
  | readResp
  /-- WRITE_ACK (R383): A WRITE_ACK completes a MOVE into link-die space, a failure being counted with cause 0x12. -/
  | writeAck
  /-- WRITE_ACK_SEND (R378): The target returns a WRITE_ACK once every write of the message and earlier messages is complete. -/
  | writeAckSend
  /-- TSIGNAL (R285): A TSIGNAL packet adds 1 to the named tally. -/
  | tsignal
  /-- RESPONSE_TIMEOUT (R380): No response within FAB_CTRL.TIMEOUT acts as one with STATUS TIMEOUT. -/
  | responseTimeout (tag : Nat)
  /-- LATE_RESPONSE (R380): A response after its timeout is discarded and counted in LATE_RESP. -/
  | lateResponse
  /-- BUCKET_READY (R396): A write of BUCKET_READY hands a bucket's contribution to the reduction engine, or counts in READY_ERR. -/
  | bucketReady (who : Requester) (slot : Slot) (unit : CoreUnit) (val : Nat) (up : Upset) (host : HostView := {})
  /-- REDUCE (R391): A REDUCE packet's chunk data is added and passed on, or its side record combined. -/
  | reduce (up : Upset)
  /-- INSTANCE_COMPLETE (R406): A bucket instance completes, writing its sums and summary and signalling. -/
  | instanceComplete (bucket bell : Nat)
  /-- STEP_SUMMARY_FINAL (R409): The step summary of the bell becomes final once all instances and cases are done. -/
  | stepSummaryFinal (bell : Nat)
  /-- ETH_FRAME_RECEIVE (R423): A received Ethernet frame is filtered, authenticated and forwarded to the lead gateway. -/
  | ethFrameReceive (port : Nat) (frame : List Byte) (fcsOk : Bool)
  /-- PCS_LINK_CHANGE (R440): The PCS aligns or loses alignment, changing LINK and road states. -/
  | pcsLinkChange (port : Nat) (aligned : Bool)
  /-- STL_ENABLE (R444): Setting STL_CTRL.EN reads the Stolcen table and starts every partner at MSG_SEQ 1. -/
  | stlEnable (who : Requester) (host : HostView)
  /-- STL_DISABLE (R444): Clearing STL_CTRL.EN stops frames and frees the store and reassembly state. -/
  | stlDisable (who : Requester)
  /-- SUBMIT (R426): A SUBMIT message is stored by the lead gateway and acknowledged, or refused. -/
  | submit
  /-- SEND_SHARD (R422): A port owner seals a shard and sends it as a frame on its road. -/
  | sendShard
  /-- RECV_SHARD (R432): The lead gateway collects a shard and decodes the group once k shards are held. -/
  | recvShard
  /-- DELIVER (R435): A DELIVER message is written into the receive ring, or refused when it does not fit. -/
  | deliver (host : HostView)
  /-- KEEPALIVE_TIMER (R440): After 1 ms without a frame on a road a KEEPALIVE is sent. -/
  | keepaliveTimer (road : Nat)
  /-- ROAD_DEAD_TIMER (R440): No authenticated frame within ROAD_DEAD makes the road DOWN. -/
  | roadDeadTimer (road : Nat)
  /-- WINDOW_UPDATE (R442): Once per millisecond the lead gateway recomputes each partner's window W. -/
  | windowUpdate
  /-- REASSEMBLY_TIMEOUT (R433): A group's reassembly timer expires with fewer than k shards and a NAK is sent or the group freed. -/
  | reassemblyTimeout (partner seq group : Nat)
  /-- ACK_DELAY_TIMER (R436): Within ACK_DELAY of a delivery an urgent ACK message is sent. -/
  | ackDelayTimer (partner : Nat)
  /-- RTO_EXPIRY (R437): No ACK within RTO re-sends every shard of the group. -/
  | rtoExpiry (partner seq group : Nat)
  /-- ACK (R438): An ACK message frees covered messages from the store. -/
  | ack
  /-- NAK (R437): A NAK message re-sends named groups not recently sent. -/
  | nak
  /-- CIPHER_MESSAGE_DONE (R477): A cipher core finishes sealing or opening a message. -/
  | cipherMessageDone (bank core : Nat)
  /-- URGENT_SUSPEND (R478): At a block boundary a core suspends an ordinary message to run an urgent one. -/
  | urgentSuspend (bank : Nat)
  /-- CONTRIB (R463): A CONTRIB message is accepted into its contribution slot or discarded as stale. -/
  | contrib (host : HostView := {})
  /-- LEDGER (R465): A LEDGER message or packet is kept for its round and forwarded within the site, conflicts counted. -/
  | ledger (host : HostView := {})
  /-- ARRIVED (R464): An ARRIVED packet is recorded by the master's keeper. -/
  | arrived
  /-- STATE_REQ (R469): A STATE_REQ message asks the twin to send its state after its next committed merge. -/
  | stateReq (host : HostView := {})
  /-- STATE (R469): A STATE message is written into a JOINING shard's other half, loading it when complete. -/
  | stateMsg (host : HostView := {})
  /-- MKT_JOIN (R469): MKT_CMD JOIN on the master's keeper sets JOIN for a site in the next ledger. -/
  | mktJoin (who : Requester) (site : Nat)
  /-- MKT_LEAVE (R468): MKT_CMD LEAVE on the master's keeper clears the site's MEMBERS bit in the next ledger. -/
  | mktLeave (who : Requester) (site : Nat)
  /-- CHECK_FAILURE_REPORT (R511): A check failure or recomputable poison read in step work opens or joins a case and sends HOLD. -/
  | checkFailureReport (report : FaultReport)
  /-- PARITY_ERROR (R503): A control-path parity error opens a case in step work or is counted and recorded. -/
  | parityError (stepBell : Option Nat) (core unit desc : Nat)
  /-- HOLD (R520): A HOLD notice is acknowledged at once and the case held open. -/
  | hold
  /-- HOLD_ACK (R519): A HOLD_ACK is collected, and the last one resumes sends and sends REPLAY_REQ. -/
  | holdAck
  /-- REPLAY_REQ (R517): A REPLAY_REQ makes the witness run the replay program for one micro-batch. -/
  | replayReq
  /-- REPLAY_END (R518): A witness replay ends, the digests are compared and a VERDICT is sent. -/
  | replayEnd (digest : Option (List Byte))
  /-- VERDICT (R518): A VERDICT is collected, and the last one closes the case CONFIRM, REPLACE or DROP. -/
  | verdict
  /-- CLOSE (R522): A CLOSE notice closes a held case and may raise the slot's newest generation. -/
  | closeNotice
  /-- CONFIGURATION_REQUEST (R159): A PCI Express configuration request resizes the BAR4 window, changes Bus Master Enable or power state, or completes with Configuration Request Retry Status before the function is ready. -/
  | configurationRequest (req : ConfigRequest)
  /-- STANDBY_POWER_LOSS (R491): The input falls below 36 V or is removed, the standby domain stops, the key store is cleared and everything powered off. -/
  | standbyPowerLoss
  /-- LATCH_CLEAR_TIMER (R547): PWR_EN has been deasserted for 100 ms, so a latched trip or lockout clears and a new PWR_EN assertion may be acted on. -/
  | latchClearTimer
  /-- UNDO_WALK_END (R335): The shard-directory walk started by UNDO_CTRL.GO finishes within 100 µs and UNDO_CTRL.BUSY returns to 0. -/
  | undoWalkEnd
  /-- COMPACTION_END (R540): A journal compaction commits the new bank, retires the old one, clears COMPACTING and lets queued events be written. -/
  | compactionEnd
  /-- BELL_OUT_RELEASE (R266): 1 µs after its edge the bell master releases BELL_OUT. -/
  | bellOutRelease
  deriving DecidableEq, Repr

end Sys2Proof
end

