-- ==== Sys2Proof/WellFormed.lean ====
section
/-! DEFINITION. Which commands are well formed: their core, port, ring, channel, slot and register operands exist (R19, R568), register
values fit the access. The meanings treat an ill-formed command as one that does not occur. -/

namespace Sys2Proof

/-- A core number (R19). -/
def okCore (c : Nat) : Bool := c < 64
/-- A port number (R19). -/
def okPort (p : Nat) : Bool := p < 8
/-- A ring number (Table 20.1). -/
def okRing (r : Nat) : Bool := r < 64
/-- A DMA channel number (Table 20.1). -/
def okChan (c : Nat) : Bool := c < 32
/-- A tally number (R283). -/
def okTally (t : Nat) : Bool := t < 64
/-- A region table entry (R161). -/
def okEntry (i : Nat) : Bool := i < 16
/-- A road number (Table 14.5). -/
def okRoad (r : Nat) : Bool := r < 16
/-- A partner number (Table 14.4). -/
def okPartner (p : Nat) : Bool := p < 4
/-- A cipher bank (R476). -/
def okBank (b : Nat) : Bool := b < 5
/-- A core of a cipher bank (Table 16.1). -/
def okCipherCore (b c : Nat) : Bool := c < (if b = 4 then 80 else 256)
/-- The probes of one calibration (R359). -/
def okProbes (ps : List Nat) : Bool := ps.length == 16
/-- A lane of a port (R350). -/
def okLane (l : Nat) : Bool := l < 8
/-- Header and body of a flit (R360). -/
def okFlit (f : List Byte) : Bool := f.length == 252
/-- The bytes of a training block (Table 12.3). -/
def okBlock (b : List Byte) : Bool := b.length == 32
/-- Places of symbols among the two interleaved codewords of a pair (R350). -/
def okSymbols (ps : List Nat) : Bool := ps.all (· < 1088)
/-- A requester that exists (R582). -/
def okWho : Requester → Bool
  | .host => true
  | .core c => okCore c
/-- A descriptor source that exists. -/
def okSource : DescSource → Bool
  | .ring r => okRing r
  | .step => true
  | .replay => true
/-- An offset in BAR0, or past it in BAR2's doorbell pages (Table 8.2). -/
def okBar (o : Nat) : Bool := o < 0x4040000
/-- The width of a bus access in bytes. -/
def okWidth (w : Nat) : Bool := w == 1 || w == 2 || w == 4 || w == 8
/-- A written value that fits the access. -/
def okValue (w v : Nat) : Bool := v < 256 ^ w
/-- A 32-bit value (R12). -/
def okWord (v : Nat) : Bool := v < 2 ^ 32
/-- Write data as long as the access says; a read carries none. -/
def okData (write : Bool) (len : Nat) (data : List Byte) : Bool := if write then data.length == len else data.isEmpty

/-- The statuses that Table 18.5 gives an event code (R544); none of a code that is reserved. A failed port's is its FAIL_CODE, a halted
ring's its HALT.STATUS, any code of Table 8.10. -/
def eventStatuses (code : Nat) : List Nat :=
  if code ∈ [0x0001, 0x1001, 0x1002, 0x2001, 0x2002, 0x2003, 0x3002, 0x4002, 0x5004, 0x6002, 0x7001, 0x7002] then [0]
  else if code = 0x0002 then [0x0A, 0x0C]
  else if code = 0x3001 ∨ code = 0x6001 then List.range 0x12
  else if code = 0x4001 ∨ code = 0x7003 then [0x0D]
  else if code = 0x5001 then [0, 7, 8]
  else if code = 0x5002 ∨ code = 0x5005 then [5]
  else if code = 0x5003 then [4]
  else []
/-- An event that the module may raise: a code of Table 18.5 with a status that it lists, and a SOURCE of a kind in Table 18.3. -/
def okEvent (code source status : Nat) : Bool := (eventStatuses code).contains status && source < 0x8000

/-- The command is well formed. -/
def Instr.wf : Instr → Bool
  | .registerWrite who off width val _ _ => okWho who && okBar off && okWidth width && okValue width val
  | .rcCounterRead who off width => okWho who && okBar off && okWidth width
  | .loHalfRead who off width => okWho who && okBar off && okWidth width
  | .bar4Access write _ len data _ _ => okData write len data
  | .functionLevelReset => true
  | .standbyPowerOn _ _ => true
  | .bootComplete => true
  | .bootWatchdog => true
  | .pwrEnAssert => true
  | .mainDomainUp => true
  | .pwrEnDeassert => true
  | .undervoltageLockout _ => true
  | .thermalTrip _ _ => true
  | .sensorUpdate _ _ => true
  | .powerSample _ => true
  | .pwrLimitWrite who val => okWho who && okWord val
  | .perstNAssert => true
  | .perstNDeassert => true
  | .packageLeaveReset => true
  | .functionReady _ => true
  | .mctpControl _ => true
  | .getTid => true
  | .getPldmVersion _ => true
  | .getPldmTypes => true
  | .getPldmCommands _ => true
  | .getPdr _ => true
  | .getSensorReading _ => true
  | .getStateSensorReadings _ => true
  | .setNumericEffecterValue _ _ => true
  | .getNumericEffecterValue _ => true
  | .queryDeviceIdentifiers => true
  | .getFirmwareParameters => true
  | .requestUpdate => true
  | .passComponentTable => true
  | .updateComponent _ => true
  | .requestFirmwareData _ _ => true
  | .transferComplete _ => true
  | .verifyComplete => true
  | .applyComplete => true
  | .activateFirmware => true
  | .getStatus => true
  | .cancelUpdate => true
  | .spdmMessage _ => true
  | .keyFill _ _ _ _ => true
  | .keyErase _ _ => true
  | .keyStatus _ _ => true
  | .configWrite _ _ => true
  | .eventSubmit code source status _ => okEvent code source status
  | .eventRecordWrite => true
  | .repeatEntryTimer => true
  | .timeEntryTimer => true
  | .recIndexWrite who _ => okWho who
  | .tallyWrite who core tally _ _ => okWho who && okCore core && okTally tally
  | .tallySignal core tally => okCore core && okTally tally
  | .mxSync core _ _ => okCore core
  | .mxTileIssue core _ _ => okCore core
  | .tilePassStart core _ => okCore core
  | .tilePassEnd core _ => okCore core
  | .tileBankComplete core _ => okCore core
  | .auditStart core => okCore core
  | .auditEnd core _ _ => okCore core
  | .vxSync core _ _ => okCore core
  | .vxRecipeIssue core _ _ => okCore core
  | .vxReadsEnd core => okCore core
  | .vxWritesComplete core => okCore core
  | .rxSync core _ _ => okCore core
  | .rxReduce core _ _ => okCore core
  | .rxReadsEnd core => okCore core
  | .rxWritesComplete core => okCore core
  | .mvSync core _ _ => okCore core
  | .mvMove core _ _ _ => okCore core
  | .mvReadsEnd core => okCore core
  | .mvWritesComplete core => okCore core
  | .patrolScrub _ _ _ => true
  | .regionCtrlWrite who entry val => okWho who && okEntry entry && okWord val
  | .dmaGo who chan => okWho who && okChan chan
  | .dmaAbort who chan => okWho who && okChan chan
  | .dmaResume who chan => okWho who && okChan chan
  | .dmaBurstReadDone chan _ _ => okChan chan
  | .dmaBusError chan _ => okChan chan
  | .dmaRetryTimer chan _ => okChan chan
  | .dmaDescEnd chan => okChan chan
  | .sqTailDoorbell ring width val => okRing ring && okWidth width && okValue width val
  | .cqHeadDoorbell ring width val => okRing ring && okWidth width && okValue width val
  | .rptHeadDoorbell ring width val => okRing ring && okWidth width && okValue width val
  | .ringEnable who ring val => okWho who && okRing ring && okWord val
  | .ringDisable who ring val => okWho who && okRing ring && okWord val
  | .ringFlush who ring _ => okWho who && okRing ring
  | .ringResume who ring => okWho who && okRing ring
  | .descStart src _ _ => okSource src
  | .nop src => okSource src
  | .run src _ => okSource src
  | .runPartEnd src _ core _ => okSource src && okCore core
  | .runTimeout src _ _ => okSource src
  | .dma src _ _ => okSource src
  | .streamHalt src => okSource src
  | .streamResume src => okSource src
  | .streamReset src => okSource src
  | .waitBell src => okSource src
  | .signal src => okSource src
  | .completionWrite ring => okRing ring
  | .coalescingTimer ring => okRing ring
  | .bellEdge _ _ => true
  | .stepReportWrite => true
  | .pendingSyncCopy => true
  | .curfew _ => true
  | .bellEnable who val => okWho who && okWord val
  | .bellDisable who val => okWho who && okWord val
  | .arm who val => okWho who && okWord val
  | .disarm who => okWho who
  | .bellMessageSend => true
  | .bellMessageReceive => true
  | .bellInFall => true
  | .poolWaitAdmit => true
  | .flip who _ _ _ => okWho who
  | .mark who _ _ _ => okWho who
  | .revert who _ _ _ => okWho who
  | .diffRecordWrite => true
  | .undoGo who => okWho who
  | .portEnable who port val => okWho who && okPort port && okWord val
  | .portDisable who port val => okWho who && okPort port && okWord val
  | .portRetrain who port => okWho who && okPort port
  | .signalDetect port _ => okPort port
  | .equaliseDone port _ => okPort port
  | .trainingBlockReceive port block lane => okPort port && okLane lane && okBlock block
  | .calibrateDone port probes => okPort port && okProbes probes
  | .trainAttemptTimeout port => okPort port
  | .laneSignalLoss port lane => okPort port && okLane lane
  | .codewordPairReceive port pairs lanes wrong => okPort port && pairs < 65536 && lanes < 65536 && okSymbols wrong
  | .dataFlitReceive port flit crc => okPort port && okFlit flit && okWord crc
  | .idleFlitReceive port flit crc => okPort port && okFlit flit && okWord crc
  | .nakFlitReceive port flit crc => okPort port && okFlit flit && okWord crc
  | .nakHoldoffTimer port => okPort port
  | .resendTimeout port => okPort port
  | .flitTransmit port _ => okPort port
  | .writePkt _ => true
  | .readReq _ => true
  | .barnWrite _ => true
  | .addWrite _ => true
  | .readResp => true
  | .writeAck => true
  | .writeAckSend => true
  | .tsignal => true
  | .responseTimeout _ => true
  | .lateResponse => true
  | .bucketReady who _ _ val _ _ => okWho who && okWord val
  | .reduce _ => true
  | .instanceComplete _ _ => true
  | .stepSummaryFinal _ => true
  | .ethFrameReceive port _ _ => okPort port
  | .pcsLinkChange port _ => okPort port
  | .stlEnable who _ => okWho who
  | .stlDisable who => okWho who
  | .submit => true
  | .sendShard => true
  | .recvShard => true
  | .deliver _ => true
  | .keepaliveTimer road => okRoad road
  | .roadDeadTimer road => okRoad road
  | .windowUpdate => true
  | .reassemblyTimeout partner _ _ => okPartner partner
  | .ackDelayTimer partner => okPartner partner
  | .rtoExpiry partner _ _ => okPartner partner
  | .ack => true
  | .nak => true
  | .cipherMessageDone bank core => okBank bank && okCipherCore bank core
  | .urgentSuspend bank => okBank bank
  | .contrib _ => true
  | .ledger _ => true
  | .arrived => true
  | .stateReq _ => true
  | .stateMsg _ => true
  | .mktJoin who _ => okWho who
  | .mktLeave who _ => okWho who
  | .checkFailureReport _ => true
  | .parityError _ core _ _ => okCore core
  | .hold => true
  | .holdAck => true
  | .replayReq => true
  | .replayEnd _ => true
  | .verdict => true
  | .closeNotice => true
  | .configurationRequest _ => true
  | .standbyPowerLoss => true
  | .latchClearTimer => true
  | .undoWalkEnd => true
  | .compactionEnd => true
  | .bellOutRelease => true

end Sys2Proof
end

