-- ==== Sys2Proof/Config.lean ====
section
/-! DEFINITION. What one module fixes and the spec leaves open: fused identity, the boot ROM's content, and the free values. A free
value is a constant without a body, so that nothing proved here rests on a number chosen for it. -/

namespace Sys2Proof.Config

/-- The PCI Express Device Serial Number fused into the module (R572: "Fused"); its low 64 bits are read. Log entry 3. -/
opaque serial : Nat

/-- STEP.LETTER and STEP.DIGIT, as the byte 16 × letter + digit (R572: "Stepping"); its low 8 bits are read. Log entry 3. -/
opaque stepping : Nat

/-- The SHA-256 digests fused as firmware signing keys 0 to 3 (R559: "fused key KEY_IDX"); the first 32 bytes of each are read, filled
with zeros. Log entry 3. -/
opaque keyHash : Nat → List Byte

/-- The boot ROM's content, which measurement block 1 digests (R565); the spec gives no bytes of it. Log entry 3. -/
opaque bootRom : List Byte

/-- The bytes that the digests of measurement blocks 3 to 5 are taken over, as functions of what they measure (R565); the spec does not say
how those states are laid out as bytes. Log entry 4. -/
opaque measured : Nat → List Nat → List Byte

/-- A free value: draw number `n` (R548's unstated raise of the gating share, and the like). Log entry 4. -/
opaque freeNat : Nat → Nat

/-- Free bytes: draw number `n`, used where the spec names a value that it does not compute, such as a signature or a nonce of
an SPDM response (R565). Log entry 4. -/
opaque freeBytes : Nat → List Byte

/-- The value, as a number, of a result that the spec does not state: a function of which result it is and of the operands alone, so that
modules of one class agree on it (R2, R28). Log entry 4. -/
opaque openValue : List Int → Nat

/-- A free bit: draw number `n`. Log entry 4. -/
opaque freeBool : Nat → Bool

end Sys2Proof.Config
end

