-- ==== Sys2Proof/Machine/State.lean ====
section
/-! DEFINITION. The state of the module: everything the spec names, as plain data, the reasons a step can stop, and the
state after reset. -/

namespace Sys2Proof.Machine

/-- A sparse map from numbers: keys strictly rising, no entry equal to what an unlisted key reads as. -/
abbrev Sparse (α : Type) := List (Nat × α)

/-! ### What the module sends out -/

/-- What the block has emitted, oldest first in `State.out`. -/
inductive Out where
  /-- The data completion of a register read (R12, R15, R573). -/
  | readData (off : Nat) (data : Nat)
  /-- A BAR4 read completion; `ep` as R175 sets it. -/
  | bar4Data (off : Nat) (data : List Byte) (ep : Bool)
  /-- An access completed as Unsupported Request (R159). -/
  | unsupportedRequest (off : Nat)
  /-- A configuration completion without data; `retry` is Configuration Request Retry Status (R556). -/
  | config (retry : Bool)
  /-- A configuration read's completion with its data (R214). -/
  | configData (off data : Nat)
  /-- Whether a walk of the capability lists finds a capability (R214). -/
  | capability (extended : Bool) (id : Nat) (present : Bool)
  /-- A half of the Device Serial Number as its capability reads (R214). -/
  | serialNumber (high : Bool) (data : Nat)
  /-- The AER uncorrectable error status as read (R214). -/
  | aerStatus (status : Nat)
  /-- A posted write to host memory (R156, R215). -/
  | hostWrite (addr : Nat) (data : List Byte) (ep : Bool)
  /-- An MSI-X message of a vector (R254). -/
  | msi (vector addr data : Nat)
  /-- A flit sent on a port: its 256 bytes (R360). -/
  | flit (port : Nat) (bytes : List Byte)
  /-- An interleaved codeword pair sent on a port: the 10-bit symbols of each of the eight lanes, in order (R350). -/
  | codewordPair (port : Nat) (lanes : List (List Nat))
  /-- The training block that a port now sends every microsecond, on the lanes of a map (R355); with REFUSE = 1, for 1 ms (R357). -/
  | trainingBlock (port lanes : Nat) (bytes : List Byte)
  /-- An Ethernet frame sent on a port, without its FCS (R420). -/
  | frame (port : Nat) (bytes : List Byte)
  /-- A response on the management path: MCTP control, PLDM or SPDM, with its completion or status code (R563 to R566). -/
  | manage (code : Nat) (data : List Nat)
  /-- BELL_OUT driven low (`true`) or released (R266). -/
  | bellOut (low : Bool)
  /-- An I3C in-band interrupt (R550). -/
  | inBandInterrupt
  deriving DecidableEq, Repr

/-! ### Cores -/

/-- Which descriptor started a piece of work: its queue, the bell of the replay (0 for a ring), its slot or index, and its number among
all descriptors that have started, which sets it apart from an earlier one of the same slot. -/
structure DescKey where
  src : DescSource
  bell : Nat
  index : Nat
  serial : Nat := 0
  deriving DecidableEq, Repr

/-- A program in one slot of a stream (R227, R228, R275): instructions `start` onward, `issued` of `count` so far; `fail` is the
status its part fails with, 0 for none (R229); `bell` the bell the slot carries; `job` the job tag of its ring; `fetched` the next
instruction's word once it has been fetched (R158). -/
structure Prog where
  start : Nat
  count : Nat
  issued : Nat
  halted : Bool
  fail : Nat
  bell : Nat
  key : DescKey
  job : Nat
  fetched : Option Nat := none
  deriving DecidableEq, Repr

/-- The two slots of a stream. -/
structure Stream where
  step : Option Prog := none
  side : Option Prog := none
  deriving DecidableEq, Repr

/-- Where a poison mark arose (R508 to R510): `own` with the bell for an uncorrectable error here, `flit` from a module. `unit` is the SOURCE
of that unit (Table 18.3): the core, the stack, the port it came in by, the DMA channel, or 0 for the module. -/
inductive MarkOrigin where
  | own (bell unit : Nat)
  | flit (src : Coord) (unit : Nat)
  | other (unit : Nat)
  deriving DecidableEq, Repr

/-- An issued TILE instruction with the operand bytes it has read so far (R587): `loadClk` clocks of its weight load and transpose fill,
`passClk` clocks of its pass; `acts` and `aScales` hold each array's activation bytes. `poisonAll` and `poisonRows` are the marks its
operands give the bank (R95), `met` the poisoned blocks whose read has been acted on (R508). -/
structure TileOp where
  word : Nat
  slot : Slot
  key : DescKey
  job : Nat
  bell : Nat
  index : Nat
  loadClk : Nat := 0
  passClk : Nat := 0
  weights : List Byte := []
  wScales : List Byte := []
  acts : List (List Byte) := [[], [], [], []]
  aScales : List (List Byte) := [[], [], [], []]
  poisonAll : Option MarkOrigin := none
  poisonRows : List (Nat × Nat × MarkOrigin) := []
  met : List Nat := []
  auditArray : Option Nat
  deriving DecidableEq, Repr

/-- State of an accumulator bank (R87). -/
inductive BankState where
  | free
  | opened
  | released
  deriving DecidableEq, Repr

/-- One bank of all four arrays (R86): word a × 16,384 + m × 128 + n, unlisted words zero. `closing` is the REL close from
issue on; `owner` the slot that opened it (R289); `poison` the poisoned rows as array, row and where the mark arose (R95, R508). -/
structure Bank where
  words : Sparse Word := []
  state : BankState := .free
  closing : Bool := false
  owner : Option Slot := none
  poison : List (Nat × Nat × MarkOrigin) := []
  deriving DecidableEq, Repr

/-- A selected spot audit (R504): the copied operands and the kept column sums of one array. -/
structure Audit where
  bell : Nat
  array : Nat
  op : TileOp
  kept : List Word
  running : Bool
  deriving DecidableEq, Repr

/-- A range of bytes of a core's scratchpad, lowest and highest. -/
abbrev Extent := Nat × Nat

/-- One byte to be written: device address, byte, and whether it comes from a poisoned block (R173). -/
abbrev Put := Nat × Byte × Bool

/-- An issued instruction of the vector engine or the row reducer, after its issue (R138, R139). -/
structure FlowOp where
  slot : Slot
  key : DescKey
  word : Nat
  bell : Nat
  reading : Bool
  writing : Bool
  writes : List Put
  outs : List Extent
  origin : MarkOrigin
  retBanks : List Nat
  normCheck : List (Nat × Nat)
  deriving DecidableEq, Repr

/-- What sent a request: a MOVE of a core, a delivery into host memory, another transport message, or the witness that reads a digest
record (R518). -/
inductive ReqKind where
  | move (core : Nat)
  | deliver (partner seq : Nat)
  | transport
  | digest
  deriving DecidableEq, Repr

/-- A request whose response is outstanding (R380 to R383). `dests` are the places of the elements of `size` bytes that a READ_RESP fills. -/
structure FabReq where
  tag : Nat
  kind : ReqKind
  target : Coord
  read : Bool
  dests : List Nat
  size : Nat := 0
  deriving DecidableEq, Repr

/-- An issued MOVE (R176, R329, R382, R383). `tags` are the requests it still waits for, `unasked` its reads that wait for a
tag, by remote address, `ports` the directory entries of the port writes it has made. -/
structure MoveOp where
  slot : Slot
  key : DescKey
  word : Nat
  bell : Nat
  reading : Bool
  tags : List Nat
  ports : List Nat
  unasked : List (Nat × FabReq) := []
  deriving DecidableEq, Repr

/-- A core (Table 1.2): four streams, the units' issued work, two banks, its audit, and its link-die send credits by VC.
`sendQ` are packets that wait for one, with the bell of those that are step work (R384, R519). -/
structure Core where
  mx : Stream := {}
  vx : Stream := {}
  rx : Stream := {}
  mv : Stream := {}
  loading : Option TileOp := none
  pass : Option TileOp := none
  drain : List TileOp := []
  bank0 : Bank := {}
  bank1 : Bank := {}
  vxOps : List FlowOp := []
  rxOps : List FlowOp := []
  mvOps : List MoveOp := []
  audit : Option Audit := none
  tileCount : List (Nat × Nat) := []
  credits : List Nat := [32, 32, 32, 32]
  sendQ : List (Option Nat × Packet) := []
  deriving DecidableEq, Repr

/-! ### DMA channels -/

/-- A DMA burst in flight: stream positions `first` to `first + count − 1` (R195). -/
structure Burst where
  first : Nat
  count : Nat
  deriving DecidableEq, Repr

/-- A channel's working state beside its registers (R187 to R209). `pos` is the first stream position not moved, and under CIPHER `plain` and
`framed` are the bytes of plaintext and of frames behind. `ending` holds the status of a descriptor that has
ended and whose end (R197) has not been carried out yet. -/
structure Channel where
  pos : Nat := 0
  bursts : List Burst := []
  aborting : Bool := false
  attempt : Nat := 0
  retries : Nat := 0
  retryMax : Nat := 0
  poisonBlocks : List Nat := []
  serial : Bool := false
  plain : Nat := 0
  framed : Nat := 0
  ending : Option Nat := none
  src : Option DescKey := none
  deriving DecidableEq, Repr

/-! ### Queues -/

/-- A core's part of a RUN (R227 to R230): the instructions of it that have not completed, and the status it failed with. -/
structure Part where
  core : Nat
  left : Nat
  ended : Bool
  status : Nat
  deriving DecidableEq, Repr

/-- How far a descriptor in flight has come. -/
inductive Progress where
  | started
  | running
  | ended
  deriving DecidableEq, Repr

/-- A descriptor that has started and whose completion has not been written (R225, R237). `pool` names the pool records it
fills (`true`) or releases (`false`); `serial` is its number among all descriptors started. -/
structure Desc where
  index : Nat
  bytes : List Byte
  op : Nat
  tag : Nat
  irq : Bool
  progress : Progress
  status : Nat
  detail : Nat
  partMap : Nat
  parts : List Part
  bell : Nat
  startedAt : Nat
  pool : List (Nat × Bool)
  serial : Nat := 0
  deriving DecidableEq, Repr

/-- A ring's working state beside its registers (R233, R234, R242, R255). `dead` says that nothing more is written to it;
`unread` are the report slots written and not released, by address (R249). `drain` is set as a step ring is disabled: replayed
descriptors with a lower serial number were started on it and still drain (R221). -/
structure Ring where
  inflight : List Desc := []
  phase : Bool := true
  pendingIrq : Nat := 0
  stalled : Bool := false
  dead : Bool := false
  unread : List Nat := []
  drain : Nat := 0
  deriving DecidableEq, Repr

/-- State of a pool record (R309). -/
inductive RecState where
  | waiting
  | live
  | evicted
  | refused
  | released
  deriving DecidableEq, Repr

/-- A pool record of a bell as read at the edge (R307, Table 10.3). -/
structure PoolRec where
  kind : Nat
  altCount : Nat
  layer : Nat
  mb : Nat
  put : Nat
  get : Nat
  size : Nat
  base : Nat
  altAddr : Nat
  bad : Bool
  state : RecState
  waited : Bool
  deriving DecidableEq, Repr

/-- An event of the step report (Table 8.13). -/
structure RepEvent where
  kind : Nat
  status : Nat
  arg0 : Nat
  arg1 : Nat
  deriving DecidableEq, Repr

/-- A replay of the standing step program for one bell (R245, R246, R281), or of a witness's replay program (R517).
`subst` are descriptors put in place of the one at `next` (R312), `made` how many of them have started, `skipAt` whether the place
has been decided. A substitute's index is that place + 2048 × its number from 1. `abandoned` says that its scale history is given up (R62).
`ahead` are the descriptors posted on the step ring before its edge that have not started (R245). -/
structure Replay where
  bell : Nat
  next : Nat
  count : Nat
  base : Nat
  stopped : Bool
  catchup : Bool
  inflight : List Desc
  subst : List (List Byte)
  made : Nat
  skipAt : Bool
  records : List PoolRec
  failed : Nat
  overran : Bool
  ended : Bool
  abandoned : Bool := false
  ahead : Nat := 0
  deriving DecidableEq, Repr

/-- Where the report of a bell goes, as the edge that closes it finds the step ring (R248): the ring, its RPT_CFG, report area and job tag. -/
structure ReportDest where
  ring : Nat
  cfg : Nat
  base : Nat
  job : Nat
  deriving DecidableEq, Repr

/-- What the report of a bell has gathered (R248 to R253). A closed report has its `dest`. -/
structure Report where
  bell : Nat
  overrun : Bool
  skipped : Bool
  suspect : Bool
  swapLate : Bool
  undone : Bool
  nfOrigin : Nat
  skippedMb : Nat
  stashLayer : Nat
  barnStalls : Nat
  descFailed : Nat
  events : List RepEvent
  closed : Bool
  dest : Option ReportDest := none
  deriving DecidableEq, Repr

/-! ### Scales and posted settings -/

/-- A half of the posted settings: words by offset, unlisted words at their reset value. -/
abbrev Half := Sparse Word

/-- What a bell has converted for one tensor (R60, R67, R588). `max` is the step maximum so far. -/
structure TensorAcc where
  bell : Nat
  tensor : Nat
  overflow : Nat
  vanish : Nat
  count : Nat
  max : Option Int
  deriving DecidableEq, Repr

/-- The kept step maxima of a tensor, newest bell first, at most 64 (R60, R62). -/
structure History where
  tensor : Nat
  maxima : List (Nat × Int)
  deriving DecidableEq, Repr

/-! ### The bell -/

/-- The bell unit's working state beside its registers (R261 to R272). Times are arithmetic clocks. `next` is the next edge (number,
time); `placed` whether BELL_IN has placed it (R266); `timely` whether a message has named it in time; `period` the PERIOD it carried;
`anchor` the edge time of a message that came too late; `lastEdge` the last edge since the bell started, `begun` the last edge of all; `armed` the target of the arm that stands and whether it landed late; `keep` the
pending words written while the copy of R272 runs. -/
structure BellUnit where
  next : Option (Nat × Nat) := none
  placed : Bool := false
  timely : Bool := false
  period : Option Nat := none
  anchor : Option Nat := none
  armed : Option (Nat × Bool) := none
  lastEdge : Option (Nat × Nat) := none
  begun : Option (Nat × Nat) := none
  misses : Nat := 0
  outLow : Bool := false
  keep : List Nat := []
  deriving DecidableEq, Repr

/-! ### Fabric -/

/-- A packet waiting at a port or kept in its retry buffer. `input` is the port it came in by, 8 for the module's own;
`core` the core whose send credit it holds; `ord` its place in the order in which packets were routed here (R385); `inCls` the class it came in. -/
structure TxPkt where
  pkt : Packet
  vc : Nat
  cls : Nat
  input : Nat
  inCls : Nat
  core : Option Nat
  ord : Nat
  deriving DecidableEq, Repr

/-- A port's working state beside its registers (R353 to R374). `heard` is the last training block with a correct CRC that each lane has
delivered in this NEGOTIATE, `uncorr` when uncorrectable codeword pairs arrived in the last millisecond. `resendFrom` is the flit, by
`TxPkt.ord`, that the last resend began with. `pairFlits` are the flits sent of the codeword pair that is being formed, `pairTx` its
number; `pairRx` and `echoRx` are the pair counter and lane-map echo last received, `discard` how many flits of a lost pair are still to be
discarded (R350). -/
structure Port where
  inService : Bool := false
  tries : Nat := 0
  lanesOk : Nat := 0
  heard : List (List Byte) := [[], [], [], [], [], [], [], []]
  uncorr : List Nat := []
  seqTx : Nat := 0
  seqRx : Nat := 0
  lastRx : Nat := 0xFFF
  retry : List (Nat × TxPkt) := []
  resend : List Nat := []
  resendFrom : Option Nat := none
  resendRuns : Nat := 0
  pairFlits : List (List Byte) := []
  pairTx : Nat := 0
  pairRx : Nat := 0
  echoRx : Nat := 0
  discard : Nat := 0
  nakSent : Bool := false
  nakDue : Bool := false
  txq : List TxPkt := []
  credits : List Nat := [256, 128, 256, 128, 320, 192, 128, 128]
  owed : List Nat := [0, 0, 0, 0, 0, 0, 0, 0]
  deficit : List Nat := [0, 0, 0]
  lastInput : List Nat := [8, 8, 8, 8]
  deriving DecidableEq, Repr

/-- A packet that has arrived for this module and waits to be acted on; `port` and `cls` name the buffer it holds, `core` the core whose
send credit it holds (R384). -/
structure InPkt where
  pkt : Packet
  port : Option Nat
  cls : Nat
  at_ : Nat
  core : Option Nat := none
  deriving DecidableEq, Repr

/-- A message being received with ACK_REQ (R377, R378): the first refusal's status. -/
structure InMsg where
  src : Coord
  vc : Nat
  tag : Nat
  status : Nat
  ready : Bool
  deriving DecidableEq, Repr

/-! ### Reductions -/

/-- A segment of a bucket (Table 13.3). -/
structure Segment where
  tensor : Nat
  first : Nat
  count : Nat
  deriving DecidableEq, Repr

/-- A bucket table entry with its segments, as read at the edge (Table 13.2, R394). -/
structure Bucket where
  words : Nat
  mode : Nat
  sig : Nat
  sigTally : Nat
  stageAddr : Nat
  outAddr : Nat
  sumAddr : Nat
  segs : List Segment
  valid : Bool
  deriving DecidableEq, Repr

/-- A side entry of a segment (R395, R404): step maximum and counts. -/
structure SideEntry where
  max : Option Int
  overflow : Nat
  vanish : Nat
  count : Nat
  deriving DecidableEq, Repr

/-- The side record of an instance (R404). -/
structure SideRec where
  incl : List Nat
  late : List Nat
  nonfinite : Bool
  origin : Option Nat
  entries : List SideEntry
  deriving DecidableEq, Repr

/-- Whether a part of a member's own value is in the sum (R402). -/
inductive Decision where
  | waiting
  | included
  | excluded
  deriving DecidableEq, Repr

/-- A contribution as it was handed over (R401, R403): words, poisoned words and its side entries; `here` are the poisoned words whose mark
arose on this module, with the bell of that (R515). -/
structure LatePart where
  words : Sparse Int
  bad : List Nat
  entries : List SideEntry
  nonfinite : Bool
  here : List (Nat × Nat) := []
  deriving DecidableEq, Repr

/-- A chunk stream being received, or received and waiting (R398, R399): stages 0 to 5 of Table 13.4, or 8 + phase for a side record.
`marks` are the poisoned bytes of the stream as ranges. -/
structure ChunkIn where
  stage : Nat
  chunk : Nat
  bytes : List Byte
  marks : List (Nat × Nat)
  deriving DecidableEq, Repr

/-- A bucket instance of a bell at this member (R391 to R406, R522). `entries` and `nonfinite` are the slot's own side entries and flag;
`own` and `late` the decisions of R402; `ownVals`, `ownBad`, `ownHere`, `ownSide` the included parts; `repl` a replacement and `dropped` a
DROP that names this member; `closures` counts those that have raised its generation. The rest belongs to the newest generation: `faulted`
says that a check of its engine failed (R502), `vals` and `bad` the sums and poisoned words held, `rx` and
`ready` chunk streams, `done` the (stage, chunk) pairs dealt with here, `sideAcc` the side record so far, `sidePhase` how many of its
phases are behind, `final` the final record. -/
structure Instance where
  bucket : Nat
  bell : Nat
  gen : Nat := 0
  entries : List SideEntry := []
  nonfinite : Bool := false
  handed : Bool := false
  own : Decision := .waiting
  late : Decision := .excluded
  latePart : Option LatePart := none
  ownVals : Sparse Int := []
  ownBad : List Nat := []
  ownHere : List (Nat × Nat) := []
  ownSide : SideRec
  repl : Option LatePart := none
  dropped : Bool := false
  closures : Nat := 0
  faulted : Bool := false
  entered : Bool := false
  vals : Sparse Int := []
  bad : List Nat := []
  rx : List ChunkIn := []
  ready : List ChunkIn := []
  done : List (Nat × Nat) := []
  sideAcc : SideRec
  sidePhase : Nat := 0
  final : Option SideRec := none
  complete : Bool := false
  status : Nat := 0
  deriving DecidableEq, Repr

/-! ### Stolcen -/

/-- A partner entry of the Stolcen table as read (Table 14.4). -/
structure Partner where
  en : Bool := false
  site : Nat := 0
  k : Nat := 1
  m : Nat := 0
  uk : Nat := 1
  um : Nat := 0
  lead : Coord := ⟨0, 0, 0⟩
  shardMax : Nat := 64
  deriving DecidableEq, Repr

/-- A road entry of the Stolcen table as read (Table 14.5) with its running state (R440, R441). -/
structure Road where
  en : Bool := false
  partner : Nat := 0
  road : Nat := 0
  port : Nat := 0
  owner : Coord := ⟨0, 0, 0⟩
  mac : List Byte := []
  udp : Nat := 0
  ip6 : List Byte := []
  up : Bool := false
  farTime : Nat := 0
  farAt : Nat := 0
  sampleMs : Option Nat := none
  sampled : Bool := false
  deriving DecidableEq, Repr

/-- A stored message's group (R428, R437). -/
structure OutGroup where
  group : Nat
  sentAt : Option Nat
  resends : Nat
  deriving DecidableEq, Repr

/-- A message in the re-send store (R426, R427). -/
structure StoredMsg where
  seq : Nat
  urgent : Bool
  bytes : List Byte
  groups : List OutGroup
  deriving DecidableEq, Repr

/-- A group being reassembled (R432, R433). -/
structure InGroup where
  seq : Nat
  group : Nat
  ngroup : Nat
  msgLen : Nat
  k : Nat
  m : Nat
  shards : List (Nat × List Byte)
  decoded : Option (List Byte)
  stale : Nat
  fresh : Bool
  deriving DecidableEq, Repr

/-- A partner's lead-gateway state (R427 to R442). -/
structure Gateway where
  nextSeq : Nat := 1
  acked : Nat := 0
  store : List StoredMsg := []
  groups : List InGroup := []
  h : Nat := 0
  above : List Nat := []
  delivering : List Nat := []
  ackDue : Bool := false
  acks : List (List Byte) := []
  naks : List (List Byte) := []
  deriving DecidableEq, Repr

/-- A STOLCEN message being assembled from packets (Table 14.6). `marks` are its poisoned granules as first byte and bytes (R362), `port` the
port its last packet came in by. -/
structure Assembly where
  src : Coord
  op : Nat
  bytes : List Byte
  poison : Bool
  complete : Bool
  tag : Nat
  marks : List (Nat × Nat) := []
  port : Option Nat := none
  deriving DecidableEq, Repr

/-! ### Cipher -/

/-- A derived road key of a bank, with what it was derived from and the sealed-message counts of its cores (R481, R492, R493). -/
structure RoadKey where
  root : List Byte
  job : Nat
  srcSite : Nat
  dstSite : Nat
  road : Nat
  epoch : Nat
  key : List Byte
  counts : Sparse Nat
  deriving DecidableEq, Repr

/-- A message of a cipher bank (R477, R478): the core that runs it, whether it is urgent and whether it is sealed here, its road entry, and
its bytes: header and shard while it waits to be sealed, the frame's Stolcen part once it is, header, ciphertext and tag while it waits to be
opened, header and plaintext after that; `ok` says that it was sealed or authenticated, `at_` when a received frame arrived. An ordinary
message that waits for a core already names it. -/
structure CipherJob where
  core : Nat
  urgent : Bool
  sealing : Bool
  road : Nat
  ok : Bool
  bytes : List Byte
  at_ : Nat
  deriving DecidableEq, Repr

/-- A cipher bank (R476 to R482, R493). `running` is one job per busy core, `suspended` newest first, `waitingJobs` urgent or
ordinary jobs that have no core yet. -/
structure CipherBank where
  keys : List RoadKey := []
  running : List CipherJob := []
  suspended : List CipherJob := []
  waitingJobs : List CipherJob := []
  exportCounts : List (Nat × Nat × Nat × Nat) := []
  deriving DecidableEq, Repr

/-- A slot of the key store (R488 to R491). -/
structure KeySlot where
  filled : Bool := false
  openOnly : Bool := false
  gen : Nat := 0
  key : List Byte := []
  deriving DecidableEq, Repr

/-! ### Markets -/

/-- The market engine's working state for a header (R453, R469): the open round, and of a JOINING shard the round of the state being
loaded with the (part, first word, words) received; `requests` are the sites whose STATE_REQ awaits the next merge. -/
structure MktHeader where
  index : Nat
  due : Option Nat
  loadRound : Nat
  parts : List (Nat × Nat × Nat)
  requests : List Nat
  deriving DecidableEq, Repr

/-- What a contribution slot holds: header, round, site, blocks present, HELD (R460, R463). -/
structure Present where
  header : Nat
  round : Nat
  site : Nat
  blocks : List Nat
  held : Bool
  deriving DecidableEq, Repr

/-- The market engine (R453 to R469): `ledgers` and `arrived` by round, `reported` and `sent` what this module has reported complete and
submitted, as (round, site, keeper told) and (header, round); `silent` the ledgers each site has missed in a row; `flips` the flips that
stand, as (directory entry, bell, bell in which it landed), for as long as a plan may ask for them (R330, R453); `closing` the bells at which
the ledgers of rounds that have begun are to be closed, as (bell, round) (R448, R464). -/
structure Market where
  headers : List MktHeader := []
  present : List Present := []
  ledgers : List (Nat × List Byte) := []
  arrived : List (Nat × Nat × Coord) := []
  reported : List (Nat × Nat × Coord) := []
  joinReq : List Nat := []
  leaveReq : List Nat := []
  silent : List Nat := [0, 0, 0, 0]
  sent : List (Nat × Nat) := []
  flips : List (Nat × Nat × Nat) := []
  closing : List (Nat × Nat) := []
  deriving DecidableEq, Repr

/-! ### Integrity -/

/-- An integrity case of this module (R511, R517 to R521). `acks` are the modules whose HOLD_ACK is outstanding; a closed case is kept
until they are in, since sends wait for them (R519). `rerun` is the slot of a RERUN case. -/
structure OwnCase where
  bell : Nat
  num : Nat
  open_ : Bool
  cause : Nat
  range : List Nat
  rerun : Option Nat
  acks : List Coord
  asked : Bool
  verdicts : List (Nat × Nat)
  deriving DecidableEq, Repr

/-- A case of another module held open here (R520). -/
structure HeldCase where
  suspect : Coord
  bell : Nat
  num : Nat
  group : Nat
  dp : Nat
  deriving DecidableEq, Repr

/-- A pending consumption (R509); `results` says that it is a read of reduction results. -/
structure PendingUse where
  bell : Nat
  job : Nat
  block : Nat
  origin : MarkOrigin
  results : Bool
  deriving DecidableEq, Repr

/-- A RESIDUE_FAULT as reported to the integrity controller (R94, R153, R500): the bell of the stream slot, core, unit, array, bank and
instruction index, and the index of the replayed descriptor that started the slot, none for other work. -/
structure FaultNote where
  cause : Nat
  bell : Nat
  core : Nat
  unit : Nat
  array : Nat
  bank : Nat
  index : Nat
  desc : Option Nat
  deriving DecidableEq, Repr

/-- The integrity controller (R500 to R527). `faults` are the check failures reported to it, oldest first. -/
structure Integrity where
  cases : List OwnCase := []
  held : List HeldCase := []
  nextCase : List (Nat × Nat) := []
  updateFault : List Nat := []
  origins : List (Nat × MarkOrigin) := []
  pendingUse : List PendingUse := []
  requests : List (List Byte) := []
  replaying : Option (List Byte) := none
  raised : List (Nat × RepEvent) := []
  sentPoison : List Nat := []
  faults : List FaultNote := []
  deriving DecidableEq, Repr

/-! ### Shards -/

/-- A barn-watch entry (R340). -/
structure Watch where
  index : Nat
  bell : Nat
  reported : Bool
  deriving DecidableEq, Repr

/-- A difference record waiting to be written (R343, R344). -/
structure DiffRec where
  index : Nat
  type : Nat
  header : Nat
  seq : Nat
  flipBell : Nat
  landBell : Nat
  stalled : Bool
  deriving DecidableEq, Repr

/-! ### Standby domain -/

/-- State of the management controller (R558 to R561). -/
inductive McState where
  | off
  | booting
  | booted
  | recovery
  deriving DecidableEq, Repr

/-- What has latched the main domain off (R547). -/
inductive PowerLatch where
  | lockout
  | trip
  deriving DecidableEq, Repr

/-- The power state, pins and sensors (R547 to R558). Voltages are in 0.1 V, temperatures in 0.1 °C. `gate` is the issue gating share in
percent, `samples` the power samples of the last second, newest first, `overAt` since when sensors 3 and 5 stand above their thresholds,
`throttled` the sensors that hold the gating share up (R551), `gatedRest` gated clocks not yet counted, `gates` the shares of the last
10 ms, newest first (Table 19.7), `shown` the readings that the package has taken since its reset (R575). `rest` says that PWR_EN has been
deasserted and has not stayed so for 100 ms (R547). `ibi` says that the bus controller has enabled I3C in-band interrupts (R550), `i3c` is
the I3C static address (R555). `bars` are the addresses in the three 64-bit
BARs, `aer` the AER uncorrectable error status (R214, R216). -/
structure Power where
  mc : McState
  inputDv : Nat
  boardPos : Nat
  i3c : Nat
  pwrEn : Bool
  rest : Bool
  latch : Option PowerLatch
  mainOn : Bool
  pwrGood : Bool
  perst : Bool
  running : Bool
  ready : Bool
  leftAt : Nat
  thermTrip : Bool
  alert : Bool
  ibi : Bool
  sensors : Sparse Nat
  gate : Nat
  effecter : Nat
  samples : List Nat
  overAt : Sparse Nat
  throttled : List Nat
  gatedRest : Nat
  gates : List Nat
  shown : Sparse Nat
  d3hot : Bool
  busMaster : Bool
  linkUp : Bool
  bar4Log2 : Nat
  bars : List Nat
  maxPayload : Nat
  maxReadRequest : Nat
  aer : Nat
  deriving DecidableEq, Repr

/-- An event waiting for the recorder (R536): `time` is the operating time of its occurrence, hours and seconds (R535), `at_` the clock in
which it arrived. -/
structure EventRec where
  code : Nat
  source : Nat
  status : Nat
  payload : List Byte
  time : Nat × Nat
  at_ : Nat
  deriving DecidableEq, Repr

/-- State byte of a journal bank (Table 18.2). -/
inductive JournalState where
  | erased
  | copying
  | active
  | retired
  deriving DecidableEq, Repr

/-- A journal bank: the fields of its header (Table 18.2) and the 64-byte entries programmed from position 0 (R532, R533). Erased bytes
read 0xFF. -/
structure Journal where
  magic : Nat := 0xFFFFFFFF
  gen : Nat := 0xFFFFFFFF
  state : JournalState := .erased
  crc : Nat := 0xFFFFFFFF
  entries : List (List Byte) := []
  deriving DecidableEq, Repr

/-- The event recorder (R532 to R543). `merged` is the newest record's merged count when its REPEAT entry is not yet written;
`hours` and `seconds` are the operating time at clock `since`. -/
structure Recorder where
  bank0 : Journal := { magic := 0x4A524E31, gen := 1, state := .active, crc := 0x47CB1A21 }
  bank1 : Journal := {}
  activeBank : Nat := 0
  queue : List EventRec := []
  lost : Nat := 0
  merged : Option Nat := none
  nextSeq : Nat := 0
  hours : Nat := 0
  seconds : Nat := 0
  since : Nat := 0
  pcc : Nat := 0xFFFFFF
  journalLost : Bool := false
  compacting : Bool := false
  written : Nat := 0
  mergedCount : Nat := 0
  lostCount : Nat := 0
  torn : Nat := 0
  compactions : Nat := 0
  index : Nat := 0
  snapshot : Option (List Byte) := none
  deriving DecidableEq, Repr

/-- A firmware update's state (R564). -/
inductive UpdateState where
  | idle
  | learn
  | readyXfer
  | download
  | verify
  | apply
  deriving DecidableEq, Repr

/-- The fused digests of the four firmware signing keys (R559). Log entry 3. -/
def fusedKeys : List (List Byte) :=
  (List.range 4).map (fun i => (Config.keyHash i ++ List.replicate (32 - (Config.keyHash i).length) 0).take 32)

/-- The management controller's boot, update, session and key-store state (R488 to R491, R558 to R566): `exchange` says that a key exchange
awaits its FINISH, `peer` is the SHA-256 of the public key in the certificate that the module, as requester, has taken from the peer,
`session` holds the SHA-256 of the requester's public key and whether it is mutually authenticated. `keyHashes` are fused (R559). -/
structure Manage where
  imageA : List Byte := []
  imageB : List Byte := []
  keyHashes : List (List Byte) := fusedKeys
  revoked : List Bool := [false, false, false, false]
  counter : Nat := 0
  image : Nat := 0
  aRejected : Option Nat := none
  bRejected : Option Nat := none
  wdog : Bool := false
  svn : Nat := 0
  build : Nat := 0
  eid : Nat := 0
  tid : Nat := 0
  update : UpdateState := .idle
  updSize : Nat := 0
  updValid : Bool := false
  activation : Bool := false
  exchange : Bool := false
  peer : Option (List Byte) := none
  session : Option (List Byte × Bool) := none
  exportSlots : List KeySlot := List.replicate 64 {}
  rootSlots : List KeySlot := List.replicate 8 {}
  deriving DecidableEq, Repr

/-! ### The whole -/

/-- Why a step stops with a fault. No command of this block stops the machine: the spec gives every command an effect, or
says when its event does not occur; the type has one constructor so that it is inhabited. -/
inductive Fault where
  /-- Raised by no command. Safe: it can only stop a run. -/
  | none_
  deriving DecidableEq, Repr

/-- Why a command is refused by the model. -/
inductive Refusal where
  /-- A command whose meaning is not modelled yet; raised by its arm of `exec` alone. Safe. -/
  | notModelled (mnemonic : String)
  deriving DecidableEq, Repr

/-- The module. -/
structure State where
  /-- Arithmetic clocks since power-up of the model's time base. -/
  now : Nat
  /-- The model's own: how many free values have been drawn. -/
  draws : Nat
  /-- The model's own: how many descriptors have started, the source of `DescKey.serial`. -/
  started : Nat
  pending : List Instr
  out : List Out
  power : Power
  recorder : Recorder
  manage : Manage
  /-- Bytes by device address (R155): HBM, scratchpads and instruction memories; unlisted bytes read zero. -/
  mem : List Host.Cell
  /-- Poisoned 64-byte blocks, by address div 64, rising (R171). -/
  poison : List Nat
  /-- FRC tags of HBM blocks whose metadata has CMP = 1, by block (Table 6.4). -/
  frc : Sparse Nat
  /-- Stored bits that have gone wrong and have been neither detected nor overwritten (R166, R167). -/
  flaws : List Flaw
  /-- BAR0 registers by offset; unlisted ones at their reset value (Table 20.1). -/
  regs : Sparse Word
  /-- Latched _HI halves by requester (R573): 0 the host, 1 + c core c. -/
  latches : List (Nat × Nat × Word)
  pendingHalf : Half
  activeHalf : Half
  held : List (Nat × Half)
  history : List History
  tensors : List TensorAcc
  cores : List Core
  channels : List Channel
  rings : List Ring
  replays : List Replay
  reports : List Report
  witness : Option Replay
  bell : BellUnit
  ports : List Port
  inbox : List InPkt
  requests : List FabReq
  /-- Requests that timed out and whose late response has not come, oldest first (R380): whether a read, and the tag. -/
  expired : List (Bool × Nat)
  nextTag : Nat
  inMsgs : List InMsg
  /-- Packets held back while a case of their bell waits for its acknowledgements (R519): bell, core, packet. -/
  withheld : List (Nat × Option Nat × Packet)
  /-- How many packets have been routed, the source of `TxPkt.ord`. -/
  routed : Nat
  buckets : List (Nat × List Bucket)
  instances : List Instance
  /-- Bells whose step summary is final here, with whether it was skipped and whether it failed (R409). -/
  summaries : List (Nat × Bool × Bool)
  /-- Bells whose curfew has fallen (R276). -/
  fallen : List Nat
  partners : List Partner
  roads : List Road
  gateways : List Gateway
  assemblies : List Assembly
  banks : List CipherBank
  market : Market
  integrity : Integrity
  watch : List Watch
  diffs : List DiffRec
  /-- FLIPs that wait for an audit (R506): directory entry, bell and who wrote them, as SOURCE. -/
  flipWait : List (Nat × Nat × Nat)
  /-- Handovers that wait for an audit (R506): slot and bell. -/
  handWait : List (Nat × Nat)
  /-- Whether R584's condition has been counted since FAB_ID or TORUS_SIZE last changed. -/
  torusCounted : Bool
  deriving DecidableEq, Repr

/-- Power at reset: the input is present, the management controller has booted, the main domain is on with PWR_GOOD high
and PERST_N is asserted. Temperatures and readings that no update has given read zero. -/
def Power.reset : Power where
  mc := .booted
  inputDv := 720
  boardPos := 0
  i3c := 0x30
  pwrEn := true
  rest := false
  latch := none
  mainOn := true
  pwrGood := true
  perst := true
  running := false
  ready := false
  leftAt := 0
  thermTrip := false
  alert := false
  ibi := false
  sensors := []
  gate := 0
  effecter := 3200
  samples := []
  overAt := []
  throttled := []
  gatedRest := 0
  gates := []
  shown := []
  d3hot := false
  busMaster := false
  linkUp := false
  bar4Log2 := 36
  bars := [0, 0, 0]
  maxPayload := 128
  maxReadRequest := 512
  aer := 0

/-- The machine right after reset: PERST_N is asserted and every register reads its reset value (R556, R575). -/
def State.reset : State where
  now := 0
  draws := 0
  started := 0
  pending := []
  out := []
  power := Power.reset
  recorder := {}
  manage := {}
  mem := []
  poison := []
  frc := []
  flaws := []
  regs := []
  latches := []
  pendingHalf := []
  activeHalf := []
  held := []
  history := []
  tensors := []
  cores := List.replicate 64 {}
  channels := List.replicate 32 {}
  rings := List.replicate 64 {}
  replays := []
  reports := []
  witness := none
  bell := {}
  ports := List.replicate 8 {}
  inbox := []
  requests := []
  expired := []
  nextTag := 0
  inMsgs := []
  withheld := []
  routed := 0
  buckets := []
  instances := []
  summaries := []
  fallen := []
  partners := List.replicate 4 {}
  roads := List.replicate 16 {}
  gateways := List.replicate 4 {}
  assemblies := []
  banks := List.replicate 5 {}
  market := {}
  integrity := {}
  watch := []
  diffs := []
  flipWait := []
  handWait := []
  torusCounted := false

end Sys2Proof.Machine
end

