-- ==== Sys2Proof/Machine/Bits.lean ====
section
/-! DEFINITION. Bit fields of numbers (R11), little-endian bytes (R12, R36), saturating counts, sparse maps in canonical
form and lists changed at one place. -/

namespace Sys2Proof.Machine

/-- Bits `hi` down to `lo` of `n` (R11). -/
def bits (n hi lo : Nat) : Nat := (n >>> lo) % 2 ^ (hi + 1 - lo)

/-- Bit `i` of `n`. -/
def bit (n i : Nat) : Bool := (n >>> i) % 2 == 1

/-- `n` with bits `hi` down to `lo` replaced by `v` (R11). -/
def setBits (n hi lo v : Nat) : Nat :=
  (n >>> (hi + 1)) <<< (hi + 1) + (v % 2 ^ (hi + 1 - lo)) <<< lo + n % 2 ^ lo

/-- 0 or 1. -/
def b2n (b : Bool) : Nat := if b then 1 else 0

/-- The signed value of the low `w` bits of `n`. -/
def signed (w n : Nat) : Int :=
  let m := n % 2 ^ w
  if m < 2 ^ (w - 1) then (m : Int) else (m : Int) - (2 ^ w : Nat)

/-- The low `w` bits of an integer in two's complement. -/
def unsigned (w : Nat) (v : Int) : Nat := (v % ((2 ^ w : Nat) : Int)).toNat

/-- Whether `n` is a power of two. -/
def isPow2 (n : Nat) : Bool := n != 0 && n == 2 ^ n.log2

/-- A count raised by `k`, saturating at 0xFFFF_FFFF (Tables 2.8, 20.7 and the like). -/
def satAdd (n k : Nat) : Nat := min (n + k) 0xFFFFFFFF

/-- The number whose little-endian bytes are `bs` (R12). -/
def leNat : List Byte → Nat
  | [] => 0
  | b :: bs => b.toNat + 256 * leNat bs

/-- The `k` little-endian bytes of `n` (R12). -/
def leBytes : Nat → Nat → List Byte
  | 0, _ => []
  | k + 1, n => BitVec.ofNat 8 n :: leBytes k (n / 256)

/-- The number whose big-endian bytes are `bs`. -/
def beNat (bs : List Byte) : Nat := bs.foldl (fun a b => a * 256 + b.toNat) 0

/-- The `k` big-endian bytes of `n`. -/
def beBytes (k n : Nat) : List Byte := (leBytes k n).reverse

/-- `bs` cut or filled with zeros to `k` bytes. -/
def padTo (k : Nat) (bs : List Byte) : List Byte := (bs ++ List.replicate (k - bs.length) 0).take k

/-- Byte `i` of `bs`, zero beyond its end. -/
def byteAt (bs : List Byte) (i : Nat) : Byte := bs.getD i 0

/-- The `len` bytes of `bs` from `off`. -/
def slice (bs : List Byte) (off len : Nat) : List Byte := (bs.drop off).take len

/-- The little-endian number in the `len` bytes of `bs` from `off`. -/
def leAt (bs : List Byte) (off len : Nat) : Nat := leNat (slice bs off len)

/-- `xs` cut into pieces of `k`, the last one shorter; `fuel` is the greatest number of pieces. -/
def chunks {α : Type} (k : Nat) : Nat → List α → List (List α)
  | 0, _ => []
  | _, [] => []
  | fuel + 1, xs => xs.take k :: chunks k fuel (xs.drop k)

/-- Bit `i` of each position where `f i` holds, for `i < n`. -/
def bitMap (n : Nat) (f : Nat → Bool) : Nat :=
  (List.range n).foldl (fun a i => if f i then a + 2 ^ i else a) 0

/-- The first position below `n` where `f` holds. -/
def firstIdx (n : Nat) (f : Nat → Bool) : Option Nat := (List.range n).find? f

/-- `xs` with element `i` changed by `f`; unchanged where there is none. -/
def modAt {α : Type} (xs : List α) (i : Nat) (f : α → α) : List α := xs.modify i f

/-- `xs` with every element that satisfies `p` changed by `f`. -/
def modWhere {α : Type} (xs : List α) (p : α → Bool) (f : α → α) : List α :=
  xs.map (fun x => if p x then f x else x)

/-- What a sparse map holds at key `k`; `d` where nothing is listed. -/
def sget {α : Type} (d : α) (m : Sparse α) (k : Nat) : α :=
  match m.find? (fun e => e.1 == k) with
  | some e => e.2
  | none => d

/-- A sparse map with `v` at key `k`, kept rising; an entry equal to `d` is not listed. -/
def sput {α : Type} [DecidableEq α] (d : α) (m : Sparse α) (k : Nat) (v : α) : Sparse α :=
  m.filter (fun e => e.1 < k) ++ (if v = d then [] else [(k, v)]) ++ m.filter (fun e => k < e.1)

/-- A rising list of numbers with `k` in it. -/
def setIns (m : List Nat) (k : Nat) : List Nat :=
  m.filter (· < k) ++ [k] ++ m.filter (k < ·)

/-- A rising list of numbers without `k`. -/
def setDel (m : List Nat) (k : Nat) : List Nat := m.filter (· != k)

/-- The last element that satisfies `p`. -/
def findLast {α : Type} (xs : List α) (p : α → Bool) : Option α := xs.reverse.find? p

/-- Integers from `lo` to `hi`, inclusive. -/
def span (lo hi : Nat) : List Nat := (List.range (hi + 1 - lo)).map (· + lo)

/-! ### GF(2⁸) -/

/-- The product of two field elements modulo the degree-8 polynomial `poly`, by the bits of `b`. -/
def gfMulFrom (poly : Nat) : Nat → Nat → Nat → Nat → Nat
  | 0, _, _, acc => acc
  | k + 1, a, b, acc =>
    gfMulFrom poly k (if 128 ≤ a then (2 * a) ^^^ poly else 2 * a) (b / 2) (if b % 2 = 1 then acc ^^^ a else acc)

/-- The product in GF(2⁸). -/
def gfMul (poly a b : Nat) : Nat := gfMulFrom poly 8 a b 0

/-- A power in GF(2⁸). -/
def gfPow (poly a : Nat) : Nat → Nat
  | 0 => 1
  | n + 1 => gfMul poly a (gfPow poly a n)

/-- The inverse in GF(2⁸), 0 for 0. -/
def gfInv (poly a : Nat) : Nat := if a = 0 then 0 else gfPow poly a 254

/-- The field polynomial x⁸ + x⁴ + x³ + x² + 1 of the codes of R167 and R429. -/
def codePoly : Nat := 0x11D

end Sys2Proof.Machine
end

