-- ==== Sys2Proof/Machine/RegMap.lean ====
section
/-! DEFINITION. The registers of BAR0 (R568 to R579): each table of the spec as rows of offset, instances, stride, reset value and the
masks of its RW, W1C, W1S and RSVD bits; where each block lies; the register an offset names; its reset value. -/

namespace Sys2Proof.Machine

/-- A register or an array of registers of a block: `off` + `stride` × i for i < `n`. Bits in no mask are read-only. `rc` registers are
cleared by a read (Table 0.3). In the settings tables `rw` marks the WB bits. -/
structure RegDef where
  off : Nat
  n : Nat
  stride : Nat
  reset : Nat
  rw : Nat
  w1c : Nat
  w1s : Nat
  rsvd : Nat
  rc : Bool
  deriving DecidableEq, Repr

/-- Table 20.3, at 0x0000. -/
def identTable : List RegDef := [
  ⟨0x000, 1, 4, 0x12472, 0x0, 0x0, 0x0, 0x0, false⟩, -- IDENT
  ⟨0x004, 1, 4, 0x0, 0x0, 0x0, 0x0, 0xFFFFFF00, false⟩, -- STEP
  ⟨0x008, 1, 4, 0x1013F770, 0x0, 0x0, 0x0, 0xF, false⟩, -- CAP0
  ⟨0x00C, 1, 4, 0x40404020, 0x0, 0x0, 0x0, 0xF0000, false⟩, -- CAP1
  ⟨0x010, 1, 4, 0x302040, 0x0, 0x0, 0x0, 0x0, false⟩, -- CAP2
  ⟨0x014, 1, 4, 0x1FFF, 0x0, 0x0, 0x0, 0xFFFF0000, false⟩, -- CAP3
  ⟨0x018, 1, 4, 0x6A403E8, 0x0, 0x0, 0x0, 0x0, false⟩, -- CAP4
  ⟨0x020, 1, 4, 0x0, 0x0, 0x0, 0x0, 0x0, false⟩, -- SERIAL_LO
  ⟨0x024, 1, 4, 0x0, 0x0, 0x0, 0x0, 0x0, false⟩] -- SERIAL_HI

/-- Table 20.5. -/
def globalTable : List RegDef := [
  ⟨0x000, 1, 4, 0x0, 0x0, 0x0, 0x0, 0x7FFFFF00, false⟩, -- GLB_STATUS
  ⟨0x004, 1, 4, 0x0, 0xFFFFFFFF, 0x0, 0x0, 0x0, false⟩, -- GLB_SCRATCH
  ⟨0x008, 1, 4, 0x0, 0x0, 0x0, 0x0, 0x0, false⟩, -- UPTIME_LO
  ⟨0x00C, 1, 4, 0x0, 0x0, 0x0, 0x0, 0x0, false⟩] -- UPTIME_HI

/-- Table 10.5. -/
def poolTable : List RegDef := [
  ⟨0x100, 1, 4, 0x0, 0x0, 0x0, 0x0, 0x0, true⟩, -- POOL_ADMIT
  ⟨0x104, 1, 4, 0x0, 0x0, 0x0, 0x0, 0x0, true⟩, -- POOL_REFUSE
  ⟨0x108, 1, 4, 0x0, 0x0, 0x0, 0x0, 0x0, true⟩, -- POOL_EVICT
  ⟨0x10C, 1, 4, 0x0, 0x0, 0x0, 0x0, 0x0, true⟩, -- POOL_WAIT
  ⟨0x110, 1, 4, 0x0, 0x0, 0x0, 0x0, 0x0, true⟩, -- POOL_BAD
  ⟨0x114, 1, 4, 0x0, 0x0, 0x0, 0x0, 0xFFFF0000, false⟩, -- POOL_LIVE
  ⟨0x120, 1, 4, 0x0, 0x0, 0x0, 0x0, 0x3F00, false⟩, -- STAGE_ID
  ⟨0x124, 1, 4, 0x0, 0x0, 0x0, 0x0, 0xFFFF8000, false⟩] -- STAGE_SIZE

/-- Table 11.7. -/
def shardTable : List RegDef := [
  ⟨0x140, 1, 4, 0x0, 0xC0003FFF, 0x0, 0x0, 0x3FFFC000, false⟩, -- COMMIT_PORT
  ⟨0x144, 1, 4, 0x0, 0xFFFFFFFF, 0x0, 0x0, 0x0, false⟩, -- SHARD_DIR_LO
  ⟨0x148, 1, 4, 0x0, 0xFFFFFFFF, 0x0, 0x0, 0x0, false⟩, -- SHARD_DIR_HI
  ⟨0x14C, 1, 4, 0x0, 0x7FFF, 0x0, 0x0, 0xFFFF8000, false⟩, -- SHARD_DIR_COUNT
  ⟨0x150, 1, 4, 0x0, 0xFFFFFFFF, 0x0, 0x0, 0x0, false⟩, -- UNDO_BELL_LO
  ⟨0x154, 1, 4, 0x0, 0xFFFF, 0x0, 0x0, 0xFFFF0000, false⟩, -- UNDO_BELL_HI
  ⟨0x158, 1, 4, 0x0, 0x0, 0x0, 0x80000000, 0x3FFFFFFF, false⟩, -- UNDO_CTRL
  ⟨0x15C, 1, 4, 0x0, 0x80000000, 0x0, 0x0, 0x7FFFFFFF, false⟩, -- DS_CTRL
  ⟨0x160, 1, 4, 0x0, 0x0, 0x0, 0x0, 0x0, false⟩, -- DS_WPTR
  ⟨0x164, 1, 4, 0x0, 0xFFFFFFFF, 0x0, 0x0, 0x0, false⟩, -- DS_RPTR
  ⟨0x168, 1, 4, 0x0, 0x0, 0x0, 0x0, 0x0, true⟩, -- FLIPS
  ⟨0x16C, 1, 4, 0x0, 0x0, 0x0, 0x0, 0x0, true⟩, -- UNDOS
  ⟨0x170, 1, 4, 0x0, 0x0, 0x0, 0x0, 0x0, true⟩, -- UNDO_REFUSED
  ⟨0x174, 1, 4, 0x0, 0x0, 0x0, 0x0, 0x0, true⟩, -- PORT_ERR
  ⟨0x178, 1, 4, 0x0, 0x0, 0x0, 0x0, 0x0, true⟩, -- DS_STALL
  ⟨0x17C, 1, 4, 0x0, 0x0, 0x0, 0x0, 0x0, true⟩, -- BARN_STALL_COUNT
  ⟨0x180, 1, 4, 0x0, 0x0, 0x0, 0x0, 0x0, true⟩, -- BARN_WATCH_FULL
  ⟨0x184, 1, 4, 0x0, 0x0, 0x0, 0x0, 0x0, true⟩] -- BARN_MISMATCH

/-- Table 19.7. -/
def powerTable : List RegDef := [
  ⟨0x200, 1, 4, 0x0, 0x0, 0x0, 0x0, 0x3F000000, false⟩, -- PWR_STATUS
  ⟨0x204, 1, 4, 0xC80, 0xFFF, 0x0, 0x0, 0xFFFFF000, false⟩, -- PWR_LIMIT
  ⟨0x208, 1, 4, 0xC80, 0x0, 0x0, 0x0, 0xFFFFF000, false⟩, -- PWR_LIMIT_EFF
  ⟨0x20C, 1, 4, 0x0, 0x0, 0x0, 0x0, 0xFFFF0000, false⟩, -- TEMP_MAX
  ⟨0x210, 1, 4, 0x0, 0x0, 0x0, 0x0, 0x0, true⟩, -- GATED_CLOCKS
  ⟨0x214, 1, 4, 0x0, 0x0, 0x0, 0x0, 0xFFFC0C0, false⟩, -- BOOT_STATUS
  ⟨0x218, 1, 4, 0x0, 0x0, 0x0, 0x0, 0x0, false⟩, -- BOOT_BUILD
  ⟨0x21C, 1, 4, 0x0, 0x0, 0x0, 0x0, 0xFFFFFFF8, false⟩] -- BOARD

/-- Table 9.7. -/
def bellTable : List RegDef := [
  ⟨0x000, 1, 4, 0x14, 0xE00003FF, 0x0, 0x0, 0x1FFFFC00, false⟩, -- BELL_CTRL
  ⟨0x004, 1, 4, 0x0, 0x0, 0x3800000, 0x0, 0x7FFFF8, false⟩, -- BELL_STATUS
  ⟨0x008, 1, 4, 0x0, 0x0, 0x0, 0x0, 0x0, false⟩, -- BELL_NUM_LO
  ⟨0x00C, 1, 4, 0x0, 0x0, 0x0, 0x0, 0x0, false⟩, -- BELL_NUM_HI
  ⟨0x010, 1, 4, 0x0, 0xFFFFFFFF, 0x0, 0x0, 0x0, false⟩, -- START_LO
  ⟨0x014, 1, 4, 0x0, 0xFFFFFFFF, 0x0, 0x0, 0x0, false⟩, -- START_HI
  ⟨0x018, 1, 4, 0x0, 0xFFFFFFFF, 0x0, 0x0, 0x0, false⟩, -- ARM_LO
  ⟨0x01C, 1, 4, 0x0, 0xFFFFFFFF, 0x0, 0x0, 0x0, false⟩, -- ARM_HI
  ⟨0x020, 1, 4, 0x0, 0x0, 0x0, 0xC0000000, 0x3FFFFFFF, false⟩, -- ARM_CTRL
  ⟨0x024, 1, 4, 0x0, 0xFFFF, 0x0, 0x0, 0xFFFF0000, false⟩, -- BELL_IN_DELAY
  ⟨0x028, 1, 4, 0x0, 0x0, 0x0, 0x0, 0x0, false⟩, -- LAST_CORR
  ⟨0x02C, 1, 4, 0x0, 0x0, 0x0, 0x0, 0x0, true⟩, -- MISSED
  ⟨0x030, 1, 4, 0x0, 0x0, 0x0, 0x0, 0x0, true⟩, -- PERIOD_MISMATCH
  ⟨0x034, 1, 4, 0x0, 0x0, 0x0, 0x0, 0x0, true⟩] -- LATE_ARMS

/-- Table 20.6. -/
def irqTable : List RegDef := [
  ⟨0x000, 32, 4, 0x0, 0xFF, 0x0, 0x0, 0xFFFFFF00, false⟩, -- DMA_VEC[c]
  ⟨0x080, 1, 4, 0x81, 0xFF, 0x0, 0x0, 0xFFFFFF00, false⟩, -- ERR_VEC
  ⟨0x084, 1, 4, 0x82, 0xFF, 0x0, 0x0, 0xFFFFFF00, false⟩, -- EVT_VEC
  ⟨0x100, 1, 4, 0x0, 0x0, 0x0, 0x0, 0xFFFFE000, false⟩, -- EVT_SUMMARY
  ⟨0x104, 1, 4, 0x1FFF, 0x1FFF, 0x0, 0x0, 0xFFFFE000, false⟩] -- EVT_MASK

/-- Table 8.15. -/
def ringTable : List RegDef := [
  ⟨0x000, 1, 4, 0x6, 0x8CFF001F, 0x0, 0x60000000, 0x1300FFE0, false⟩, -- CTRL
  ⟨0x004, 1, 4, 0x0, 0x0, 0x0, 0x0, 0xFFFFFFFC, false⟩, -- STATE
  ⟨0x008, 1, 4, 0x0, 0xFFFFFFFF, 0x0, 0x0, 0x0, false⟩, -- SQ_BASE_LO
  ⟨0x00C, 1, 4, 0x0, 0xFFFFFFFF, 0x0, 0x0, 0x0, false⟩, -- SQ_BASE_HI
  ⟨0x010, 1, 4, 0x0, 0xFFFFFFFF, 0x0, 0x0, 0x0, false⟩, -- CQ_BASE_LO
  ⟨0x014, 1, 4, 0x0, 0xFFFFFFFF, 0x0, 0x0, 0x0, false⟩, -- CQ_BASE_HI
  ⟨0x018, 1, 4, 0x0, 0x0, 0x0, 0x0, 0x0, false⟩, -- PTR
  ⟨0x01C, 1, 4, 0x0, 0x0, 0x0, 0x0, 0x0, false⟩, -- CPTR
  ⟨0x020, 1, 4, 0x0, 0x0, 0x0, 0x0, 0xFF0000, false⟩, -- HALT
  ⟨0x024, 1, 4, 0x0, 0xFFFFFFE0, 0x0, 0x0, 0x1F, false⟩, -- INTR
  ⟨0x028, 1, 4, 0x0, 0x0, 0xC0000000, 0x0, 0x3FFFFFFF, false⟩, -- EVENT
  ⟨0x02C, 1, 4, 0x0, 0x0, 0x0, 0x0, 0x0, true⟩, -- DB_DROP
  ⟨0x030, 1, 4, 0x0, 0x0, 0x0, 0x0, 0x0, true⟩, -- CQ_STALL
  ⟨0x034, 1, 4, 0x0, 0x0, 0x0, 0x0, 0x0, false⟩, -- DONE
  ⟨0x040, 1, 4, 0x0, 0xFFFFFFFF, 0x0, 0x0, 0x0, false⟩, -- RPT_BASE_LO
  ⟨0x044, 1, 4, 0x0, 0xFFFFFFFF, 0x0, 0x0, 0x0, false⟩, -- RPT_BASE_HI
  ⟨0x048, 1, 4, 0x20000410, 0xFFC00F1F, 0x0, 0x0, 0x3FF0E0, false⟩, -- RPT_CFG
  ⟨0x04C, 1, 4, 0x0, 0x0, 0x0, 0x0, 0xFFFF0000, false⟩, -- RPT_PTR
  ⟨0x050, 1, 4, 0x0, 0x0, 0x0, 0x0, 0x0, true⟩, -- RPT_OVERWRITE
  ⟨0x054, 1, 4, 0x0, 0x0, 0x0, 0x0, 0x0, true⟩] -- RPT_TRUNC

/-- Table 7.6. -/
def chanTable : List RegDef := [
  ⟨0x000, 1, 4, 0x18, 0xF8, 0x0, 0xE0000000, 0x1FFFFF07, false⟩, -- CTRL
  ⟨0x004, 1, 4, 0x0, 0x0, 0x0, 0x0, 0xFFFFF8, false⟩, -- STATE
  ⟨0x008, 1, 4, 0x0, 0x0, 0xC0000000, 0x0, 0x3FFFFFFF, false⟩, -- EVENT
  ⟨0x00C, 1, 4, 0x0, 0x0, 0x0, 0x0, 0x0, true⟩, -- CMD_DROP
  ⟨0x010, 1, 4, 0x0, 0x0, 0x0, 0x0, 0x0, true⟩, -- RETRY_COUNT
  ⟨0x014, 1, 4, 0x0, 0x0, 0x0, 0x0, 0x0, true⟩, -- BUS_ERR_COUNT
  ⟨0x018, 1, 4, 0x0, 0x0, 0x0, 0x0, 0x0, true⟩, -- POISON_IN
  ⟨0x01C, 1, 4, 0x0, 0x0, 0x0, 0x0, 0x0, false⟩, -- SEQ
  ⟨0x080, 32, 4, 0x0, 0xFFFFFFFF, 0x0, 0x0, 0x0, false⟩, -- DESC[0–31]
  ⟨0x100, 8, 4, 0x0, 0x0, 0x0, 0x0, 0x0, false⟩] -- STATUS[0–7]

/-- Table 9.6. -/
def coreTallyTable : List RegDef := [
  ⟨0xC00, 64, 4, 0x0, 0xFFFF, 0x0, 0x0, 0xFFFF0000, false⟩, -- TALLY[t]
  ⟨0xD00, 1, 4, 0x0, 0x0, 0x0, 0x0, 0xFFFF0000, false⟩, -- STREAM_STATE
  ⟨0xD04, 1, 4, 0x0, 0x0, 0x0, 0x0, 0x0, false⟩, -- SLOT_BELL_LO
  ⟨0xD08, 1, 4, 0x0, 0x0, 0x0, 0x0, 0x0, false⟩] -- SLOT_BELL_HI

/-- Table 2.8. -/
def coreNumTable : List RegDef := [
  ⟨0xE00, 1, 4, 0x0, 0x0, 0x0, 0x0, 0x0, true⟩, -- OVF_COUNT
  ⟨0xE04, 1, 4, 0x0, 0x0, 0x0, 0x0, 0x0, true⟩, -- FLUSH_COUNT
  ⟨0xE08, 1, 4, 0x0, 0x0, 0x0, 0x0, 0x0, true⟩, -- NAN_GEN_COUNT
  ⟨0xE0C, 1, 4, 0x0, 0x0, 0x0, 0x0, 0x0, true⟩] -- NF_CONV_COUNT

/-- Table 3.6. -/
def coreArrayTable : List RegDef := [
  ⟨0xE10, 1, 4, 0x0, 0x0, 0x0, 0x0, 0x0, true⟩, -- SLICE_SPREAD
  ⟨0xE14, 1, 4, 0x0, 0x0, 0x0, 0x0, 0x0, true⟩, -- COLSUM_DROP
  ⟨0xE18, 1, 4, 0x0, 0x0, 0x0, 0x0, 0x0, true⟩, -- MX_RESIDUE
  ⟨0xE1C, 1, 4, 0x0, 0x0, 0x80000000, 0x0, 0xFFFF000, false⟩, -- MX_FAULT
  ⟨0xE20, 1, 4, 0x0, 0x0, 0x0, 0x0, 0xFFFFFFF0, false⟩] -- MX_BANKS

/-- Table 5.14. -/
def coreVectorTable : List RegDef := [
  ⟨0xE24, 1, 4, 0x0, 0xFFFF, 0x0, 0x0, 0xFFFF0000, false⟩, -- VX_STAB_BASE
  ⟨0xE28, 1, 4, 0x0, 0xFFFF, 0x0, 0x0, 0xFFFF0000, false⟩, -- VX_RCP_BASE
  ⟨0xE2C, 1, 4, 0x0, 0x0, 0x80000000, 0x0, 0x7FFF800, false⟩, -- VX_FAULT
  ⟨0xE30, 1, 4, 0x0, 0x0, 0x80000000, 0x0, 0x7FFF000, false⟩, -- RX_FAULT
  ⟨0xE34, 1, 4, 0x0, 0x0, 0x0, 0x0, 0x0, true⟩, -- GATHER_OOB
  ⟨0xE38, 1, 4, 0x0, 0x0, 0x0, 0x0, 0x0, true⟩, -- LACC_DROP
  ⟨0xE3C, 1, 4, 0x0, 0x0, 0x0, 0x0, 0x0, true⟩, -- SLICE_INEXACT
  ⟨0xE40, 1, 4, 0x0, 0x0, 0x0, 0x0, 0x0, true⟩, -- MASKED_ROWS
  ⟨0xE44, 1, 4, 0x0, 0x0, 0x0, 0x0, 0x0, true⟩, -- VX_RESIDUE
  ⟨0xE48, 1, 4, 0x0, 0x0, 0x0, 0x0, 0x0, true⟩] -- RX_RESIDUE

/-- Table 6.9. -/
def coreMoverTable : List RegDef := [
  ⟨0xE4C, 1, 4, 0x0, 0x0, 0x0, 0x0, 0x0, true⟩, -- SP_CE_COUNT
  ⟨0xE50, 1, 4, 0x0, 0x0, 0x0, 0x0, 0x0, true⟩, -- SP_UE_COUNT
  ⟨0xE54, 1, 4, 0x0, 0x0, 0x0, 0x0, 0x0, true⟩, -- MV_OOB
  ⟨0xE58, 1, 4, 0x0, 0x0, 0x80000000, 0x0, 0x7FFF800, false⟩] -- MV_FAULT

/-- Table 12.9. -/
def portTable : List RegDef := [
  ⟨0x000, 1, 4, 0x1000000, 0xBF000000, 0x0, 0x40000000, 0xFFFFFF, false⟩, -- PORT_CTRL
  ⟨0x004, 1, 4, 0x0, 0x0, 0x0, 0x0, 0x7, false⟩, -- PORT_STATUS
  ⟨0x008, 1, 4, 0x0, 0x0, 0xF8000000, 0x0, 0x7FFFFFF, false⟩, -- EVENT
  ⟨0x010, 1, 4, 0x0, 0x87FFFFFF, 0x0, 0x0, 0x78000000, false⟩, -- EXP_ID
  ⟨0x014, 1, 4, 0x0, 0xFFFFFFFF, 0x0, 0x0, 0x0, false⟩, -- EXP_SER_LO
  ⟨0x018, 1, 4, 0x0, 0xFFFFFFFF, 0x0, 0x0, 0x0, false⟩, -- EXP_SER_HI
  ⟨0x01C, 1, 4, 0x0, 0x0, 0x0, 0x0, 0xF8000000, false⟩, -- NBR_ID
  ⟨0x020, 1, 4, 0x0, 0x0, 0x0, 0x0, 0x0, false⟩, -- NBR_SER_LO
  ⟨0x024, 1, 4, 0x0, 0x0, 0x0, 0x0, 0x0, false⟩, -- NBR_SER_HI
  ⟨0x028, 1, 4, 0x0, 0x0, 0x0, 0x0, 0x0, false⟩, -- LINK_DELAY
  ⟨0x02C, 1, 4, 0x0, 0xFFFFFFFF, 0x0, 0x0, 0x0, false⟩, -- DELAY_TRIM
  ⟨0x030, 1, 4, 0x40201, 0xFFFFFF, 0x0, 0x0, 0xFF000000, false⟩, -- VC_WEIGHT
  ⟨0x034, 1, 4, 0x10030000, 0xFFFF0000, 0x0, 0x0, 0xFFFF, false⟩, -- RETRAIN_CFG
  ⟨0x040, 1, 4, 0x0, 0x0, 0x0, 0x0, 0x0, true⟩, -- FEC_CORR
  ⟨0x044, 1, 4, 0x0, 0x0, 0x0, 0x0, 0x0, true⟩, -- FEC_UNCORR
  ⟨0x048, 1, 4, 0x0, 0x0, 0x0, 0x0, 0x0, true⟩, -- CRC_ERR
  ⟨0x04C, 1, 4, 0x0, 0x0, 0x0, 0x0, 0x0, true⟩, -- RETRY
  ⟨0x050, 1, 4, 0x0, 0x0, 0x0, 0x0, 0x0, true⟩, -- RETRAIN_COUNT
  ⟨0x054, 1, 4, 0x0, 0x0, 0x0, 0x0, 0x0, true⟩, -- FLITS_TX
  ⟨0x058, 1, 4, 0x0, 0x0, 0x0, 0x0, 0x0, true⟩, -- FLITS_FWD
  ⟨0x05C, 1, 4, 0x0, 0x0, 0x0, 0x0, 0x0, true⟩, -- DROPPED
  ⟨0x060, 1, 4, 0x0, 0x0, 0x0, 0x0, 0x0, true⟩] -- CREDIT_STALL

/-- Table 14.7. -/
def ethTable : List RegDef := [
  ⟨0x004, 1, 4, 0x0, 0x0, 0x0, 0x0, 0x7FFFFFFF, false⟩, -- ETH_STATUS
  ⟨0x008, 1, 4, 0x0, 0x0, 0xC0000000, 0x0, 0x3FFFFFFF, false⟩, -- ETH_EVENT
  ⟨0x010, 1, 4, 0x0, 0xFFFFFFFF, 0x0, 0x0, 0x0, false⟩, -- MAC_LO
  ⟨0x014, 1, 4, 0x0, 0xFFFF, 0x0, 0x0, 0xFFFF0000, false⟩, -- MAC_HI
  ⟨0x018, 1, 4, 0x0, 0xCFFFFFFF, 0x0, 0x0, 0x30000000, false⟩, -- ETH_CFG
  ⟨0x01C, 1, 4, 0x40000000, 0xFFFFFFFF, 0x0, 0x0, 0x0, false⟩, -- UDP_CFG
  ⟨0x020, 4, 4, 0x0, 0xFFFFFFFF, 0x0, 0x0, 0x0, false⟩, -- IP6_ADDR[0–3]
  ⟨0x040, 1, 4, 0x0, 0x0, 0x0, 0x0, 0x0, true⟩, -- FRAMES_TX
  ⟨0x044, 1, 4, 0x0, 0x0, 0x0, 0x0, 0x0, true⟩, -- FRAMES_RX
  ⟨0x048, 1, 4, 0x0, 0x0, 0x0, 0x0, 0x0, true⟩, -- FCS_ERR
  ⟨0x04C, 1, 4, 0x0, 0x0, 0x0, 0x0, 0x0, true⟩, -- FILTERED
  ⟨0x050, 1, 4, 0x0, 0x0, 0x0, 0x0, 0x0, true⟩, -- OVERSIZE
  ⟨0x054, 1, 4, 0x0, 0x0, 0x0, 0x0, 0x0, true⟩, -- PAUSE_DROP
  ⟨0x058, 1, 4, 0x0, 0x0, 0x0, 0x0, 0x0, true⟩, -- FEC_CORR
  ⟨0x05C, 1, 4, 0x0, 0x0, 0x0, 0x0, 0x0, true⟩] -- FEC_UNCORR

/-- Table 12.10. -/
def fabTable : List RegDef := [
  ⟨0x3000, 1, 4, 0x0, 0xFFFFFFFF, 0x0, 0x0, 0x0, false⟩, -- FAB_ID
  ⟨0x3004, 1, 4, 0x0, 0xFFFFFF, 0x0, 0x0, 0xFF000000, false⟩, -- TORUS_SIZE
  ⟨0x3008, 1, 4, 0x7D0, 0x8000FFFF, 0x0, 0x0, 0x7FFF0000, false⟩, -- FAB_CTRL
  ⟨0x300C, 1, 4, 0x0, 0x0, 0x80000000, 0x0, 0x7FFFFFFF, false⟩, -- FAB_EVENT
  ⟨0x3010, 1, 4, 0x0, 0x0, 0x0, 0x0, 0x0, true⟩, -- UNROUTABLE
  ⟨0x3014, 1, 4, 0x0, 0x0, 0x0, 0x0, 0x0, true⟩, -- REMOTE_FAIL
  ⟨0x3018, 1, 4, 0x0, 0x0, 0x0, 0x0, 0x0, true⟩] -- LATE_RESP

/-- Table 13.8. -/
def redTable : List RegDef := [
  ⟨0x000, 1, 4, 0x0, 0xFFF, 0x0, 0x0, 0xFFFFF000, false⟩, -- BUCKET_READY
  ⟨0x004, 1, 4, 0x0, 0x0, 0xE0000000, 0x0, 0x1FFFFFFF, false⟩, -- RED_EVENT
  ⟨0x008, 1, 4, 0x0, 0x0, 0x0, 0x0, 0x0, true⟩, -- BUCKETS_DONE
  ⟨0x00C, 1, 4, 0x0, 0x0, 0x0, 0x0, 0x0, true⟩, -- OWN_INCLUDED
  ⟨0x010, 1, 4, 0x0, 0x0, 0x0, 0x0, 0x0, true⟩, -- OWN_EXCLUDED
  ⟨0x014, 1, 4, 0x0, 0x0, 0x0, 0x0, 0x0, true⟩, -- LATE_ADDED
  ⟨0x018, 1, 4, 0x0, 0x0, 0x0, 0x0, 0x0, true⟩, -- LATE_DROPPED
  ⟨0x01C, 1, 4, 0x0, 0x0, 0x0, 0x0, 0x0, true⟩, -- STEPS_SKIPPED
  ⟨0x020, 1, 4, 0x0, 0x0, 0x0, 0x0, 0x0, true⟩, -- SEG_MISS
  ⟨0x024, 1, 4, 0x0, 0x0, 0x0, 0x0, 0x0, true⟩, -- READY_ERR
  ⟨0x028, 1, 4, 0x0, 0x0, 0x0, 0x0, 0x0, true⟩, -- CURFEW_HOLDS
  ⟨0x02C, 1, 4, 0x0, 0x0, 0x0, 0x0, 0xFFFF8000, false⟩] -- IN_FLIGHT

/-- Table 14.9. -/
def stlTable : List RegDef := [
  ⟨0x000, 1, 4, 0x40, 0x800000F0, 0x0, 0x0, 0x7FFFFF0F, false⟩, -- STL_CTRL
  ⟨0x004, 1, 4, 0x3201F4, 0xFFFFFFFF, 0x0, 0x0, 0x0, false⟩, -- STL_TIMERS
  ⟨0x008, 1, 4, 0x0, 0xFFFFFFFF, 0x0, 0x0, 0x0, false⟩, -- STL_TABLE_LO
  ⟨0x00C, 1, 4, 0x0, 0xFFFFFFFF, 0x0, 0x0, 0x0, false⟩, -- STL_TABLE_HI
  ⟨0x010, 1, 4, 0x0, 0xFFFFFFFF, 0x0, 0x0, 0x0, false⟩, -- STORE_BASE_LO
  ⟨0x014, 1, 4, 0x0, 0xFFFFFFFF, 0x0, 0x0, 0x0, false⟩, -- STORE_BASE_HI
  ⟨0x018, 1, 4, 0x0, 0xFFFFFFFF, 0x0, 0x0, 0x0, false⟩, -- STORE_SIZE
  ⟨0x01C, 1, 4, 0x0, 0xFFFFFFFF, 0x0, 0x0, 0x0, false⟩, -- RX_RING_LO
  ⟨0x020, 1, 4, 0x0, 0xFFFFFFFF, 0x0, 0x0, 0x0, false⟩, -- RX_RING_HI
  ⟨0x024, 1, 4, 0x0, 0xFFFFFFFF, 0x0, 0x0, 0x0, false⟩, -- RX_RING_SIZE
  ⟨0x028, 1, 4, 0x0, 0x0, 0x0, 0x0, 0x0, false⟩, -- RX_WPTR
  ⟨0x02C, 1, 4, 0x0, 0xFFFFFFFF, 0x0, 0x0, 0x0, false⟩, -- RX_RPTR
  ⟨0x030, 1, 4, 0x0, 0x80003F3F, 0x0, 0x0, 0x7FFFC0C0, false⟩, -- RX_SIG
  ⟨0x034, 1, 4, 0x0, 0x0, 0x0, 0x0, 0xFFFF0000, false⟩, -- ROAD_UP
  ⟨0x038, 1, 4, 0x0, 0x0, 0xE0000000, 0x0, 0x1FFFFFFF, false⟩, -- STL_EVENT
  ⟨0x040, 4, 4, 0x1F40, 0x0, 0x0, 0x0, 0x0, false⟩, -- WINDOW[p]
  ⟨0x050, 1, 4, 0x0, 0x0, 0x0, 0x0, 0x0, true⟩, -- GROUPS_TX
  ⟨0x054, 1, 4, 0x0, 0x0, 0x0, 0x0, 0x0, true⟩, -- GROUPS_RX
  ⟨0x058, 1, 4, 0x0, 0x0, 0x0, 0x0, 0x0, true⟩, -- GROUPS_REBUILT
  ⟨0x05C, 1, 4, 0x0, 0x0, 0x0, 0x0, 0x0, true⟩, -- SHARDS_LATE
  ⟨0x060, 1, 4, 0x0, 0x0, 0x0, 0x0, 0x0, true⟩, -- NAKS_TX
  ⟨0x064, 1, 4, 0x0, 0x0, 0x0, 0x0, 0x0, true⟩, -- NAKS_RX
  ⟨0x068, 1, 4, 0x0, 0x0, 0x0, 0x0, 0x0, true⟩, -- RESENDS
  ⟨0x06C, 1, 4, 0x0, 0x0, 0x0, 0x0, 0x0, true⟩, -- GAVE_UP
  ⟨0x070, 1, 4, 0x0, 0x0, 0x0, 0x0, 0x0, true⟩, -- DUPLICATES
  ⟨0x074, 1, 4, 0x0, 0x0, 0x0, 0x0, 0x0, true⟩, -- AUTH_FAIL
  ⟨0x078, 1, 4, 0x0, 0x0, 0x0, 0x0, 0x0, true⟩, -- SUBMIT_REFUSED
  ⟨0x07C, 1, 4, 0x0, 0x0, 0x0, 0x0, 0x0, true⟩, -- RX_FULL
  ⟨0x080, 16, 8, 0x0, 0x0, 0x0, 0x0, 0x0, false⟩, -- ROAD_SRTT[r]
  ⟨0x084, 16, 8, 0x0, 0x0, 0x0, 0x0, 0x0, false⟩] -- ROAD_VAR[r]

/-- Table 15.9. -/
def marketTable : List RegDef := [
  ⟨0x100, 1, 4, 0x0, 0xC0000003, 0x0, 0x0, 0x3FFFFFFC, false⟩, -- MKT_CMD
  ⟨0x104, 1, 4, 0x0, 0xFFFFFFFF, 0x0, 0x0, 0x0, false⟩, -- LEDGER_BASE_LO
  ⟨0x108, 1, 4, 0x0, 0xFFFFFFFF, 0x0, 0x0, 0x0, false⟩, -- LEDGER_BASE_HI
  ⟨0x10C, 1, 4, 0x0, 0x80003F3F, 0x0, 0x0, 0x7FFFC0C0, false⟩, -- MKT_SIG
  ⟨0x110, 1, 4, 0x0, 0x0, 0x0, 0x0, 0x1FFFFFFF, false⟩, -- MKT_STATUS
  ⟨0x114, 1, 4, 0x0, 0x0, 0x0, 0x0, 0x0, false⟩, -- LEDGER_ROUND_LO
  ⟨0x118, 1, 4, 0x0, 0x0, 0x0, 0x0, 0x0, false⟩, -- LEDGER_ROUND_HI
  ⟨0x11C, 1, 4, 0x0, 0x0, 0xF8000000, 0x0, 0x7FFFFFF, false⟩, -- MKT_EVENT
  ⟨0x120, 1, 4, 0x0, 0x0, 0x0, 0x0, 0x0, true⟩, -- HOLD_COUNT
  ⟨0x124, 1, 4, 0x0, 0x0, 0x0, 0x0, 0x0, true⟩, -- LOST_COUNT
  ⟨0x128, 1, 4, 0x0, 0x0, 0x0, 0x0, 0x0, true⟩, -- CONTRIB_TX
  ⟨0x12C, 1, 4, 0x0, 0x0, 0x0, 0x0, 0x0, true⟩, -- CONTRIB_RX
  ⟨0x130, 1, 4, 0x0, 0x0, 0x0, 0x0, 0x0, true⟩, -- CONTRIB_STALE
  ⟨0x134, 1, 4, 0x0, 0x0, 0x0, 0x0, 0x0, true⟩, -- DUP_CONTRIB
  ⟨0x138, 1, 4, 0x0, 0x0, 0x0, 0x0, 0x0, true⟩, -- LEDGERS_CLOSED
  ⟨0x13C, 1, 4, 0x0, 0x0, 0x0, 0x0, 0x0, true⟩, -- LEDGER_CONFLICT
  ⟨0x140, 1, 4, 0x0, 0x0, 0x0, 0x0, 0x0, true⟩, -- STATE_TX
  ⟨0x144, 1, 4, 0x0, 0x0, 0x0, 0x0, 0x0, true⟩] -- STATE_RX

/-- Table 16.7, bank and key-store registers. -/
def cipherTable : List RegDef := [
  ⟨0x000, 1, 4, 0x0, 0x0, 0x0, 0x0, 0x1FFFFE00, false⟩, -- BANK_INFO
  ⟨0x004, 1, 4, 0x0, 0x0, 0x0, 0x0, 0x0, true⟩, -- MSG_SEALED
  ⟨0x008, 1, 4, 0x0, 0x0, 0x0, 0x0, 0x0, true⟩, -- MSG_OPENED
  ⟨0x00C, 1, 4, 0x0, 0x0, 0x0, 0x0, 0x0, true⟩, -- BLOCKS
  ⟨0x010, 1, 4, 0x0, 0x0, 0x0, 0x0, 0x0, true⟩, -- TAG_FAIL
  ⟨0x014, 1, 4, 0x0, 0x0, 0x0, 0x0, 0x0, true⟩, -- SUSPENDS
  ⟨0x018, 1, 4, 0x0, 0x0, 0x0, 0x0, 0x0, true⟩, -- KEY_MISS
  ⟨0x01C, 1, 4, 0x0, 0x0, 0x0, 0x0, 0x0, true⟩, -- NONCE_EXH
  ⟨0x020, 1, 4, 0x0, 0x0, 0x0, 0x0, 0x0, true⟩, -- DERIVES
  ⟨0x024, 1, 4, 0x0, 0x0, 0xC0000000, 0x0, 0x3FFFFFFF, false⟩, -- CIPH_EVENT
  ⟨0x100, 1, 4, 0x0, 0x0, 0x0, 0x0, 0x7F000000, false⟩, -- KS_STATUS
  ⟨0x104, 1, 4, 0x0, 0x0, 0x0, 0x0, 0x0, false⟩, -- EPOCH_CUR
  ⟨0x108, 1, 4, 0x0, 0x0, 0x0, 0x0, 0x0, false⟩, -- EPOCH_PREV
  ⟨0x10C, 1, 4, 0x0, 0x0, 0x0, 0x0, 0x0, false⟩, -- GRACE_END_LO
  ⟨0x110, 1, 4, 0x0, 0x0, 0x0, 0x0, 0x0, false⟩, -- GRACE_END_HI
  ⟨0x200, 64, 4, 0x0, 0x0, 0x0, 0x0, 0x3F000000, false⟩, -- SLOT[i]
  ⟨0x300, 8, 4, 0x0, 0x0, 0x0, 0x0, 0x3F000000, false⟩] -- ROOT[j]

/-- Table 17.7. -/
def integrityTable : List RegDef := [
  ⟨0x000, 1, 4, 0x0, 0x0, 0x0, 0x0, 0xFFFFFF, false⟩, -- INT_STATUS
  ⟨0x004, 1, 4, 0x0, 0x0, 0xF8000000, 0x0, 0x7FFFFFF, false⟩, -- INT_EVENT
  ⟨0x010, 1, 4, 0x0, 0x0, 0x0, 0x0, 0x0, true⟩, -- CASES_OPENED
  ⟨0x014, 1, 4, 0x0, 0x0, 0x0, 0x0, 0x0, true⟩, -- HOLDS_RECEIVED
  ⟨0x018, 1, 4, 0x0, 0x0, 0x0, 0x0, 0x0, true⟩, -- REPLAYS_RUN
  ⟨0x01C, 1, 4, 0x0, 0x0, 0x0, 0x0, 0x0, true⟩, -- CONFIRMED
  ⟨0x020, 1, 4, 0x0, 0x0, 0x0, 0x0, 0x0, true⟩, -- REPLACED
  ⟨0x024, 1, 4, 0x0, 0x0, 0x0, 0x0, 0x0, true⟩, -- DROPPED
  ⟨0x028, 1, 4, 0x0, 0x0, 0x0, 0x0, 0x0, true⟩, -- RERUNS
  ⟨0x02C, 1, 4, 0x0, 0x0, 0x0, 0x0, 0x0, true⟩, -- LATE_VERDICT
  ⟨0x030, 1, 4, 0x0, 0x0, 0x0, 0x0, 0x0, true⟩, -- AUDITS_RUN
  ⟨0x034, 1, 4, 0x0, 0x0, 0x0, 0x0, 0x0, true⟩, -- AUDIT_FAIL
  ⟨0x038, 1, 4, 0x0, 0x0, 0x0, 0x0, 0x0, true⟩, -- AUDIT_SKIP
  ⟨0x03C, 1, 4, 0x0, 0x0, 0x0, 0x0, 0x0, true⟩, -- NORM_EXC
  ⟨0x040, 1, 4, 0x0, 0x0, 0x0, 0x0, 0x0, true⟩, -- PARITY_ERR
  ⟨0x044, 1, 4, 0x0, 0x0, 0x0, 0x0, 0x0, true⟩, -- POISON_REPLAY
  ⟨0x048, 1, 4, 0x0, 0x0, 0x0, 0x0, 0x0, true⟩, -- POISON_CONS
  ⟨0x04C, 1, 4, 0x0, 0x0, 0x0, 0x0, 0x0, true⟩] -- FLIPS_REFUSED

/-- Table 20.7. -/
def errorTable : List RegDef := [
  ⟨0x100, 1, 4, 0x0, 0x0, 0x80000000, 0x0, 0x7FFFFFFF, false⟩, -- ERR_EVENT
  ⟨0x104, 1, 4, 0x0, 0x80000000, 0x0, 0x0, 0x7FFFFFFF, false⟩, -- ERR_CTRL
  ⟨0x108, 1, 4, 0x0, 0x0, 0x0, 0x0, 0x0, true⟩, -- ERR_COUNT
  ⟨0x10C, 1, 4, 0x0, 0x0, 0x80000000, 0x0, 0x7F000000, false⟩, -- ERR_FIRST
  ⟨0x110, 1, 4, 0x0, 0x0, 0x0, 0x0, 0x0, false⟩, -- ERR_FIRST_ARG
  ⟨0x114, 1, 4, 0x0, 0x0, 0x0, 0x0, 0x7F000000, false⟩, -- ERR_LAST
  ⟨0x118, 1, 4, 0x0, 0x0, 0x0, 0x0, 0x0, false⟩, -- ERR_LAST_ARG
  ⟨0x11C, 1, 4, 0x0, 0x0, 0x0, 0x0, 0x0, false⟩, -- ERR_LAST_BELL_LO
  ⟨0x120, 1, 4, 0x0, 0x0, 0x0, 0x0, 0x0, false⟩, -- ERR_LAST_BELL_HI
  ⟨0x200, 64, 4, 0x0, 0x0, 0x0, 0x0, 0x0, true⟩] -- ERR_CAUSE[c]

/-- Table 6.8. -/
def memTable : List RegDef := [
  ⟨0x000, 1, 4, 0x0, 0x0, 0x0, 0x0, 0xFFFFFFF8, false⟩, -- MC_STATUS
  ⟨0x004, 1, 4, 0x80000018, 0x800000FF, 0x0, 0x0, 0x7FFFFF00, false⟩, -- SCRUB_CTRL
  ⟨0x008, 1, 4, 0x0, 0x0, 0x0, 0x0, 0x0, true⟩, -- CE_COUNT
  ⟨0x00C, 1, 4, 0x0, 0x0, 0x0, 0x0, 0x0, true⟩, -- UE_COUNT
  ⟨0x010, 1, 4, 0x0, 0x0, 0x0, 0x0, 0x0, true⟩, -- ONDIE_COUNT
  ⟨0x014, 1, 4, 0x0, 0x0, 0x0, 0x0, 0x0, false⟩, -- ERR_ADDR_LO
  ⟨0x018, 1, 4, 0x0, 0x0, 0x80000000, 0x0, 0x7FFFFF80, false⟩, -- ERR_ADDR_HI
  ⟨0x01C, 1, 4, 0x0, 0x0, 0x0, 0x0, 0x0, true⟩, -- RMW_COUNT
  ⟨0x020, 1, 4, 0x0, 0x0, 0x0, 0x0, 0x0, true⟩, -- REMOTE_REFUSED
  ⟨0x030, 1, 4, 0x0, 0xC0000000, 0x0, 0x0, 0x3FFFFFFF, false⟩, -- BAR4_BASE_LO
  ⟨0x034, 1, 4, 0x0, 0x7F, 0x0, 0x0, 0xFFFFFF80, false⟩] -- BAR4_BASE_HI

/-- Table 6.3, one entry. -/
def regionTable : List RegDef := [
  ⟨0x000, 1, 4, 0x0, 0xE000000F, 0x0, 0x0, 0x1FFFFFF0, false⟩, -- CTRL
  ⟨0x008, 1, 4, 0x0, 0xFFFFFFFF, 0x0, 0x0, 0x0, false⟩, -- BASE_LO
  ⟨0x00C, 1, 4, 0x0, 0x7F, 0x0, 0x0, 0xFFFFFF80, false⟩, -- BASE_HI
  ⟨0x010, 1, 4, 0x0, 0xFFFFFFFF, 0x0, 0x0, 0x0, false⟩, -- SIZE_LO
  ⟨0x014, 1, 4, 0x0, 0x7F, 0x0, 0x0, 0xFFFFFF80, false⟩] -- SIZE_HI

/-- Table 18.7. -/
def recorderTable : List RegDef := [
  ⟨0x000, 1, 4, 0x0, 0xFFFFFFFF, 0x0, 0x0, 0x0, false⟩, -- REC_INDEX
  ⟨0x004, 1, 4, 0x0, 0x0, 0x0, 0x0, 0x7FFFFFFF, false⟩, -- REC_STATUS
  ⟨0x008, 1, 4, 0x0, 0x0, 0x0, 0x0, 0x0, false⟩, -- REC_FIRST
  ⟨0x00C, 1, 4, 0x0, 0x0, 0x0, 0x0, 0x0, false⟩, -- REC_NEXT
  ⟨0x010, 1, 4, 0x0, 0x0, 0x0, 0x0, 0x1FFC0000, false⟩, -- JRN_STATUS
  ⟨0x014, 1, 4, 0x0, 0x0, 0x0, 0x0, 0x0, false⟩, -- JRN_GEN
  ⟨0x018, 1, 4, 0x0, 0x0, 0x0, 0x0, 0x0, false⟩, -- OP_TIME
  ⟨0x01C, 1, 4, 0xFFFFFF, 0x0, 0x0, 0x0, 0xFF000000, false⟩, -- PCC
  ⟨0x020, 1, 4, 0x0, 0x0, 0x0, 0x0, 0x0, true⟩, -- EVT_WRITTEN
  ⟨0x024, 1, 4, 0x0, 0x0, 0x0, 0x0, 0x0, true⟩, -- EVT_MERGED
  ⟨0x028, 1, 4, 0x0, 0x0, 0x0, 0x0, 0x0, true⟩, -- EVT_LOST
  ⟨0x02C, 1, 4, 0x0, 0x0, 0x0, 0x0, 0x0, true⟩, -- JRN_TORN
  ⟨0x030, 1, 4, 0x0, 0x0, 0x0, 0x0, 0x0, true⟩, -- COMPACTIONS
  ⟨0x040, 16, 4, 0x0, 0x0, 0x0, 0x0, 0x0, false⟩] -- REC_DATA[0–15]

/-- Table 9.4. -/
def generalSettings : List RegDef := [
  ⟨0x000, 1, 4, 0xFA0, 0x3FFFFFF, 0x0, 0x0, 0xFC000000, false⟩, -- BELL_PERIOD
  ⟨0x004, 1, 4, 0x12C, 0x3FFFFFF, 0x0, 0x0, 0xFC000000, false⟩, -- CURFEW
  ⟨0x008, 1, 4, 0x0, 0xFFFFFFFF, 0x0, 0x0, 0x0, false⟩, -- STEP_PROG_LO
  ⟨0x00C, 1, 4, 0x0, 0xFFFFFFFF, 0x0, 0x0, 0x0, false⟩, -- STEP_PROG_HI
  ⟨0x010, 1, 4, 0x0, 0x7FF07FF, 0x0, 0x0, 0xF800F800, false⟩, -- STEP_COUNT
  ⟨0x014, 1, 4, 0x1, 0x7FF, 0x0, 0x0, 0xFFFFF800, false⟩, -- MB_COUNT
  ⟨0x018, 1, 4, 0x0, 0x80FFFFFF, 0x0, 0x0, 0x7F000000, false⟩, -- BELL_MASTER
  ⟨0x01C, 1, 4, 0x0, 0xFFFFFFFF, 0x0, 0x0, 0x0, false⟩, -- JOB_ID
  ⟨0x020, 1, 4, 0x0, 0xFFFFFFFF, 0x0, 0x0, 0x0, false⟩] -- SIDE_JOB_ID

/-- Table 13.1. -/
def reductionSettings : List RegDef := [
  ⟨0x000, 1, 4, 0x0, 0x800007FF, 0x0, 0x0, 0x7FFFF800, false⟩, -- RED_CTRL
  ⟨0x004, 1, 4, 0x0, 0xFFFFFFF, 0x0, 0x0, 0xF0000000, false⟩, -- RING
  ⟨0x008, 1, 4, 0x0, 0xFFFFFFFF, 0x0, 0x0, 0x0, false⟩, -- BUCKET_TABLE_LO
  ⟨0x00C, 1, 4, 0x0, 0xFFFFFFFF, 0x0, 0x0, 0x0, false⟩, -- BUCKET_TABLE_HI
  ⟨0x010, 1, 4, 0x0, 0x1FFF, 0x0, 0x0, 0xFFFFE000, false⟩] -- BUCKET_COUNT

/-- Table 15.1. -/
def marketSettings : List RegDef := [
  ⟨0x000, 1, 4, 0x8050004, 0xFFFFC0FF, 0x0, 0x0, 0x3F00, false⟩, -- MKT_CTRL
  ⟨0x004, 1, 4, 0x1F4, 0xFFFF, 0x0, 0x0, 0xFFFF0000, false⟩, -- H
  ⟨0x008, 1, 4, 0x28, 0xFFFF, 0x0, 0x0, 0xFFFF0000, false⟩, -- CLOSE
  ⟨0x00C, 1, 4, 0x0, 0xFFFFFFFF, 0x0, 0x0, 0x0, false⟩, -- BASE_LO
  ⟨0x010, 1, 4, 0x0, 0xFFFFFFFF, 0x0, 0x0, 0x0, false⟩, -- BASE_HI
  ⟨0x014, 1, 4, 0x0, 0xFFFFFFFF, 0x0, 0x0, 0x0, false⟩, -- ROUND0_LO
  ⟨0x018, 1, 4, 0x0, 0xFFFFFFFF, 0x0, 0x0, 0x0, false⟩, -- ROUND0_HI
  ⟨0x01C, 1, 4, 0x3F800000, 0xFFFFFFFF, 0x0, 0x0, 0x0, false⟩, -- ETA
  ⟨0x020, 1, 4, 0x0, 0xFFFFFFFF, 0x0, 0x0, 0x0, false⟩, -- MU
  ⟨0x024, 1, 4, 0x0, 0xFFFFFFFF, 0x0, 0x0, 0x0, false⟩, -- W_STALE
  ⟨0x028, 4, 4, 0x0, 0xFFFFFFFF, 0x0, 0x0, 0x0, false⟩, -- KEEPER[i]
  ⟨0x038, 1, 4, 0x0, 0xFFFFFFFF, 0x0, 0x0, 0x0, false⟩, -- MAP_LO
  ⟨0x03C, 1, 4, 0x0, 0xFFFFFFFF, 0x0, 0x0, 0x0, false⟩, -- MAP_HI
  ⟨0x040, 1, 4, 0x0, 0x7FFF, 0x0, 0x0, 0xFFFF8000, false⟩, -- MAP_COUNT
  ⟨0x044, 1, 4, 0x0, 0x7FFF, 0x0, 0x0, 0xFFFF8000, false⟩] -- OWNERS

/-- Table 17.6. -/
def integritySettings : List RegDef := [
  ⟨0x000, 1, 4, 0x88400001, 0x8FF03FFF, 0x0, 0x0, 0x700FC000, false⟩, -- INT_CTRL
  ⟨0x004, 1, 4, 0x0, 0xFFFFFFFF, 0x0, 0x0, 0x0, false⟩, -- MB_MAP_LO
  ⟨0x008, 1, 4, 0x0, 0xFFFFFFFF, 0x0, 0x0, 0x0, false⟩, -- MB_MAP_HI
  ⟨0x00C, 1, 4, 0x0, 0xFFFFFFFF, 0x0, 0x0, 0x0, false⟩, -- REPLAY_PROG_LO
  ⟨0x010, 1, 4, 0x0, 0xFFFFFFFF, 0x0, 0x0, 0x0, false⟩, -- REPLAY_PROG_HI
  ⟨0x014, 1, 4, 0x0, 0x7FF, 0x0, 0x0, 0xFFFFF800, false⟩, -- REPLAY_COUNT
  ⟨0x018, 1, 4, 0x0, 0xFFFFFFFF, 0x0, 0x0, 0x0, false⟩, -- REPLAY_BOX_LO
  ⟨0x01C, 1, 4, 0x0, 0xFFFFFFFF, 0x0, 0x0, 0x0, false⟩, -- REPLAY_BOX_HI
  ⟨0x020, 1, 4, 0x0, 0xFFFFFFFF, 0x0, 0x0, 0x0, false⟩, -- INPUT_DIR_LO
  ⟨0x024, 1, 4, 0x0, 0xFFFFFFFF, 0x0, 0x0, 0x0, false⟩, -- INPUT_DIR_HI
  ⟨0x028, 1, 4, 0x0, 0xFFFFFFFF, 0x0, 0x0, 0x0, false⟩, -- DIGEST_LO
  ⟨0x02C, 1, 4, 0x0, 0xFFFFFFFF, 0x0, 0x0, 0x0, false⟩, -- DIGEST_HI
  ⟨0x030, 1, 4, 0x0, 0xFFFFFFFF, 0x0, 0x0, 0x0, false⟩, -- REPL_TABLE_LO
  ⟨0x034, 1, 4, 0x0, 0xFFFFFFFF, 0x0, 0x0, 0x0, false⟩] -- REPL_TABLE_HI

/-- Table 16.5. -/
def keySettings : List RegDef := [
  ⟨0x000, 1, 4, 0x0, 0x80000007, 0x0, 0x0, 0x7FFFFFF8, false⟩, -- KEY_CTRL
  ⟨0x004, 1, 4, 0x0, 0xFFFFFFFF, 0x0, 0x0, 0x0, false⟩, -- JOB_ID
  ⟨0x008, 1, 4, 0x0, 0xFFFFFFFF, 0x0, 0x0, 0x0, false⟩] -- EPOCH

/-! Offsets of Table 20.3, at 0x0000. -/
abbrev idIdent : Nat := 0x0
abbrev idStep : Nat := 0x4
abbrev idCap0 : Nat := 0x8
abbrev idCap1 : Nat := 0xC
abbrev idCap2 : Nat := 0x10
abbrev idCap3 : Nat := 0x14
abbrev idCap4 : Nat := 0x18
abbrev idSerialLo : Nat := 0x20
abbrev idSerialHi : Nat := 0x24

/-! Offsets of Table 20.5. -/
abbrev glbGlbStatus : Nat := 0x0
abbrev glbGlbScratch : Nat := 0x4
abbrev glbUptimeLo : Nat := 0x8
abbrev glbUptimeHi : Nat := 0xC

/-! Offsets of Table 10.5. -/
abbrev glbPoolAdmit : Nat := 0x100
abbrev glbPoolRefuse : Nat := 0x104
abbrev glbPoolEvict : Nat := 0x108
abbrev glbPoolWait : Nat := 0x10C
abbrev glbPoolBad : Nat := 0x110
abbrev glbPoolLive : Nat := 0x114
abbrev glbStageId : Nat := 0x120
abbrev glbStageSize : Nat := 0x124

/-! Offsets of Table 11.7. -/
abbrev glbCommitPort : Nat := 0x140
abbrev glbShardDirLo : Nat := 0x144
abbrev glbShardDirHi : Nat := 0x148
abbrev glbShardDirCount : Nat := 0x14C
abbrev glbUndoBellLo : Nat := 0x150
abbrev glbUndoBellHi : Nat := 0x154
abbrev glbUndoCtrl : Nat := 0x158
abbrev glbDsCtrl : Nat := 0x15C
abbrev glbDsWptr : Nat := 0x160
abbrev glbDsRptr : Nat := 0x164
abbrev glbFlips : Nat := 0x168
abbrev glbUndos : Nat := 0x16C
abbrev glbUndoRefused : Nat := 0x170
abbrev glbPortErr : Nat := 0x174
abbrev glbDsStall : Nat := 0x178
abbrev glbBarnStallCount : Nat := 0x17C
abbrev glbBarnWatchFull : Nat := 0x180
abbrev glbBarnMismatch : Nat := 0x184

/-! Offsets of Table 19.7. -/
abbrev glbPwrStatus : Nat := 0x200
abbrev glbPwrLimit : Nat := 0x204
abbrev glbPwrLimitEff : Nat := 0x208
abbrev glbTempMax : Nat := 0x20C
abbrev glbGatedClocks : Nat := 0x210
abbrev glbBootStatus : Nat := 0x214
abbrev glbBootBuild : Nat := 0x218
abbrev glbBoard : Nat := 0x21C

/-! Offsets of Table 9.7. -/
abbrev bellBellCtrl : Nat := 0x0
abbrev bellBellStatus : Nat := 0x4
abbrev bellBellNumLo : Nat := 0x8
abbrev bellBellNumHi : Nat := 0xC
abbrev bellStartLo : Nat := 0x10
abbrev bellStartHi : Nat := 0x14
abbrev bellArmLo : Nat := 0x18
abbrev bellArmHi : Nat := 0x1C
abbrev bellArmCtrl : Nat := 0x20
abbrev bellBellInDelay : Nat := 0x24
abbrev bellLastCorr : Nat := 0x28
abbrev bellMissed : Nat := 0x2C
abbrev bellPeriodMismatch : Nat := 0x30
abbrev bellLateArms : Nat := 0x34

/-! Offsets of Table 20.6. -/
abbrev irqDmaVec : Nat := 0x0
abbrev irqErrVec : Nat := 0x80
abbrev irqEvtVec : Nat := 0x84
abbrev irqEvtSummary : Nat := 0x100
abbrev irqEvtMask : Nat := 0x104

/-! Offsets of Table 8.15. -/
abbrev ringCtrl : Nat := 0x0
abbrev ringState : Nat := 0x4
abbrev ringSqBaseLo : Nat := 0x8
abbrev ringSqBaseHi : Nat := 0xC
abbrev ringCqBaseLo : Nat := 0x10
abbrev ringCqBaseHi : Nat := 0x14
abbrev ringPtr : Nat := 0x18
abbrev ringCptr : Nat := 0x1C
abbrev ringHalt : Nat := 0x20
abbrev ringIntr : Nat := 0x24
abbrev ringEvent : Nat := 0x28
abbrev ringDbDrop : Nat := 0x2C
abbrev ringCqStall : Nat := 0x30
abbrev ringDone : Nat := 0x34
abbrev ringRptBaseLo : Nat := 0x40
abbrev ringRptBaseHi : Nat := 0x44
abbrev ringRptCfg : Nat := 0x48
abbrev ringRptPtr : Nat := 0x4C
abbrev ringRptOverwrite : Nat := 0x50
abbrev ringRptTrunc : Nat := 0x54

/-! Offsets of Table 7.6. -/
abbrev chanCtrl : Nat := 0x0
abbrev chanState : Nat := 0x4
abbrev chanEvent : Nat := 0x8
abbrev chanCmdDrop : Nat := 0xC
abbrev chanRetryCount : Nat := 0x10
abbrev chanBusErrCount : Nat := 0x14
abbrev chanPoisonIn : Nat := 0x18
abbrev chanSeq : Nat := 0x1C
abbrev chanDesc : Nat := 0x80
abbrev chanStatus : Nat := 0x100

/-! Offsets of Table 9.6. -/
abbrev coreTally : Nat := 0xC00
abbrev coreStreamState : Nat := 0xD00
abbrev coreSlotBellLo : Nat := 0xD04
abbrev coreSlotBellHi : Nat := 0xD08

/-! Offsets of Table 2.8. -/
abbrev coreOvfCount : Nat := 0xE00
abbrev coreFlushCount : Nat := 0xE04
abbrev coreNanGenCount : Nat := 0xE08
abbrev coreNfConvCount : Nat := 0xE0C

/-! Offsets of Table 3.6. -/
abbrev coreSliceSpread : Nat := 0xE10
abbrev coreColsumDrop : Nat := 0xE14
abbrev coreMxResidue : Nat := 0xE18
abbrev coreMxFault : Nat := 0xE1C
abbrev coreMxBanks : Nat := 0xE20

/-! Offsets of Table 5.14. -/
abbrev coreVxStabBase : Nat := 0xE24
abbrev coreVxRcpBase : Nat := 0xE28
abbrev coreVxFault : Nat := 0xE2C
abbrev coreRxFault : Nat := 0xE30
abbrev coreGatherOob : Nat := 0xE34
abbrev coreLaccDrop : Nat := 0xE38
abbrev coreSliceInexact : Nat := 0xE3C
abbrev coreMaskedRows : Nat := 0xE40
abbrev coreVxResidue : Nat := 0xE44
abbrev coreRxResidue : Nat := 0xE48

/-! Offsets of Table 6.9. -/
abbrev coreSpCeCount : Nat := 0xE4C
abbrev coreSpUeCount : Nat := 0xE50
abbrev coreMvOob : Nat := 0xE54
abbrev coreMvFault : Nat := 0xE58

/-! Offsets of Table 12.9. -/
abbrev portPortCtrl : Nat := 0x0
abbrev portPortStatus : Nat := 0x4
abbrev portEvent : Nat := 0x8
abbrev portExpId : Nat := 0x10
abbrev portExpSerLo : Nat := 0x14
abbrev portExpSerHi : Nat := 0x18
abbrev portNbrId : Nat := 0x1C
abbrev portNbrSerLo : Nat := 0x20
abbrev portNbrSerHi : Nat := 0x24
abbrev portLinkDelay : Nat := 0x28
abbrev portDelayTrim : Nat := 0x2C
abbrev portVcWeight : Nat := 0x30
abbrev portRetrainCfg : Nat := 0x34
abbrev portFecCorr : Nat := 0x40
abbrev portFecUncorr : Nat := 0x44
abbrev portCrcErr : Nat := 0x48
abbrev portRetry : Nat := 0x4C
abbrev portRetrainCount : Nat := 0x50
abbrev portFlitsTx : Nat := 0x54
abbrev portFlitsFwd : Nat := 0x58
abbrev portDropped : Nat := 0x5C
abbrev portCreditStall : Nat := 0x60

/-! Offsets of Table 14.7. -/
abbrev ethEthStatus : Nat := 0x4
abbrev ethEthEvent : Nat := 0x8
abbrev ethMacLo : Nat := 0x10
abbrev ethMacHi : Nat := 0x14
abbrev ethEthCfg : Nat := 0x18
abbrev ethUdpCfg : Nat := 0x1C
abbrev ethIp6Addr : Nat := 0x20
abbrev ethFramesTx : Nat := 0x40
abbrev ethFramesRx : Nat := 0x44
abbrev ethFcsErr : Nat := 0x48
abbrev ethFiltered : Nat := 0x4C
abbrev ethOversize : Nat := 0x50
abbrev ethPauseDrop : Nat := 0x54
abbrev ethFecCorr : Nat := 0x58
abbrev ethFecUncorr : Nat := 0x5C

/-! Offsets of Table 12.10. -/
abbrev fabFabId : Nat := 0x3000
abbrev fabTorusSize : Nat := 0x3004
abbrev fabFabCtrl : Nat := 0x3008
abbrev fabFabEvent : Nat := 0x300C
abbrev fabUnroutable : Nat := 0x3010
abbrev fabRemoteFail : Nat := 0x3014
abbrev fabLateResp : Nat := 0x3018

/-! Offsets of Table 13.8. -/
abbrev redBucketReady : Nat := 0x0
abbrev redRedEvent : Nat := 0x4
abbrev redBucketsDone : Nat := 0x8
abbrev redOwnIncluded : Nat := 0xC
abbrev redOwnExcluded : Nat := 0x10
abbrev redLateAdded : Nat := 0x14
abbrev redLateDropped : Nat := 0x18
abbrev redStepsSkipped : Nat := 0x1C
abbrev redSegMiss : Nat := 0x20
abbrev redReadyErr : Nat := 0x24
abbrev redCurfewHolds : Nat := 0x28
abbrev redInFlight : Nat := 0x2C

/-! Offsets of Table 14.9. -/
abbrev stlStlCtrl : Nat := 0x0
abbrev stlStlTimers : Nat := 0x4
abbrev stlStlTableLo : Nat := 0x8
abbrev stlStlTableHi : Nat := 0xC
abbrev stlStoreBaseLo : Nat := 0x10
abbrev stlStoreBaseHi : Nat := 0x14
abbrev stlStoreSize : Nat := 0x18
abbrev stlRxRingLo : Nat := 0x1C
abbrev stlRxRingHi : Nat := 0x20
abbrev stlRxRingSize : Nat := 0x24
abbrev stlRxWptr : Nat := 0x28
abbrev stlRxRptr : Nat := 0x2C
abbrev stlRxSig : Nat := 0x30
abbrev stlRoadUp : Nat := 0x34
abbrev stlStlEvent : Nat := 0x38
abbrev stlWindow : Nat := 0x40
abbrev stlGroupsTx : Nat := 0x50
abbrev stlGroupsRx : Nat := 0x54
abbrev stlGroupsRebuilt : Nat := 0x58
abbrev stlShardsLate : Nat := 0x5C
abbrev stlNaksTx : Nat := 0x60
abbrev stlNaksRx : Nat := 0x64
abbrev stlResends : Nat := 0x68
abbrev stlGaveUp : Nat := 0x6C
abbrev stlDuplicates : Nat := 0x70
abbrev stlAuthFail : Nat := 0x74
abbrev stlSubmitRefused : Nat := 0x78
abbrev stlRxFull : Nat := 0x7C
abbrev stlRoadSrtt : Nat := 0x80
abbrev stlRoadVar : Nat := 0x84

/-! Offsets of Table 15.9. -/
abbrev mktMktCmd : Nat := 0x100
abbrev mktLedgerBaseLo : Nat := 0x104
abbrev mktLedgerBaseHi : Nat := 0x108
abbrev mktMktSig : Nat := 0x10C
abbrev mktMktStatus : Nat := 0x110
abbrev mktLedgerRoundLo : Nat := 0x114
abbrev mktLedgerRoundHi : Nat := 0x118
abbrev mktMktEvent : Nat := 0x11C
abbrev mktHoldCount : Nat := 0x120
abbrev mktLostCount : Nat := 0x124
abbrev mktContribTx : Nat := 0x128
abbrev mktContribRx : Nat := 0x12C
abbrev mktContribStale : Nat := 0x130
abbrev mktDupContrib : Nat := 0x134
abbrev mktLedgersClosed : Nat := 0x138
abbrev mktLedgerConflict : Nat := 0x13C
abbrev mktStateTx : Nat := 0x140
abbrev mktStateRx : Nat := 0x144

/-! Offsets of Table 16.7, bank and key-store registers. -/
abbrev ciphBankInfo : Nat := 0x0
abbrev ciphMsgSealed : Nat := 0x4
abbrev ciphMsgOpened : Nat := 0x8
abbrev ciphBlocks : Nat := 0xC
abbrev ciphTagFail : Nat := 0x10
abbrev ciphSuspends : Nat := 0x14
abbrev ciphKeyMiss : Nat := 0x18
abbrev ciphNonceExh : Nat := 0x1C
abbrev ciphDerives : Nat := 0x20
abbrev ciphCiphEvent : Nat := 0x24
abbrev ciphKsStatus : Nat := 0x100
abbrev ciphEpochCur : Nat := 0x104
abbrev ciphEpochPrev : Nat := 0x108
abbrev ciphGraceEndLo : Nat := 0x10C
abbrev ciphGraceEndHi : Nat := 0x110
abbrev ciphSlot : Nat := 0x200
abbrev ciphRoot : Nat := 0x300

/-! Offsets of Table 17.7. -/
abbrev intIntStatus : Nat := 0x0
abbrev intIntEvent : Nat := 0x4
abbrev intCasesOpened : Nat := 0x10
abbrev intHoldsReceived : Nat := 0x14
abbrev intReplaysRun : Nat := 0x18
abbrev intConfirmed : Nat := 0x1C
abbrev intReplaced : Nat := 0x20
abbrev intDropped : Nat := 0x24
abbrev intReruns : Nat := 0x28
abbrev intLateVerdict : Nat := 0x2C
abbrev intAuditsRun : Nat := 0x30
abbrev intAuditFail : Nat := 0x34
abbrev intAuditSkip : Nat := 0x38
abbrev intNormExc : Nat := 0x3C
abbrev intParityErr : Nat := 0x40
abbrev intPoisonReplay : Nat := 0x44
abbrev intPoisonCons : Nat := 0x48
abbrev intFlipsRefused : Nat := 0x4C

/-! Offsets of Table 20.7. -/
abbrev errErrEvent : Nat := 0x100
abbrev errErrCtrl : Nat := 0x104
abbrev errErrCount : Nat := 0x108
abbrev errErrFirst : Nat := 0x10C
abbrev errErrFirstArg : Nat := 0x110
abbrev errErrLast : Nat := 0x114
abbrev errErrLastArg : Nat := 0x118
abbrev errErrLastBellLo : Nat := 0x11C
abbrev errErrLastBellHi : Nat := 0x120
abbrev errErrCause : Nat := 0x200

/-! Offsets of Table 6.8. -/
abbrev mcMcStatus : Nat := 0x0
abbrev mcScrubCtrl : Nat := 0x4
abbrev mcCeCount : Nat := 0x8
abbrev mcUeCount : Nat := 0xC
abbrev mcOndieCount : Nat := 0x10
abbrev mcErrAddrLo : Nat := 0x14
abbrev mcErrAddrHi : Nat := 0x18
abbrev mcRmwCount : Nat := 0x1C
abbrev mcRemoteRefused : Nat := 0x20
abbrev mcBar4BaseLo : Nat := 0x30
abbrev mcBar4BaseHi : Nat := 0x34

/-! Offsets of Table 6.3, one entry. -/
abbrev regionCtrl : Nat := 0x0
abbrev regionBaseLo : Nat := 0x8
abbrev regionBaseHi : Nat := 0xC
abbrev regionSizeLo : Nat := 0x10
abbrev regionSizeHi : Nat := 0x14

/-! Offsets of Table 18.7. -/
abbrev recRecIndex : Nat := 0x0
abbrev recRecStatus : Nat := 0x4
abbrev recRecFirst : Nat := 0x8
abbrev recRecNext : Nat := 0xC
abbrev recJrnStatus : Nat := 0x10
abbrev recJrnGen : Nat := 0x14
abbrev recOpTime : Nat := 0x18
abbrev recPcc : Nat := 0x1C
abbrev recEvtWritten : Nat := 0x20
abbrev recEvtMerged : Nat := 0x24
abbrev recEvtLost : Nat := 0x28
abbrev recJrnTorn : Nat := 0x2C
abbrev recCompactions : Nat := 0x30
abbrev recRecData : Nat := 0x40

/-! Offsets of Table 9.4. -/
abbrev setBellPeriod : Nat := 0x0
abbrev setCurfew : Nat := 0x4
abbrev setStepProgLo : Nat := 0x8
abbrev setStepProgHi : Nat := 0xC
abbrev setStepCount : Nat := 0x10
abbrev setMbCount : Nat := 0x14
abbrev setBellMaster : Nat := 0x18
abbrev setJobId : Nat := 0x1C
abbrev setSideJobId : Nat := 0x20

/-! Offsets of Table 13.1. -/
abbrev setRedRedCtrl : Nat := 0x0
abbrev setRedRing : Nat := 0x4
abbrev setRedBucketTableLo : Nat := 0x8
abbrev setRedBucketTableHi : Nat := 0xC
abbrev setRedBucketCount : Nat := 0x10

/-! Offsets of Table 15.1. -/
abbrev setMktMktCtrl : Nat := 0x0
abbrev setMktH : Nat := 0x4
abbrev setMktClose : Nat := 0x8
abbrev setMktBaseLo : Nat := 0xC
abbrev setMktBaseHi : Nat := 0x10
abbrev setMktRound0Lo : Nat := 0x14
abbrev setMktRound0Hi : Nat := 0x18
abbrev setMktEta : Nat := 0x1C
abbrev setMktMu : Nat := 0x20
abbrev setMktWStale : Nat := 0x24
abbrev setMktKeeper : Nat := 0x28
abbrev setMktMapLo : Nat := 0x38
abbrev setMktMapHi : Nat := 0x3C
abbrev setMktMapCount : Nat := 0x40
abbrev setMktOwners : Nat := 0x44

/-! Offsets of Table 17.6. -/
abbrev setIntIntCtrl : Nat := 0x0
abbrev setIntMbMapLo : Nat := 0x4
abbrev setIntMbMapHi : Nat := 0x8
abbrev setIntReplayProgLo : Nat := 0xC
abbrev setIntReplayProgHi : Nat := 0x10
abbrev setIntReplayCount : Nat := 0x14
abbrev setIntReplayBoxLo : Nat := 0x18
abbrev setIntReplayBoxHi : Nat := 0x1C
abbrev setIntInputDirLo : Nat := 0x20
abbrev setIntInputDirHi : Nat := 0x24
abbrev setIntDigestLo : Nat := 0x28
abbrev setIntDigestHi : Nat := 0x2C
abbrev setIntReplTableLo : Nat := 0x30
abbrev setIntReplTableHi : Nat := 0x34

/-! Offsets of Table 16.5. -/
abbrev setKeyKeyCtrl : Nat := 0x0
abbrev setKeyJobId : Nat := 0x4
abbrev setKeyEpoch : Nat := 0x8

/-! ### Blocks (Table 20.1) -/

/-- The key of a ring register. -/
def ringReg (r o : Nat) : Nat := 0x10000 + 0x400 * r + o
/-- The key of a DMA channel register. -/
def chanReg (c o : Nat) : Nat := 0x20000 + 0x200 * c + o
/-- The key of a core register. -/
def coreReg (c o : Nat) : Nat := 0x100000 + 0x1000 * c + o
/-- The key of a port register, Mopin view. -/
def portReg (p o : Nat) : Nat := 0x200000 + 0x4000 * p + o
/-- The key of a port register of the Ethernet view, kept apart from the Mopin view (R571). -/
def ethReg (p o : Nat) : Nat := 0x4200000 + 0x4000 * p + o
/-- The key of a module-wide fabric register, kept once (Table 12.10). -/
def fabReg (o : Nat) : Nat := 0x200000 + o
/-- The key of a reduction engine register. -/
def redReg (o : Nat) : Nat := 0x240000 + o
/-- The key of a Stolcen or market engine register. -/
def stlReg (o : Nat) : Nat := 0x280000 + o
/-- The key of a cipher bank register. -/
def bankReg (b o : Nat) : Nat := 0x2C0000 + 0x1000 * b + o
/-- The key of an integrity or error log register. -/
def intReg (o : Nat) : Nat := 0x300000 + o
/-- The key of a memory controller register. -/
def mcReg (m o : Nat) : Nat := 0x340000 + 0x1000 * m + o
/-- The key of a word of region table entry i, kept once (R184). -/
def regionReg (i o : Nat) : Nat := 0x340800 + 0x20 * i + o
/-- The key of an event recorder register. -/
def recReg (o : Nat) : Nat := 0x380000 + o
/-- The key of a global control register. -/
def glbReg (o : Nat) : Nat := 0x1000 + o
/-- The key of a bell unit register. -/
def bellReg (o : Nat) : Nat := 0x2000 + o
/-- The key of an interrupt routing register. -/
def irqReg (o : Nat) : Nat := 0x4000 + o

/-- The row of a table that covers block offset `o`. -/
def findReg (t : List RegDef) (o : Nat) : Option RegDef :=
  t.find? (fun d => decide (d.off ≤ o) && ((o - d.off) % d.stride == 0) && decide ((o - d.off) / d.stride < d.n))

/-- The core block's tables, one after another (Table 20.2). -/
def coreTable : List RegDef := coreTallyTable ++ coreNumTable ++ coreArrayTable ++ coreVectorTable ++ coreMoverTable

/-- A plain word of the MSI-X table: message address low and high, data, vector control (R579). -/
def msixDef (o : Nat) : RegDef :=
  match o % 16 / 4 with
  | 0 => ⟨o, 1, 4, 0, 0xFFFFFFFC, 0, 0, 0, false⟩
  | 3 => ⟨o, 1, 4, 1, 1, 0, 0, 0, false⟩
  | _ => ⟨o, 1, 4, 0, 0xFFFFFFFF, 0, 0, 0, false⟩

/-- The posted-settings row that covers offset `o` of a half (Table 9.3). -/
def settingDef (o : Nat) : Option RegDef :=
  if o < 0x1000 then findReg generalSettings o
  else if o < 0x1400 then findReg reductionSettings (o - 0x1000)
  else if o < 0x1800 then findReg marketSettings (o - 0x1400)
  else if o < 0x1C00 then findReg integritySettings (o - 0x1800)
  else if o < 0x2000 then findReg keySettings (o - 0x1C00)
  else if o < 0x4000 then none
  else if o < 0x8000 then
    let w := o % 64 / 4
    some ⟨o, 1, 4, 0, 0xFFFFFFFF, 0, 0, if w = 15 then 0xF else if w = 8 then 0xFFFFFFFF else if w = 9 then 0xFFFF else 0, false⟩
  else if o < 0xC000 then some ⟨o, 1, 4, 0, 0xFFFFFFFF, 0, 0, 0, false⟩
  else if o < 0x14000 then
    some (if o % 8 = 0 then ⟨o, 1, 4, 0x13C00, 0xFFFFFFFF, 0, 0, 0x1FF, false⟩ else ⟨o, 1, 4, 0, 0xFFFFFFFF, 0, 0, 0, false⟩)
  else none

/-- The reset value of a posted setting (Tables 9.4, 13.1, 15.1, 17.6, 16.5, 10.1, 2.6). -/
def settingReset (o : Nat) : Nat := ((settingDef o).map RegDef.reset).getD 0

/-- What kind of register a BAR0 offset names. -/
inductive Place where
  /-- A register or table word, by its key in `State.regs`. -/
  | reg (key : Nat) (d : RegDef)
  /-- A word of the pending half (R268). -/
  | pendingSet (o : Nat) (d : RegDef)
  /-- A word of the active half, read-only (R268). -/
  | activeSet (o : Nat) (d : RegDef)
  /-- A word of the MSI-X table or pending bit array, whose reserved bits are not counted (R579). -/
  | msix (key : Nat) (d : RegDef)
  | reserved
  deriving DecidableEq, Repr

/-- A register of a block whose keys start at `key`, at block offset `o`. -/
def placeIn (t : List RegDef) (key o : Nat) : Place :=
  match findReg t o with
  | some d => .reg (key + o) d
  | none => .reserved

/-- The register at BAR0 offset `off` (Tables 20.1 and 20.2); `eth p` says that port p shows its Ethernet view (R571). -/
def placeOf (eth : Nat → Bool) (off : Nat) : Place :=
  if off < 0x1000 then placeIn identTable 0 off
  else if off < 0x2000 then placeIn (globalTable ++ poolTable ++ shardTable ++ powerTable) 0x1000 (off - 0x1000)
  else if off < 0x3000 then placeIn bellTable 0x2000 (off - 0x2000)
  else if off < 0x4000 then .reserved
  else if off < 0x8000 then placeIn irqTable 0x4000 (off - 0x4000)
  else if off < 0x9000 then .msix off (msixDef off)
  else if off < 0x9020 then .msix off ⟨off, 1, 4, 0, 0, 0, 0, 0, false⟩
  else if off < 0x10000 then .reserved
  else if off < 0x20000 then placeIn ringTable (off / 0x400 * 0x400) (off % 0x400)
  else if off < 0x24000 then placeIn chanTable (off / 0x200 * 0x200) (off % 0x200)
  else if off < 0x100000 then .reserved
  else if off < 0x140000 then placeIn coreTable (off / 0x1000 * 0x1000) (off % 0x1000)
  else if off < 0x200000 then .reserved
  else if off < 0x220000 then
    let p := (off - 0x200000) / 0x4000
    let o := off % 0x4000
    if o < 4 then placeIn portTable (portReg p 0) o
    else if o < 0x100 then (if eth p then placeIn ethTable (ethReg p 0) o else placeIn portTable (portReg p 0) o)
    else if 0x3000 ≤ o ∧ o < 0x3100 then placeIn fabTable (fabReg 0) o
    else .reserved
  else if off < 0x240000 then .reserved
  else if off < 0x241000 then placeIn redTable 0x240000 (off - 0x240000)
  else if off < 0x280000 then .reserved
  else if off < 0x281000 then placeIn (stlTable ++ marketTable) 0x280000 (off - 0x280000)
  else if off < 0x2C0000 then .reserved
  else if off < 0x2C5000 then
    let o := off % 0x1000
    if o < 0x100 ∨ 0x2C4000 ≤ off then placeIn cipherTable (off / 0x1000 * 0x1000) o else .reserved
  else if off < 0x300000 then .reserved
  else if off < 0x301000 then placeIn (integrityTable ++ errorTable) 0x300000 (off - 0x300000)
  else if off < 0x340000 then .reserved
  else if off < 0x348000 then
    let o := off % 0x1000
    if 0x800 ≤ o ∧ o < 0xA00 then
      match findReg regionTable (o % 0x20) with
      | some d => .reg (0x340000 + o) d
      | none => .reserved
    else if o = mcRemoteRefused ∨ o = mcBar4BaseLo ∨ o = mcBar4BaseHi then placeIn memTable 0x340000 o
    else placeIn memTable (off / 0x1000 * 0x1000) o
  else if off < 0x380000 then .reserved
  else if off < 0x381000 then placeIn recorderTable 0x380000 (off - 0x380000)
  else if off < 0x3C0000 then .reserved
  else if off < 0x3E0000 then
    match settingDef (off - 0x3C0000) with
    | some d => .pendingSet (off - 0x3C0000) d
    | none => .reserved
  else if off < 0x400000 then
    match settingDef (off - 0x3E0000) with
    | some d => .activeSet (off - 0x3E0000) d
    | none => .reserved
  else .reserved

/-- The reset value of the register with key `key` (R575), including those that a table gives by a formula. -/
def regReset (key : Nat) : Nat :=
  if key = idStep then Config.stepping % 256
  else if key = idSerialLo then Config.serial % 2 ^ 32
  else if key = idSerialHi then Config.serial / 2 ^ 32 % 2 ^ 32
  else if irqReg irqDmaVec ≤ key ∧ key < irqReg irqErrVec then 64 + (key - irqReg irqDmaVec) / 4
  else if 0x10000 ≤ key ∧ key < 0x20000 ∧ key % 0x400 = ringIntr then ((key - 0x10000) / 0x400) <<< 23
  else if 0x2C0000 ≤ key ∧ key < 0x2C5000 ∧ key % 0x1000 = ciphBankInfo then
    let b := (key - 0x2C0000) / 0x1000
    b <<< 29 + (if b = 4 then 80 else 256)
  else if 0x4200000 ≤ key then
    match placeOf (fun _ => true) (key - 0x4000000) with
    | .reg _ d => d.reset
    | _ => 0
  else
    match placeOf (fun _ => false) key with
    | .reg _ d => d.reset
    | .msix _ d => d.reset
    | _ => 0

end Sys2Proof.Machine
end

