-- ==== Sys2Proof/Machine/Ops.lean ====
section
/-! DEFINITION. The named operations over the state that every family shares: registers and posted settings, counters, messages to
the host, the global error log, the event queue, free values, the device address map, memory and its poison marks,
tallies, bell numbers and coordinates. -/

namespace Sys2Proof.Machine

/-! ### Registers -/

/-- The value of the register with key `k` (R575 for one never written). -/
def rd (s : State) (k : Nat) : Nat := (sget (BitVec.ofNat 32 (regReset k)) s.regs k).toNat

/-- A register set to `v`, without the effects of a bus write. -/
def wr (s : State) (k v : Nat) : State :=
  { s with regs := sput (BitVec.ofNat 32 (regReset k)) s.regs k (BitVec.ofNat 32 v) }

/-- Bits `hi:lo` of a register. -/
def fld (s : State) (k hi lo : Nat) : Nat := bits (rd s k) hi lo

/-- Bit `i` of a register. -/
def flag (s : State) (k i : Nat) : Bool := bit (rd s k) i

/-- Bits `hi:lo` of a register set to `v`. -/
def setFld (s : State) (k hi lo v : Nat) : State := wr s k (setBits (rd s k) hi lo v)

/-- Bit `i` of a register set to `b`. -/
def setFlag (s : State) (k i : Nat) (b : Bool) : State := setFld s k i i (b2n b)

/-- A 64-bit value held in two registers, low word first (R11). -/
def rd64 (s : State) (klo : Nat) : Nat := rd s klo + 2 ^ 32 * rd s (klo + 4)

/-- A 64-bit value written into two registers, low word first (R11). -/
def wr64 (s : State) (klo v : Nat) : State := wr (wr s klo (v % 2 ^ 32)) (klo + 4) (v / 2 ^ 32)

/-- `n` added to an occurrence counter, saturating. -/
def countBy (s : State) (k n : Nat) : State := if n = 0 then s else wr s k (satAdd (rd s k) n)

/-- One added to an occurrence counter, saturating. -/
def count (s : State) (k : Nat) : State := countBy s k 1

/-- A word of a posted-settings half. -/
def setting (h : Half) (o : Nat) : Nat := (sget (BitVec.ofNat 32 (settingReset o)) h o).toNat

/-- A posted-settings half with word `o` set. -/
def putSetting (h : Half) (o v : Nat) : Half := sput (BitVec.ofNat 32 (settingReset o)) h o (BitVec.ofNat 32 v)

/-- A 64-bit posted setting. -/
def setting64 (h : Half) (o : Nat) : Nat := setting h o + 2 ^ 32 * setting h (o + 4)

/-- The settings that step work of bell `n` reads: a held copy, or the active half (R274, R275). -/
def settingsOf (s : State) (n : Nat) : Half :=
  match s.held.find? (fun e => e.1 == n) with
  | some e => e.2
  | none => s.activeHalf

/-! ### What leaves the module -/

/-- `o` sent. -/
def emit (s : State) (o : Out) : State := { s with out := s.out ++ [o] }

/-- The module may send memory requests to the host: Bus Master Enable is 1, the link is up (R207) and the function is in D0. -/
def hostReachable (s : State) : Bool := s.power.busMaster && s.power.linkUp && !s.power.d3hot

/-- The MSI-X message of vector `v` (R254), or its pending bit where the vector is masked or the host cannot be reached (R579). -/
def sendVector (s : State) (v : Nat) : State :=
  let k := 0x8000 + 16 * v
  if bit (rd s (k + 12)) 0 || !hostReachable s then setFlag s (0x9000 + 4 * (v / 32)) (v % 32) true
  else emit s (.msi v (rd s k + 2 ^ 32 * rd s (k + 4)) (rd s (k + 8)))

/-- Pending messages of unmasked vectors sent, in ascending order (R579). -/
def flushVectors (s : State) : State :=
  if hostReachable s then
    (List.range 256).foldl (fun s v =>
      if flag s (0x9000 + 4 * (v / 32)) (v % 32) && !bit (rd s (0x8000 + 16 * v + 12)) 0
      then sendVector (setFlag s (0x9000 + 4 * (v / 32)) (v % 32) false) v else s) s
  else s

/-! ### Event summary and flags -/

/-- The registers and masks that bit `i` of EVT_SUMMARY is the OR of (R578, Table 20.6). -/
def summaryKeys (i : Nat) : List (Nat × Nat) :=
  match i with
  | 0 => (List.range 64).map (fun r => (ringReg r ringEvent, 0xC0000000))
  | 1 => (List.range 32).map (fun c => (chanReg c chanEvent, 0xC0000000))
  | 2 => (List.range 8).map (fun p => (portReg p portEvent, 0xF8000000)) ++
         (List.range 8).map (fun p => (ethReg p ethEthEvent, 0xC0000000))
  | 3 => [(fabReg fabFabEvent, 0x80000000)]
  | 4 => [(bellReg bellBellStatus, 0x03800000)]
  | 5 => [(redReg redRedEvent, 0xE0000000)]
  | 6 => [(stlReg stlStlEvent, 0xE0000000)]
  | 7 => [(stlReg mktMktEvent, 0xF8000000)]
  | 8 => (List.range 5).map (fun b => (bankReg b ciphCiphEvent, 0xC0000000))
  | 9 => [(intReg intIntEvent, 0xF8000000)]
  | 10 => (List.range 8).map (fun m => (mcReg m mcErrAddrHi, 0x80000000))
  | 11 => (List.range 64).flatMap (fun c =>
      [coreMxFault, coreVxFault, coreRxFault, coreMvFault].map (fun o => (coreReg c o, 0x80000000)))
  | 12 => [(intReg errErrEvent, 0x80000000)]
  | _ => []

/-- Bit `i` of EVT_SUMMARY (R578). -/
def summaryBit (s : State) (i : Nat) : Bool := (summaryKeys i).any (fun e => (rd s e.1) &&& e.2 != 0)

/-- EVT_SUMMARY as it reads (R578). -/
def summaryWord (s : State) : Nat := bitMap 13 (summaryBit s)

/-- The event flag `b` of register `k`, feeding bit `i` of EVT_SUMMARY, set; a summary bit that rises unmasked sends the message
of EVT_VEC at once (R578). -/
def raiseFlag (s : State) (i k b : Nat) : State :=
  let was := summaryBit s i
  let s := setFlag s k b true
  if was || flag s (irqReg irqEvtMask) i then s else sendVector s (fld s (irqReg irqEvtVec) 7 0)

/-! ### Bell number, coordinates, time -/

/-- The local bell number (Table 9.7). -/
def bellNum (s : State) : Nat := rd64 s (bellReg bellBellNumLo)

/-- Coordinates from a 24-bit field: x in bits 7:0, y in 15:8, z in 23:16. -/
def coordOf (n : Nat) : Coord := ⟨bits n 7 0, bits n 15 8, bits n 23 16⟩

/-- A 24-bit field from coordinates. -/
def coordBits (c : Coord) : Nat := c.x + 256 * c.y + 65536 * c.z

/-- The module's own coordinates, FAB_ID.XYZ. -/
def ownXyz (s : State) : Coord := coordOf (rd s (fabReg fabFabId))

/-- The module's site, FAB_ID.SITE. -/
def ownSite (s : State) : Nat := fld s (fabReg fabFabId) 31 24

/-- Arithmetic clocks in one microsecond (R17). -/
def clocksPerUs : Nat := 1700

/-- Microseconds since the package left reset (Table 20.5). -/
def uptimeUs (s : State) : Nat := (s.now - s.power.leftAt) / clocksPerUs

/-! ### The global error log and the event queue -/

/-- An error counted in the global error log (R580, R581). -/
def logError (s : State) (cause source arg : Nat) : State :=
  let bell := bellNum s
  let s := count (count s (intReg errErrCount)) (intReg errErrCause + 4 * cause)
  let w := 2 ^ 31 + cause * 65536 + source
  let s := wr (wr s (intReg errErrLast) w) (intReg errErrLastArg) arg
  let s := wr64 s (intReg errErrLastBellLo) bell
  let s := if flag s (intReg errErrFirst) 31 then s else wr (wr s (intReg errErrFirst) w) (intReg errErrFirstArg) arg
  let was := flag s (intReg errErrEvent) 31
  let s := raiseFlag s 12 (intReg errErrEvent) 31
  if !was && flag s (intReg errErrCtrl) 31 then sendVector s (fld s (irqReg irqErrVec) 7 0) else s

/-- The SOURCE of a register access (R582). -/
def sourceOf : Requester → Nat
  | .host => 0
  | .core c => 0x1000 + c

/-- Arithmetic clocks in one second (R17). -/
def clocksPerSecond : Nat := 1700000000

/-- The operating time now: hours, saturating, and seconds in the hour (Table 18.3). -/
def opTime (s : State) : Nat × Nat :=
  let t := s.recorder.hours * 3600 + s.recorder.seconds + (s.now - s.recorder.since) / clocksPerSecond
  if 0xFFFFFF < t / 3600 then (0xFFFFFF, t % 3600) else (t / 3600, t % 3600)

/-- An event that occurs now (R535). `payload` are bytes 20 onward of Table 18.3. -/
def eventNow (s : State) (code source status : Nat) (payload : List Byte) : EventRec :=
  ⟨code, source, status, padTo 40 payload, opTime s, s.now⟩

/-- `e` at the end of the queue, but before events of its own clock that have a greater SOURCE (R536). -/
def enqueueEvent (q : List EventRec) (e : EventRec) : List EventRec :=
  let later := (q.reverse.takeWhile (fun x => x.at_ == e.at_ && decide (e.source < x.source))).length
  q.take (q.length - later) ++ e :: q.drop (q.length - later)

/-- An event put into the recorder's queue, or lost (R536). -/
def submitEvent (s : State) (code source status : Nat) (payload : List Byte) : State :=
  if s.recorder.queue.length < 1024 then
    { s with recorder := { s.recorder with queue := enqueueEvent s.recorder.queue (eventNow s code source status payload) } }
  else
    { s with recorder := { s.recorder with lost := s.recorder.lost + 1, lostCount := satAdd s.recorder.lostCount 1 } }

/-! ### Free values -/

/-- The next free value, and the state that has drawn it. -/
def drawNat (s : State) : Nat × State := (Config.freeNat s.draws, { s with draws := s.draws + 1 })

/-- The next free bytes, `k` of them. -/
def drawBytes (s : State) (k : Nat) : List Byte × State :=
  (padTo k (Config.freeBytes s.draws), { s with draws := s.draws + 1 })

/-! ### The device address map (R155, Table 6.1) -/

/-- One past the last HBM offset. -/
def hbmTop : Nat := 0x6000000000
/-- Where the scratchpads begin. -/
def scratchBase : Nat := 0x10000000000
/-- Bytes of a scratchpad. -/
def scratchSize : Nat := 0x2000000
/-- Where the instruction memories begin. -/
def imemBase : Nat := 0x18000000000
/-- Where the registers begin. -/
def regBase : Nat := 0x20000000000
/-- Where the host window begins. -/
def hostBase : Nat := 0x8000000000000000

/-- The device address of byte `x` of core `c`'s scratchpad. -/
def scratchAddr (c x : Nat) : Nat := scratchBase + c * scratchSize + x

/-- The device address of byte `x` of an instruction memory. -/
def imemAddr (c : Nat) (u : CoreUnit) (x : Nat) : Nat :=
  imemBase + c * 0x40000 + (match u with | .mx => 0 | .vx => 0x10000 | .rx => 0x20000 | .mv => 0x30000) + x

/-- What a device address names (Table 6.1). -/
inductive Space where
  | hbm (off : Nat)
  | scratch (core off : Nat)
  | imem (core off : Nat)
  | regs (off : Nat)
  | host (addr : Nat)
  | hole
  deriving DecidableEq, Repr

/-- The range of Table 6.1 that holds a device address. -/
def spaceOf (a : Nat) : Space :=
  if a < hbmTop then .hbm a
  else if a < scratchBase then .hole
  else if a < scratchBase + 0x80000000 then .scratch ((a - scratchBase) / scratchSize) ((a - scratchBase) % scratchSize)
  else if a < imemBase then .hole
  else if a < imemBase + 0x1000000 then .imem ((a - imemBase) / 0x40000) ((a - imemBase) % 0x40000)
  else if a < regBase then .hole
  else if a < regBase + 0x4000000 then .regs (a - regBase)
  else if a < hostBase then .hole
  else if a < 2 ^ 64 then .host (a - hostBase)
  else .hole

/-- A device address that is HBM, scratchpad or instruction memory. -/
def isMemory (a : Nat) : Bool :=
  match spaceOf a with
  | .hbm _ => true
  | .scratch _ _ => true
  | .imem _ _ => true
  | _ => false

/-- Every byte of the range is memory; ranges of Table 6.1 that are memory lie far apart, so its ends and middle blocks decide. -/
def memoryRange (a len : Nat) : Bool := (List.range ((len + 63) / 64)).all (fun i => isMemory (a + 64 * i)) && (len == 0 || isMemory (a + len - 1))

/-- A device address in the host window. -/
def inHost (a : Nat) : Bool := match spaceOf a with | .host _ => true | _ => false

/-- The stack of an HBM offset (R160, step 1). -/
def stackOf (h : Nat) : Nat := (bits h 14 12) ^^^ (bits h 20 18)

/-- The stack-local address of an HBM offset (R160, step 2). -/
def stackLocal (h : Nat) : Nat := (h >>> 15) * 4096 + h % 4096

/-- The pseudo-channel index of a stack-local address; channel p div 2, pseudo-channel p mod 2 (R160, step 3). -/
def pseudoChannel (l : Nat) : Nat := (bits l 11 7) ^^^ (bits l 16 12)

/-- The pseudo-channel-local address (R160, step 4). -/
def channelLocal (l : Nat) : Nat := (l >>> 12) * 128 + l % 128

/-- The bank of byte `x` of a scratchpad (R165). -/
def scratchBank (x : Nat) : Nat := bits x 13 9

/-- The address lies in a stack that failed training (R171). -/
def deadStack (s : State) (a : Nat) : Bool := decide (a < hbmTop) && flag s (mcReg (stackOf a) mcMcStatus) 1

/-! ### Memory -/

/-- The byte at a device address that is memory; an unlisted byte reads zero (R556; HBM at power-up, log entry 5). -/
def readByte (m : List Host.Cell) (a : Nat) : Byte := sget 0 m a

/-- `len` bytes from `a`. -/
def readMem (m : List Host.Cell) (a len : Nat) : List Byte :=
  let cells := m.filter (fun c => decide (a ≤ c.1) && decide (c.1 < a + len))
  if cells.isEmpty then List.replicate len 0 else (List.range len).map (fun i => readByte cells (a + i))

/-- The listed cells of `bs` placed from `a`: no zero is listed. -/
def cellsOf (a : Nat) : List Byte → List Host.Cell
  | [] => []
  | b :: bs => if b = 0 then cellsOf (a + 1) bs else (a, b) :: cellsOf (a + 1) bs

/-- Memory with `bs` written from `a`. -/
def writeMem (m : List Host.Cell) (a : Nat) (bs : List Byte) : List Host.Cell :=
  m.filter (fun c => decide (c.1 < a)) ++ cellsOf a bs ++ m.filter (fun c => decide (a + bs.length ≤ c.1))

/-- The canonical form of memory: addresses strictly rising and no zero listed. -/
def Memory.wf (m : List Host.Cell) : Bool :=
  decide (m.Pairwise (fun x y => x.1 < y.1)) && m.all (fun c => c.2 != 0)

/-- The numbers of the 64-byte blocks that `len` bytes from `a` touch. -/
def blocksOf (a len : Nat) : List Nat := if len = 0 then [] else span (a / 64) ((a + len - 1) / 64)

/-- The block that holds address `a` is poisoned, or its stack failed training (R171). -/
def poisoned (s : State) (a : Nat) : Bool := s.poison.contains (a / 64) || deadStack s a

/-- Some block that the range touches is poisoned. -/
def rangePoisoned (s : State) (a len : Nat) : Bool := (blocksOf a len).any (fun b => poisoned s (64 * b))

/-- The mark a write leaves on block `b` (R173): `a` and `len` are what is written, `dirty` says that a byte of it comes from a
poisoned block. -/
def markBlock (p : List Nat) (a len b : Nat) (dirty : Bool) : List Nat :=
  if dirty then setIns p b
  else if a ≤ 64 * b ∧ 64 * b + 64 ≤ a + len then setDel p b
  else p

/-! ### Regions (R161) -/

/-- The type of the enabled region that covers an HBM offset (R161). -/
def regionType (s : State) (a : Nat) : Option Nat :=
  ((List.range 16).find? (fun i =>
    flag s (regionReg i regionCtrl) 31 && decide (rd64 s (regionReg i regionBaseLo) ≤ a) &&
    decide (a < rd64 s (regionReg i regionBaseLo) + rd64 s (regionReg i regionSizeLo)))).map (fun i => fld s (regionReg i regionCtrl) 3 0)

/-! ### Error codes (R166, R167) -/

/-- The three check symbols of a block's 69 data and metadata symbols: the remainder of division by (x − α⁰)(x − α¹)(x − α²). -/
def rsCheck (msg : List Nat) : List Nat :=
  let r := msg.foldl (fun (r : Nat × Nat × Nat) m =>
    let f := m ^^^ r.1
    (r.2.1 ^^^ gfMul codePoly f (1 ^^^ 2 ^^^ 4), r.2.2 ^^^ gfMul codePoly f (2 ^^^ 4 ^^^ 8), gfMul codePoly f 8)) (0, 0, 0)
  [r.1, r.2.1, r.2.2]

/-- Syndrome `k` of a received word, its first symbol the highest coefficient. -/
def rsSyndrome (word : List Nat) (k : Nat) : Nat := word.foldl (fun x c => gfMul codePoly x (2 ^ k) ^^^ c) 0

/-- What the symbol code makes of a received word. -/
inductive CodeRead where
  | clean
  | corrected (sym err : Nat)
  | uncorrectable
  deriving DecidableEq, Repr

/-- A received word of 72 symbols decoded: one wrong symbol is located, two are detected; three or more may pass for fewer (R167). -/
def rsRead (word : List Nat) : CodeRead :=
  let s0 := rsSyndrome word 0
  let s1 := rsSyndrome word 1
  let s2 := rsSyndrome word 2
  if s0 = 0 ∧ s1 = 0 ∧ s2 = 0 then .clean
  else
    let at_ (p x : Nat) : Nat := gfMul codePoly x (gfPow codePoly 2 (71 - p))
    match (List.range 72).find? (fun p => s0 != 0 && at_ p s0 == s1 && at_ p s1 == s2) with
    | some p => .corrected p s0
    | none => .uncorrectable

/-- The 40 metadata bits of an HBM block (Table 6.4): POISON, CMP and TAG. -/
def blockMeta (s : State) (b : Nat) : Nat :=
  let tag := sget 0 s.frc b
  2 ^ 39 * b2n (s.poison.contains b) + (if tag = 0 then 0 else 2 ^ 38 + 65536 * tag)

/-- The 72 symbols of an HBM block as they were written. -/
def blockSymbols (s : State) (b : Nat) : List Nat :=
  let msg := (readMem s.mem (64 * b) 64 ++ leBytes 5 (blockMeta s b)).map BitVec.toNat
  msg ++ rsCheck msg

/-- An HBM block's content set to symbols as read, `bad` setting POISON. -/
def setBlock (s : State) (b : Nat) (word : List Nat) (bad : Bool) : State :=
  let bs := word.map (BitVec.ofNat 8)
  let m := leAt bs 64 5
  { s with
    mem := writeMem s.mem (64 * b) (bs.take 64)
    poison := if bad || bit m 39 then setIns s.poison b else setDel s.poison b
    frc := sput 0 s.frc b (if bit m 38 then bits m 31 16 else 0) }

/-- Flaws planted: an error at a place joins what is wrong there already; places that do not exist are left out (R166). -/
def plantOne (s : State) (f : Flaw) : State :=
  let ok := decide (f.err < 256) && (match f.place with
    | .hbm b => decide (64 * b < hbmTop) && decide (f.sym < 72)
    | .word w => decide (f.sym < 9) && isMemory (8 * w) && decide (hbmTop ≤ 8 * w)
    | .bank c b w => okCore c && decide (b < 2) && decide (w < 32768) && decide (f.sym < 9)
    | .onDie b => decide (64 * b < hbmTop) && f.sym == 0
    | .townHall => true)
  let old := ((s.flaws.find? (fun g => g.place == f.place && g.sym == f.sym)).map Flaw.err).getD 0
  let err := match f.place with | .onDie _ => old + f.err | _ => old ^^^ f.err
  if ok then
    { s with flaws := s.flaws.filter (fun g => !(g.place == f.place && g.sym == f.sym)) ++ (if err = 0 then [] else [{ f with err := err }]) }
  else s

/-- The number of wrong bits of some flaws. -/
def wrongBits (fs : List Flaw) : Nat := (fs.map (fun f => ((List.range 8).filter (bit f.err)).length)).sum

/-- The flaws at a place. -/
def flawsAt (s : State) (p : FlawPlace) : List Flaw := s.flaws.filter (fun f => f.place == p)

/-- The flaws at a place gone: overwritten or corrected. -/
def clearFlaws (s : State) (p : FlawPlace → Bool) : State := { s with flaws := s.flaws.filter (fun f => !p f.place) }

/-- A word of symbols with flaws applied. -/
def applyFlaws (fs : List Flaw) (word : List Nat) : List Nat := fs.foldl (fun w f => modAt w f.sym (· ^^^ f.err)) word

/-! ### Where marks arose (R508 to R510) -/

/-- SOURCE of core `c` (Table 18.3). -/
def coreSource (c : Nat) : Nat := 0x1000 + c

/-- SOURCE of the unit where a mark arose (R510, Table 18.3). -/
def MarkOrigin.source : MarkOrigin → Nat
  | .own _ u => u
  | .flit _ u => u
  | .other u => u

/-- The mark arose on this module in bell `n` (R508). -/
def MarkOrigin.ofBell (o : MarkOrigin) (n : Nat) : Bool :=
  match o with
  | .own m _ => m == n
  | _ => false

/-- The mark arrived in a flit from module `c` (R509). -/
def MarkOrigin.ofModule (o : MarkOrigin) (c : Coord) : Bool :=
  match o with
  | .flit m _ => m == c
  | _ => false

/-- Two marks' origins as one: what R508 and R509 ask stands where both agree on it, and the unit where both name one. -/
def MarkOrigin.join (x y : MarkOrigin) : MarkOrigin :=
  let u := if x.source = y.source then x.source else 0
  match x, y with
  | .own m _, .own n _ => if m = n then .own m u else .other u
  | .flit a _, .flit b _ => if a = b then .flit a u else .other u
  | _, _ => .other u

/-- Where the mark of the block at `a` arose. -/
def originOf (s : State) (a : Nat) : MarkOrigin := ((s.integrity.origins.find? (fun o => o.1 == a / 64)).map (·.2)).getD (.other 0)

/-- The origin of the blocks of a range recorded. -/
def setOrigins (s : State) (a len : Nat) (o : MarkOrigin) : State :=
  { s with integrity := { s.integrity with
      origins := (blocksOf a len).map (fun b => (b, o)) ++ s.integrity.origins.filter (fun e => !(blocksOf a len).contains e.1) } }

/-! ### Detected errors (R166, R171, R172, R184) -/

/-- SOURCE of the memory that holds a device address: its stack, or its core (Table 18.3). -/
def memorySource (a : Nat) : Nat :=
  match spaceOf a with
  | .hbm h => 0x4000 + stackOf h
  | .scratch c _ => coreSource c
  | .imem c _ => coreSource c
  | _ => 0

/-- Where a mark arises on an error found now at `a` (R508): of this bell for SRAM and for HBM regions of type 0x2 or 0x3. The bell is
the local bell number in the clock of detection (DEDUCED, log entry 9). -/
def errorOrigin (s : State) (a : Nat) : MarkOrigin :=
  if a < hbmTop ∧ regionType s a ≠ some 2 ∧ regionType s a ≠ some 3 then .other (memorySource a) else .own (bellNum s) (memorySource a)

/-- The memory word or block at `a` is uncorrectable: its block is poisoned, and it is counted and recorded (R166, R171, R172). -/
def uncorrectable (s : State) (a : Nat) : State :=
  let o := errorOrigin s a
  let s := setOrigins { s with poison := setIns s.poison (a / 64) } a 1 o
  match spaceOf a with
  | .hbm h =>
    let m := stackOf h
    let at_ := h / 64 * 64
    let s := count s (mcReg m mcUeCount)
    let s := wr s (mcReg m mcErrAddrLo) (at_ % 2 ^ 32)
    let s := setFld s (mcReg m mcErrAddrHi) 6 0 (at_ / 2 ^ 32)
    let s := raiseFlag s 10 (mcReg m mcErrAddrHi) 31
    submitEvent s 0x2001 (memorySource a) 0 (leBytes 8 at_)
  | .scratch c _ => submitEvent (count s (coreReg c coreSpUeCount)) 0x2002 (coreSource c) 0 (leBytes 8 a)
  | .imem c _ => submitEvent s 0x2002 (coreSource c) 0 (leBytes 8 a)
  | _ => s

/-- A corrected error at `a`, counted (Tables 6.8, 6.9). -/
def correctable (s : State) (a : Nat) : State :=
  match spaceOf a with
  | .hbm h => count s (mcReg (stackOf h) mcCeCount)
  | .scratch c _ => count s (coreReg c coreSpCeCount)
  | _ => s

/-- HBM block `b` read: on-die corrections are counted; the symbol code corrects what is delivered, or the block is written back poisoned
with its bytes as read (R167, R172, R184). A correction that names a wrong symbol leaves the word it decodes to. -/
def readBlock (s : State) (b : Nat) : State :=
  let s := countBy s (mcReg (stackOf (64 * b)) mcOndieCount) ((flawsAt s (.onDie b)).map Flaw.err).sum
  match flawsAt s (.hbm b) with
  | [] => s
  | f :: fs =>
    let raw := applyFlaws (f :: fs) (blockSymbols s b)
    match rsRead raw with
    | .clean => clearFlaws (setBlock s b raw false) (· == .hbm b)
    | .corrected sym err =>
      let s := setBlock (clearFlaws s (· == .hbm b)) b (applyFlaws [⟨.hbm b, sym, err⟩] raw) false
      correctable { s with flaws := s.flaws ++ [⟨.hbm b, sym, err⟩] } (64 * b)
    | .uncorrectable => uncorrectable (clearFlaws (setBlock s b raw true) (· == .hbm b)) (64 * b)

/-- The aligned SRAM word at 8 × `w` read: one wrong bit is corrected and written back, more are uncorrectable and the bytes stay as read
(R166); an odd number above one is taken as detected, and the word is not found wrong again (DESIGN CHOICE, log entry 9). -/
def readWord (s : State) (w : Nat) : State :=
  match flawsAt s (.word w) with
  | [] => s
  | f :: fs =>
    let s := clearFlaws s (· == .word w)
    if wrongBits (f :: fs) ≤ 1 then correctable s (8 * w)
    else
      let bs := (readMem s.mem (8 * w) 8).map BitVec.toNat
      uncorrectable { s with mem := writeMem s.mem (8 * w) ((applyFlaws (f :: fs) bs).map (BitVec.ofNat 8)) } (8 * w)

/-- The errors that a read of a 64-byte block meets, before its data is taken. -/
def strikeBlock (s : State) (b : Nat) : State :=
  if 64 * b < hbmTop then readBlock s b else (List.range 8).foldl (fun s i => readWord s (8 * b + i)) s

/-- The errors that a read of `blocks` meets. -/
def strike (s : State) (blocks : List Nat) : State := if s.flaws.isEmpty then s else blocks.dedup.foldl strikeBlock s

/-- The errors that a read of `len` bytes at `a` meets: those of the HBM blocks or of the SRAM words that it touches (R166, R172). -/
def meetMem (s : State) (a len : Nat) : State :=
  if s.flaws.isEmpty || len == 0 then s
  else if a < hbmTop then strike s (blocksOf a len)
  else (span (a / 8) ((a + len - 1) / 8)).foldl readWord s

/-- A town-hall memory's double-bit error, recorded; the spec gives it no address and no other effect (R166, Table 18.5). -/
def townHallError (s : State) : State :=
  let s' := clearFlaws s (· == .townHall)
  if 2 ≤ wrongBits (flawsAt s .townHall) then submitEvent s' 0x2002 0 0 (leBytes 8 0) else s'

/-- The stored bits that a command finds gone wrong (R166, R167). -/
def plant (s : State) (up : Upset) : State :=
  if up.flaws.isEmpty then s else townHallError (up.flaws.foldl plantOne s)

/-- The blocks that a write covers only in part: the memory reads them first (R168). -/
def partialBlocks (a len : Nat) : List Nat := (blocksOf a len).filter (fun b => decide (64 * b < a) || decide (a + len < 64 * b + 64))

/-- The aligned 64-bit words that `len` bytes from `a` touch but do not cover. -/
def partialWords (a len : Nat) : List Nat :=
  if len = 0 then [] else ([a / 8, (a + len - 1) / 8].dedup).filter (fun w => decide (8 * w < a) || decide (a + len < 8 * w + 8))

/-- A write of `len` bytes from `a` as the codes see it: what it covers in part is read and merged, so that an uncorrectable error there
leaves the block poisoned, and what it writes carries a fresh code (R166, R168). -/
def mergeRead (s : State) (a len : Nat) : State :=
  if s.flaws.isEmpty then s
  else
    let s := if a < hbmTop then strike s (partialBlocks a len) else (partialWords a len).foldl readWord s
    clearFlaws s (fun p => match p with
      | .hbm b => (blocksOf a len).contains b
      | .onDie b => (blocksOf a len).contains b
      | .word w => decide (a < 8 * w + 8) && decide (8 * w < a + len)
      | _ => false)

/-! ### Writes -/

/-- `bs` stored from `a`, in memory, with the marks of R173; bytes of a stack that failed training are dropped (R171), partial
writes of HBM blocks are counted, and what a write covers in part is merged (R166, R168). -/
def store (s : State) (a : Nat) (bs : List Byte) (dirty : Bool) : State :=
  if bs.isEmpty then s
  else if deadStack s a then s
  else
    let bl := blocksOf a bs.length
    let s := mergeRead s a bs.length
    let s := { s with
      mem := writeMem s.mem a bs
      poison := bl.foldl (fun p b => markBlock p a bs.length b dirty) s.poison }
    if a < hbmTop then
      bl.foldl (fun s b => if a ≤ 64 * b ∧ 64 * b + 64 ≤ a + bs.length then s else count s (mcReg (stackOf (64 * b)) mcRmwCount)) s
    else s

/-- `bs` stored block by block from `a`, so that blocks of different stacks are judged apart. -/
def storeRange (s : State) (a : Nat) (bs : List Byte) (dirty : Bool) : State :=
  let head := min bs.length ((64 - a % 64) % 64)
  if a < hbmTop then
    let s := store s a (bs.take head) dirty
    ((chunks 64 bs.length (bs.drop head)).zipIdx).foldl (fun s e => store s (a + head + 64 * e.2) e.1 dirty) s
  else store s a bs dirty

/-- The mark of block `b` after the bytes of one instruction (R173): poisoned by one dirty byte, clean where clean bytes cover it. -/
def putMark (puts : List Put) (marks : List Nat) (b : Nat) : List Nat :=
  let mine := puts.filter (fun p => p.1 / 64 == b)
  if mine.any (·.2.2) then setIns marks b
  else if ((mine.map (·.1)).dedup).length = 64 then setDel marks b
  else marks

/-- What the bytes of one instruction cover only in part is read first, and what they write carries a fresh code (R166, R168). -/
def mergePuts (s : State) (puts : List Put) : State :=
  if s.flaws.isEmpty then s
  else
    let as := (puts.map (·.1)).dedup
    let touched (n : Nat) : List Nat := ((as.map (· / n)).dedup).filter (fun k => decide ((as.filter (fun a => a / n == k)).length < n))
    let s := strike s ((touched 64).filter (fun b => decide (64 * b < hbmTop)))
    let s := ((touched 8).filter (fun w => decide (hbmTop ≤ 8 * w))).foldl readWord s
    clearFlaws s (fun p => match p with
      | .hbm b => as.any (fun a => a / 64 == b)
      | .onDie b => as.any (fun a => a / 64 == b)
      | .word w => as.any (fun a => a / 8 == w)
      | _ => false)

/-- The bytes of one instruction put in order, with the marks they leave; a byte of a failed stack is dropped. -/
def putBytes (s : State) (puts : List Put) : State :=
  let puts := puts.filter (fun p => !deadStack s p.1)
  let s := mergePuts s puts
  { s with
    mem := puts.foldl (fun m p => writeMem m p.1 [p.2.1]) s.mem
    poison := ((puts.map (fun p => p.1 / 64)).dedup).foldl (putMark puts) s.poison }

/-- Bytes as puts from an address. -/
def putsOf (a : Nat) (bs : List Byte) (bad : Bool) : List Put := bs.zipIdx.map (fun e => (a + e.2, e.1, bad))

/-- HBM blocks that some puts cover only in part are counted, once each (R168, Table 6.8). -/
def countPartial (s : State) (puts : List Put) : State :=
  ((puts.map (fun p => p.1 / 64)).dedup).foldl (fun s b =>
    if 64 * b < hbmTop ∧ (((puts.filter (fun p => p.1 / 64 == b)).map (·.1)).dedup).length ≠ 64
    then count s (mcReg (stackOf (64 * b)) mcRmwCount) else s) s

/-- Pieces of bytes with their marks, cut at the boundaries of 64-byte blocks. -/
def cutPieces (rs : List (Nat × List Byte × Bool)) : List (Nat × List Byte × Bool) :=
  rs.flatMap (fun r =>
    let head := min r.2.1.length ((64 - r.1 % 64) % 64)
    ((r.1, r.2.1.take head, r.2.2) ::
      ((chunks 64 r.2.1.length (r.2.1.drop head)).zipIdx).map (fun e => (r.1 + head + 64 * e.2, e.1, r.2.2))).filter (fun p => !p.2.1.isEmpty))

/-- Pieces written in order as one write of each block they touch: what they cover in part is merged and counted, and the marks are those of R173
(R166, R168; DESIGN CHOICE what counts as one write, log entry 18). Bytes of a failed stack are dropped (R171). -/
def putPieces (s : State) (rs : List (Nat × List Byte × Bool)) : State :=
  let ps := (cutPieces rs).filter (fun p => !deadStack s p.1)
  let puts := ps.flatMap (fun p => putsOf p.1 p.2.1 p.2.2)
  let s := mergePuts s puts
  countPartial { s with
    mem := ps.foldl (fun m p => writeMem m p.1 p.2.1) s.mem
    poison := ((puts.map (fun p => p.1 / 64)).dedup).foldl (putMark puts) s.poison } puts

/-- A destination range poisoned by the failure of a unit: every block it touches, its bytes as stored (R174, R230). The mark arose from no
memory error, so no read of it is recomputable (R508). -/
def poisonRange (s : State) (a len unit : Nat) : State :=
  setOrigins { s with poison := (blocksOf a len).foldl setIns s.poison } a len (.other unit)

/-! ### Tallies (R283, R284) -/

/-- The value of a tally. -/
def tally (s : State) (c t : Nat) : Nat := fld s (coreReg c coreTally + 4 * t) 15 0

/-- One added to a tally modulo 2^16 (R283). -/
def signalTally (s : State) (c t : Nat) : State := wr s (coreReg c coreTally + 4 * t) ((tally s c t + 1) % 65536)

/-- A wait on tally `t` for count `n` is satisfied (R284). -/
def waitMet (s : State) (c t n : Nat) : Bool := (tally s c t + 65536 - n % 65536) % 65536 < 32768

/-! ### Cores -/

/-- Core `c`, at reset where there is none. -/
def coreAt (s : State) (c : Nat) : Core := s.cores.getD c {}

/-- Core `c` changed. -/
def modCore (s : State) (c : Nat) (f : Core → Core) : State := { s with cores := modAt s.cores c f }

/-- A unit's stream of a core. -/
def streamOf (k : Core) : CoreUnit → Stream
  | .mx => k.mx
  | .vx => k.vx
  | .rx => k.rx
  | .mv => k.mv

/-- A core with a unit's stream changed. -/
def modStream (u : CoreUnit) (f : Stream → Stream) (k : Core) : Core :=
  match u with
  | .mx => { k with mx := f k.mx }
  | .vx => { k with vx := f k.vx }
  | .rx => { k with rx := f k.rx }
  | .mv => { k with mv := f k.mv }

/-- The program in a slot. -/
def slotOf (st : Stream) : Slot → Option Prog
  | .step => st.step
  | .side => st.side

/-- A stream with a slot's program replaced. -/
def setSlot (st : Stream) (sl : Slot) (p : Option Prog) : Stream :=
  match sl with
  | .step => { st with step := p }
  | .side => { st with side := p }

/-- The program in a slot of a unit of core `c`. -/
def progOf (s : State) (c : Nat) (u : CoreUnit) (sl : Slot) : Option Prog := slotOf (streamOf (coreAt s c) u) sl

/-- The program of a slot changed. -/
def modProg (s : State) (c : Nat) (u : CoreUnit) (sl : Slot) (f : Prog → Prog) : State :=
  modCore s c (modStream u (fun st => setSlot st sl ((slotOf st sl).map f)))

/-- The settings an instruction of a slot reads: those of the bell its slot carries for step work and witness replays, of the present
bell otherwise (R274, R275, R517). -/
def slotSettings (s : State) (sl : Slot) (p : Prog) : Half :=
  if sl = .step ∨ p.key.src = .replay then settingsOf s p.bell else s.activeHalf

/-- The bell whose number an instruction of a slot uses (R55, R275, R517). -/
def slotBell (s : State) (sl : Slot) (p : Prog) : Nat :=
  if sl = .step ∨ p.key.src = .replay then p.bell else bellNum s

/-! ### Shared guards -/

/-- The main domain runs and the package is out of reset (R556). -/
def live (s : State) : Bool := s.power.running

/-- The host reaches the function's BARs: it is ready, the link is up and it is in D0 (R214, R556). -/
def hostUp (s : State) : Bool := s.power.ready && s.power.linkUp && !s.power.d3hot

/-- A requester that exists and can reach the registers. -/
def mayAsk (s : State) : Requester → Bool
  | .host => hostUp s
  | .core c => okCore c

end Sys2Proof.Machine
end

