-- ==== Sys2Proof/Machine/Crypto.lean ====
section
/-! DEFINITION. AES-256, GCM, CMAC and the key derivation of R492, SHA-256 and RSASSA-PSS (R559), and CRC-32C: functions of
bytes alone, after the published standards that the rules name. -/

namespace Sys2Proof.Machine

/-! ### AES-256 -/

/-- The field polynomial of AES. -/
def aesPoly : Nat := 0x11B

/-- The S-box. -/
def subByte (x : Nat) : Nat :=
  let b := gfInv aesPoly x
  let r (k : Nat) : Nat := (b <<< k) % 256 ||| (b >>> (8 - k))
  b ^^^ r 1 ^^^ r 2 ^^^ r 3 ^^^ r 4 ^^^ 0x63

/-- Two lists of bytes added. -/
def xorList (x y : List Nat) : List Nat := x.zipWith (· ^^^ ·) y

/-- The round constants by index. -/
def rcon (i : Nat) : Nat := gfPow aesPoly 2 (i - 1)

/-- The words of the key schedule from index `i` on, newest first in `ws`. -/
def keyWords : Nat → Nat → List (List Nat) → List (List Nat)
  | 0, _, ws => ws
  | fuel + 1, i, ws =>
    let t := ws.getD 0 []
    let t := if i % 8 = 0 then xorList ((t.drop 1 ++ t.take 1).map subByte) [rcon (i / 8), 0, 0, 0]
      else if i % 8 = 4 then t.map subByte else t
    keyWords fuel (i + 1) (xorList (ws.getD 7 []) t :: ws)

/-- The fifteen round keys of a 32-byte key. -/
def roundKeys (key : List Byte) : List (List Nat) :=
  let ws := (chunks 4 8 ((padTo 32 key).map BitVec.toNat)).reverse
  (chunks 4 15 (keyWords 52 8 ws).reverse).map List.flatten

/-- Column mixing. -/
def mixColumns (st : List Nat) : List Nat :=
  (chunks 4 4 st).flatMap (fun c =>
    let m (a b x y : Nat) : Nat := gfMul aesPoly 2 a ^^^ gfMul aesPoly 3 b ^^^ x ^^^ y
    let c0 := c.getD 0 0
    let c1 := c.getD 1 0
    let c2 := c.getD 2 0
    let c3 := c.getD 3 0
    [m c0 c1 c2 c3, m c1 c2 c3 c0, m c2 c3 c0 c1, m c3 c0 c1 c2])

/-- Row shifting: byte 4c + r comes from column c + r. -/
def shiftRows (st : List Nat) : List Nat := (List.range 16).map (fun i => st.getD ((i + 4 * (i % 4)) % 16) 0)

/-- One block encrypted under round keys. -/
def aesRounds (ks : List (List Nat)) (block : List Nat) : List Nat :=
  let st := xorList block (ks.getD 0 [])
  let st := (List.range 13).foldl (fun st i => xorList (mixColumns (shiftRows (st.map subByte))) (ks.getD (i + 1) [])) st
  xorList (shiftRows (st.map subByte)) (ks.getD 14 [])

/-- One 16-byte block encrypted with AES-256. -/
def aesBlock (key block : List Byte) : List Byte :=
  (aesRounds (roundKeys key) ((padTo 16 block).map BitVec.toNat)).map (BitVec.ofNat 8)

/-! ### GCM -/

/-- A product of GHASH, by the bits of `x` from the most significant. -/
def ghashMulFrom : Nat → Nat → Nat → Nat → Nat
  | 0, _, _, z => z
  | k + 1, x, v, z =>
    ghashMulFrom k x (if v % 2 = 1 then v / 2 ^^^ (0xE1 <<< 120) else v / 2) (if bit x k then z ^^^ v else z)

/-- A product of GHASH. -/
def ghashMul (x y : Nat) : Nat := ghashMulFrom 128 x y 0

/-- GHASH of blocks. -/
def ghash (h : Nat) (blocks : List (List Byte)) : Nat := blocks.foldl (fun y b => ghashMul (y ^^^ beNat (padTo 16 b)) h) 0

/-- Bytes cut into 16-byte blocks. -/
def blocks16 (bs : List Byte) : List (List Byte) := chunks 16 (bs.length / 16 + 1) bs

/-- The counter-mode stream over bytes, from counter 2 (NIST SP 800-38D). -/
def gcmStream (ks : List (List Nat)) (iv bs : List Byte) : List Byte :=
  (blocks16 bs).zipIdx.flatMap (fun b =>
    let e := (aesRounds ks ((iv ++ beBytes 4 (b.2 + 2)).map BitVec.toNat)).map (BitVec.ofNat 8)
    b.1.zipWith (· ^^^ ·) e)

/-- The tag over header and ciphertext. -/
def gcmTag (ks : List (List Nat)) (iv aad ct : List Byte) : List Byte :=
  let e (b : List Byte) : Nat := beNat ((aesRounds ks (b.map BitVec.toNat)).map (BitVec.ofNat 8))
  let h := e (List.replicate 16 0)
  let s := ghash h (blocks16 aad ++ blocks16 ct ++ [beBytes 8 (8 * aad.length) ++ beBytes 8 (8 * ct.length)])
  beBytes 16 (s ^^^ e (iv ++ beBytes 4 1))

/-- A message sealed: ciphertext and tag (R484). -/
def gcmSeal (key iv aad pt : List Byte) : List Byte × List Byte :=
  let ks := roundKeys key
  let ct := gcmStream ks iv pt
  (ct, gcmTag ks iv aad ct)

/-- A message opened: its plaintext and whether the tag verifies (R484). -/
def gcmOpen (key iv aad ct tag : List Byte) : List Byte × Bool :=
  let ks := roundKeys key
  (gcmStream ks iv ct, gcmTag ks iv aad ct == tag)

/-! ### CMAC and derived keys (R492) -/

/-- Doubling in GF(2¹²⁸) as CMAC uses it. -/
def cmacDouble (x : Nat) : Nat := if bit x 127 then (2 * x) % 2 ^ 128 ^^^ 0x87 else 2 * x

/-- AES-256-CMAC. -/
def cmac (key msg : List Byte) : List Byte :=
  let e (x : Nat) : Nat := beNat (aesBlock key (beBytes 16 x))
  let l := e 0
  let bs := blocks16 msg
  let last := bs.getLast?.getD []
  let body := bs.dropLast
  let fin := if last.length = 16 then beNat last ^^^ cmacDouble l
    else beNat (padTo 16 (last ++ [0x80])) ^^^ cmacDouble (cmacDouble l)
  beBytes 16 (e ((body.foldl (fun y b => e (y ^^^ beNat b)) 0) ^^^ fin))

/-- The label of R492. -/
def kdfLabel : List Byte := [0x48, 0x59, 0x46, 0x2D, 0x4B, 0x44, 0x46, 0x31]

/-- A road key (R492, Table 16.4). -/
def roadKey (root : List Byte) (job epoch src dst road : Nat) : List Byte :=
  let ctx : List Byte := leBytes 4 job ++ leBytes 4 epoch ++ leBytes 1 src ++ leBytes 1 dst ++ leBytes 1 road ++
    leBytes 1 (if src < dst then 0 else 1) ++ List.replicate 20 0
  let k (i : Nat) : List Byte := cmac root (leBytes 1 i ++ kdfLabel ++ [0] ++ ctx ++ [1, 0])
  k 1 ++ k 2

/-- The check value of a key (R491). -/
def keyCheck (key : List Byte) : Nat := beNat ((aesBlock key (List.replicate 16 0)).take 2)

/-! ### SHA-256

The standard takes its constants from the fractional parts of roots of the first primes, and its working variables are two shift
registers of four words: those that the standard letters from the first on, and those that it letters from the fifth on. -/

/-- The first 32 fraction bits of the `k`-th root of `p`, bit by bit from above. -/
def rootFraction (k p : Nat) : Nat :=
  let below := (List.range 36).foldl (fun r i =>
    let up := r + 2 ^ (35 - i)
    if p * 2 ^ (32 * k) < up ^ k then r else up) 0
  below % 2 ^ 32

/-- The 64 primes up to 311. -/
def shaPrimes : List Nat := (span 2 311).filter (fun p => (span 2 17).all (fun d => p == d || p % d != 0))

/-- The round constants: cube roots. -/
def shaCubes : List Nat := shaPrimes.map (rootFraction 3)

/-- The initial hash: square roots of the first eight primes. -/
def shaStart : List Nat := (shaPrimes.take 8).map (rootFraction 2)

/-- A word turned right by each of some amounts, the results added bit by bit. -/
def turned (w : Nat) (by_ : List Nat) : Nat := by_.foldl (fun acc n => acc ^^^ ((w * 2 ^ 32 + w) / 2 ^ n % 2 ^ 32)) 0

/-- `more` further words of the message schedule, put in front of the last sixteen or more, newest first. -/
def shaWords (more : Nat) (ws : List Nat) : List Nat :=
  (List.range more).foldl (fun ws _ =>
    let near := ws.getD 1 0
    let far := ws.getD 14 0
    (ws.getD 15 0 + ws.getD 6 0 + (turned near [17, 19] ^^^ near / 2 ^ 10) + (turned far [7, 18] ^^^ far / 2 ^ 3)) % 2 ^ 32 :: ws) ws

/-- The two shift registers, newest word first. -/
structure ShaRegs where
  hi : List Nat
  lo : List Nat
  deriving DecidableEq, Repr

/-- One round with its constant and schedule word in `kw`: each register takes one word in and drops its oldest. -/
def ShaRegs.turn (r : ShaRegs) (kw : Nat) : ShaRegs :=
  let x (i : Nat) : Nat := r.hi.getD i 0
  let y (i : Nat) : Nat := r.lo.getD i 0
  let pick := y 2 ^^^ (y 0 &&& (y 1 ^^^ y 2))
  let most := (x 0 &&& (x 1 ||| x 2)) ||| (x 1 &&& x 2)
  let fed := kw + pick + turned (y 0) [6, 11, 25] + y 3
  { hi := (fed + most + turned (x 0) [2, 13, 22]) % 2 ^ 32 :: r.hi.take 3, lo := (fed + x 3) % 2 ^ 32 :: r.lo.take 3 }

/-- One 64-byte block taken into the hash. -/
def shaBlock (h : List Nat) (block : List Byte) : List Nat :=
  let ws := (shaWords 48 ((chunks 4 16 block).map beNat).reverse).reverse
  let r := (shaCubes.zipWith (· + ·) ws).foldl ShaRegs.turn ⟨h.take 4, h.drop 4⟩
  (r.hi ++ r.lo).zipWith (fun n o => (n + o) % 2 ^ 32) h

/-- SHA-256. -/
def sha256 (msg : List Byte) : List Byte :=
  let pad := (119 - msg.length % 64) % 64
  let m := msg ++ [0x80] ++ List.replicate pad 0 ++ beBytes 8 (8 * msg.length)
  ((chunks 64 (m.length / 64 + 1) m).foldl shaBlock shaStart).flatMap (beBytes 4)

/-! ### RSASSA-PSS (Table 19.6) -/

/-- A power modulo `n`, by the bits of `e` from the top. -/
def powMod (n b e : Nat) : Nat → Nat
  | 0 => 1 % n
  | k + 1 =>
    let r := powMod n b (e / 2) k
    if e % 2 = 1 then r * r % n * b % n else r * r % n

/-- MGF1 with SHA-256. -/
def mgf1 (seed : List Byte) (len : Nat) : List Byte :=
  ((List.range (len / 32 + 1)).flatMap (fun i => sha256 (seed ++ beBytes 4 i))).take len

/-- An RSA-3072 PSS signature with SHA-256, MGF1 and a 32-byte salt verifies over a message. -/
def pssVerify (modulus : List Byte) (e : Nat) (msg sig : List Byte) : Bool :=
  let n := beNat modulus
  let emBits := n.log2
  let emLen := (emBits + 7) / 8
  let s := beNat sig
  if n = 0 ∨ n ≤ s ∨ emLen < 66 then false
  else
    let em := beBytes emLen (powMod n s e 32)
    let masked := em.take (emLen - 33)
    let h := slice em (emLen - 33) 32
    let spare := 8 * emLen - emBits
    let db0 := masked.zipWith (· ^^^ ·) (mgf1 h (emLen - 33))
    let keep := 2 ^ (8 - spare)
    let db := BitVec.ofNat 8 ((db0.headD 0).toNat % keep) :: db0.drop 1
    let zeros := emLen - 66
    em.getLast? == some 0xBC && decide ((masked.headD 0).toNat < keep) &&
    (db.take zeros).all (· == 0) && (db[zeros]?) == some 1 &&
    sha256 (List.replicate 8 0 ++ sha256 msg ++ db.drop (zeros + 1)) == h

/-! ### Checksums -/

/-- A byte taken into a CRC-32C, bit by bit. -/
def crcBits : Nat → Nat → Nat
  | 0, c => c
  | k + 1, c => crcBits k (if c % 2 = 1 then c / 2 ^^^ 0x82F63B78 else c / 2)

/-- CRC-32C. -/
def crc32c (bs : List Byte) : Nat := (bs.foldl (fun c b => crcBits 8 (c ^^^ b.toNat)) 0xFFFFFFFF) ^^^ 0xFFFFFFFF

/-- The one's complement sum of 16-bit big-endian words, folded. -/
def onesSum (bs : List Byte) : Nat :=
  let t := ((chunks 2 (bs.length / 2 + 1) bs).map (fun w => beNat (padTo 2 w))).sum
  let t := t % 65536 + t / 65536
  t % 65536 + t / 65536

end Sys2Proof.Machine
end

