-- ==== Sys2Proof/Machine/Numeric.lean ====
section
/-! DEFINITION. Number formats, exact values, rounding and conversion (R34 to R56): every value is an exact binary fraction, every operation is
exact on it, and one rounding brings it into a format. -/

namespace Sys2Proof.Machine

/-! ### Exact values -/

/-- A value of a floating-point unit: NaN, an infinity, or ± `m` × 2^`e`; `m` = 0 is a signed zero. -/
inductive Fnum where
  | nan
  | inf (neg : Bool)
  | fin (neg : Bool) (m : Nat) (e : Int)
  deriving DecidableEq, Repr

/-- +0. -/
def Fnum.zero : Fnum := .fin false 0 0

/-- The value of an integer. -/
def Fnum.ofInt (v : Int) : Fnum := .fin (decide (v < 0)) v.natAbs 0

/-- `v` × 2^`e`. -/
def Fnum.scaled (v : Int) (e : Int) : Fnum := .fin (decide (v < 0)) v.natAbs e

/-- The value is a NaN. -/
def Fnum.isNan : Fnum → Bool
  | .nan => true
  | _ => false

/-- The value is finite. -/
def Fnum.isFin : Fnum → Bool
  | .fin _ _ _ => true
  | _ => false

/-- The value is a zero. -/
def Fnum.isZero : Fnum → Bool
  | .fin _ m _ => m == 0
  | _ => false

/-- The sign bit; a NaN has none. -/
def Fnum.neg? : Fnum → Bool
  | .nan => false
  | .inf n => n
  | .fin n _ _ => n

/-- The value with its sign changed. -/
def Fnum.negate : Fnum → Fnum
  | .nan => .nan
  | .inf n => .inf (!n)
  | .fin n m e => .fin (!n) m e

/-- The magnitude. -/
def Fnum.abs : Fnum → Fnum
  | .nan => .nan
  | .inf _ => .inf false
  | .fin _ m e => .fin false m e

/-- The value times 2^`k`, exactly (R58). -/
def Fnum.shift (x : Fnum) (k : Int) : Fnum :=
  match x with
  | .fin n m e => .fin n m (e + k)
  | y => y

/-- `m` × 2^`e` as an integer at exponent `q` ≤ `e`. -/
def atExp (m : Nat) (e q : Int) : Nat := m <<< (e - q).toNat

/-- The signed integer of a finite value at exponent `q` ≤ its own. -/
def Fnum.intAt (x : Fnum) (q : Int) : Int :=
  match x with
  | .fin n m e => if n then -(atExp m e q : Int) else (atExp m e q : Int)
  | _ => 0

/-- The integer part of a finite value, toward zero. -/
def Fnum.toInt (x : Fnum) : Int :=
  match x with
  | .fin n m e =>
    let v := if 0 ≤ e then m <<< e.toNat else m >>> (-e).toNat
    if n then -(v : Int) else (v : Int)
  | _ => 0

/-- Sum (R47, R50): exact; equal magnitudes of opposite sign give +0, two zeros of one sign keep it. -/
def Fnum.add (x y : Fnum) : Fnum :=
  match x, y with
  | .nan, _ => .nan
  | _, .nan => .nan
  | .inf a, .inf b => if a = b then .inf a else .nan
  | .inf a, _ => .inf a
  | _, .inf b => .inf b
  | .fin a m e, .fin b n f =>
    if m = 0 ∧ n = 0 then .fin (a && b) 0 0
    else if m = 0 then y
    else if n = 0 then x
    else
      let q := min e f
      let v := x.intAt q + y.intAt q
      if v = 0 then .fin false 0 0 else .fin (decide (v < 0)) v.natAbs q

/-- Product (R47, R50). -/
def Fnum.mul (x y : Fnum) : Fnum :=
  match x, y with
  | .nan, _ => .nan
  | _, .nan => .nan
  | .inf a, .inf b => .inf (a != b)
  | .inf a, .fin b n _ => if n = 0 then .nan else .inf (a != b)
  | .fin a m _, .inf b => if m = 0 then .nan else .inf (a != b)
  | .fin a m e, .fin b n f => .fin (a != b) (m * n) (e + f)

/-- Difference. -/
def Fnum.sub (x y : Fnum) : Fnum := x.add y.negate

/-- Fused multiply-add (R47): 0 × ∞ is NaN whatever the addend. -/
def Fnum.fma (x y z : Fnum) : Fnum := (x.mul y).add z

/-- `x` < `y` for values that are no NaN; −0 equals +0. -/
def Fnum.lt (x y : Fnum) : Bool :=
  match x, y with
  | .nan, _ => false
  | _, .nan => false
  | .inf a, .inf b => a && !b
  | .inf a, _ => a
  | _, .inf b => !b
  | .fin _ _ e, .fin _ _ f => decide (x.intAt (min e f) < y.intAt (min e f))

/-- Equal values; −0 equals +0, a NaN equals nothing. -/
def Fnum.eqv (x y : Fnum) : Bool := !x.isNan && !y.isNan && !x.lt y && !y.lt x

/-- Minimum of IEEE 754-2019 clause 9.6: NaN if either is, −0 below +0 (Table 2.4). -/
def Fnum.minimum (x y : Fnum) : Fnum :=
  if x.isNan || y.isNan then .nan else if x.lt y then x else if y.lt x then y else if x.neg? then x else y

/-- Maximum of IEEE 754-2019 clause 9.6 (Table 2.4). -/
def Fnum.maximum (x y : Fnum) : Fnum :=
  if x.isNan || y.isNan then .nan else if x.lt y then y else if y.lt x then x else if x.neg? then y else x

/-! ### Rounding (R53, R54) -/

/-- A rounding mode: to nearest even, or stochastic with the 16-bit random number of R55. -/
inductive Rnd where
  | rne
  | sr (r : Nat)
  deriving DecidableEq, Repr

/-- `m` × 2^`sh` rounded to an integer. -/
def roundInt (m : Nat) (sh : Int) (rnd : Rnd) : Nat :=
  if 0 ≤ sh then m <<< sh.toNat
  else
    let d := (-sh).toNat
    let q := m >>> d
    let rem := m % 2 ^ d
    match rnd with
    | .rne => if 2 ^ d < 2 * rem ∨ (2 * rem = 2 ^ d ∧ q % 2 = 1) then q + 1 else q
    | .sr r => if 65536 ≤ (rem <<< 16) >>> d + r then q + 1 else q

/-- How a format treats its top exponent field (R35, Tables 2.1 and 2.2). -/
inductive FKind where
  | ieee
  | e4m3
  | plain
  deriving DecidableEq, Repr

/-- A floating-point format. -/
structure FFmt where
  expBits : Nat
  manBits : Nat
  bias : Int
  kind : FKind
  deriving DecidableEq, Repr

/-- FP64. -/
def fp64 : FFmt := ⟨11, 52, 1023, .ieee⟩
/-- FP32. -/
def fp32 : FFmt := ⟨8, 23, 127, .ieee⟩
/-- BF16. -/
def bf16 : FFmt := ⟨8, 7, 127, .ieee⟩
/-- FP16. -/
def fp16 : FFmt := ⟨5, 10, 15, .ieee⟩
/-- FP8 E4M3, also the MXFP8 element. -/
def e4m3 : FFmt := ⟨4, 3, 7, .e4m3⟩
/-- FP8 E5M2. -/
def e5m2 : FFmt := ⟨5, 2, 15, .ieee⟩
/-- MXFP6 element E2M3. -/
def e2m3 : FFmt := ⟨2, 3, 1, .plain⟩
/-- MXFP6 element E3M2. -/
def e3m2 : FFmt := ⟨3, 2, 3, .plain⟩
/-- MXFP4 element E2M1. -/
def e2m1 : FFmt := ⟨2, 1, 1, .plain⟩

/-- The floating-point format, or element format of an MX format, that a FMT code names (Table 2.1). -/
def ffmt (code : Nat) : Option FFmt :=
  match code with
  | 0 => some fp64
  | 1 => some fp32
  | 2 => some bf16
  | 3 => some fp16
  | 4 => some e4m3
  | 5 => some e5m2
  | 6 => some e4m3
  | 7 => some e2m3
  | 8 => some e3m2
  | 9 => some e2m1
  | _ => none

/-- The exponent of the smallest subnormal. -/
def FFmt.qmin (f : FFmt) : Int := 1 - f.bias - f.manBits

/-- The largest finite magnitude, as integer and exponent (Table 2.1). -/
def FFmt.largest (f : FFmt) : Nat × Int :=
  match f.kind with
  | .ieee => (2 ^ (f.manBits + 1) - 1, (2 ^ f.expBits : Nat) - 2 - f.bias - f.manBits)
  | .e4m3 => (14, 5)
  | .plain => (2 ^ (f.manBits + 1) - 1, (2 ^ f.expBits : Nat) - 1 - f.bias - f.manBits)

/-- Bits of an encoding. -/
def FFmt.width (f : FFmt) : Nat := 1 + f.expBits + f.manBits

/-- The canonical NaN (R48). -/
def FFmt.nan (f : FFmt) : Nat :=
  match f.kind with
  | .ieee => (2 ^ f.expBits - 1) <<< f.manBits + 2 ^ (f.manBits - 1)
  | _ => 2 ^ (f.expBits + f.manBits) - 1

/-- The encoding of an infinity. -/
def FFmt.infinity (f : FFmt) (neg : Bool) : Nat :=
  (b2n neg) <<< (f.expBits + f.manBits) + (2 ^ f.expBits - 1) <<< f.manBits

/-- The value of an encoding (R35, R49). -/
def FFmt.decode (f : FFmt) (x : Nat) : Fnum :=
  let man := x % 2 ^ f.manBits
  let ex := (x >>> f.manBits) % 2 ^ f.expBits
  let neg := bit x (f.expBits + f.manBits)
  if f.kind = .ieee ∧ ex = 2 ^ f.expBits - 1 then (if man = 0 then .inf neg else .nan)
  else if f.kind = .e4m3 ∧ ex = 15 ∧ man = 7 then .nan
  else if ex = 0 then .fin neg man f.qmin
  else .fin neg (2 ^ f.manBits + man) (f.qmin + ex - 1)

/-- The exponent of one unit in the last place of the format at `m` × 2^`e`, the exponent range unbounded above. -/
def FFmt.ulp (f : FFmt) (m : Nat) (e : Int) : Int := max f.qmin (e + (m.log2 : Int) - f.manBits)

/-- The encoding of the representable magnitude `n` × 2^`q`, `q` at least the smallest subnormal's. -/
def FFmt.pack (f : FFmt) (neg : Bool) (n : Nat) (q : Int) : Nat :=
  let n' := if n = 2 ^ (f.manBits + 1) then 2 ^ f.manBits else n
  let q' := if n = 2 ^ (f.manBits + 1) then q + 1 else q
  (b2n neg) <<< (f.expBits + f.manBits) +
    (if n' < 2 ^ f.manBits then n' else (q' - f.qmin + 1).toNat <<< f.manBits + (n' - 2 ^ f.manBits))

/-- `n` × 2^`q` exceeds `l`.1 × 2^`l`.2. -/
def exceeds (n : Nat) (q : Int) (l : Nat × Int) : Bool :=
  let b := min q l.2
  decide (atExp l.1 l.2 b < atExp n q b)

/-! ### Conversion (R51, Table 2.5) -/

/-- A conversion's result and what it counts: overflow, flush (vanish for SQ32), non-finite. -/
structure Conv where
  enc : Nat
  ovf : Bool := false
  flush : Bool := false
  nf : Bool := false
  deriving DecidableEq, Repr

/-- A value rounded into a floating-point format: beyond the range it becomes an infinity in the IEEE formats and saturates in
the 8-bit ones (Table 2.5). -/
def FFmt.convert (f : FFmt) (x : Fnum) (rnd : Rnd) : Conv :=
  let top (neg : Bool) : Nat := f.pack neg f.largest.1 f.largest.2
  let saturates : Bool := f.width ≤ 8
  match x with
  | .nan => { enc := f.nan }
  | .inf neg =>
    if f.kind = .ieee then { enc := f.infinity neg } else { enc := top neg, ovf := true, nf := true }
  | .fin neg m e =>
    if m = 0 then { enc := f.pack neg 0 0 }
    else
      let q := f.ulp m e
      let n := roundInt m (e - q) rnd
      if n = 0 then { enc := f.pack neg 0 0, flush := true }
      else if exceeds n q f.largest then
        { enc := if saturates then top neg else f.infinity neg, ovf := true }
      else { enc := f.pack neg n q }

/-- A value rounded to an INT8 (Table 2.5). -/
def convInt8 (x : Fnum) (rnd : Rnd) : Conv :=
  match x with
  | .nan => { enc := 0, nf := true }
  | .inf neg => { enc := if neg then 0x80 else 0x7F, ovf := true, nf := true }
  | .fin neg m e =>
    let n := roundInt m e rnd
    let lim := if neg then 128 else 127
    if lim < n then { enc := if neg then 0x80 else 0x7F, ovf := true }
    else { enc := unsigned 8 (if neg then -(n : Int) else n), flush := n == 0 && m != 0 }

/-- A value rounded to SQ32, symmetric (R40, Table 2.5). -/
def convSq32 (x : Fnum) (rnd : Rnd) : Conv :=
  match x with
  | .fin neg m e =>
    let n := roundInt m e rnd
    let lim := 2 ^ 31 - 1
    if lim < n then { enc := unsigned 32 (if neg then -(lim : Int) else lim), ovf := true }
    else { enc := unsigned 32 (if neg then -(n : Int) else n), flush := n == 0 && m != 0 }
  | _ => { enc := 0, nf := true }

/-- A value rounded into the element format of FMT `code` (R51); MX elements by R38's saturation. -/
def convert (code : Nat) (x : Fnum) (rnd : Rnd) : Conv :=
  match ffmt code with
  | some f => f.convert x rnd
  | none => if code = 0xA then convInt8 x rnd else convSq32 x rnd

/-- The value of an element in FMT `code`, an MX element without its scale. -/
def decodeElem (code enc : Nat) : Fnum :=
  match ffmt code with
  | some f => f.decode enc
  | none => if code = 0xA then .ofInt (signed 8 enc) else .ofInt (signed 32 enc)

/-- Bits of an element of FMT `code` (Table 2.1). -/
def elemBits (code : Nat) : Nat :=
  match code with
  | 0 => 64
  | 1 => 32
  | 2 => 16
  | 3 => 16
  | 7 => 6
  | 8 => 6
  | 9 => 4
  | 0xB => 32
  | _ => 8

/-- The FMT codes 0x6 to 0x9. -/
def isMx (code : Nat) : Bool := 6 ≤ code && code ≤ 9

/-- One result of an operation rounded to FP32, with the counters of R69 it raises: overflow, flush and NaN creation. -/
structure Res where
  val : Fnum
  ovf : Nat := 0
  flush : Nat := 0
  gen : Nat := 0
  deriving DecidableEq, Repr

/-- An exact result rounded to a format by round-to-nearest-even; `args` are its operands (R69). An exact infinity, as of a division by zero,
is no finite value that became infinite and is not counted in OVF_COUNT (DESIGN CHOICE, log entry 57). -/
def toFmt (f : FFmt) (x : Fnum) (args : List Fnum) : Res :=
  let c := f.convert x .rne
  { val := f.decode c.enc
    ovf := if x.isFin && c.ovf then 1 else 0
    flush := if c.flush then 1 else 0
    gen := if x.isNan && !args.any Fnum.isNan then 1 else 0 }

/-- An exact result rounded to FP32. -/
abbrev toFp32 : Fnum → List Fnum → Res := toFmt fp32

/-! ### MX blocks (R37 to R39) -/

/-- The value of an MX element under its scale byte (R37). -/
def mxValue (code scale enc : Nat) : Fnum :=
  if scale = 0xFF then .nan else (decodeElem code enc).shift ((scale : Int) - 127)

/-- floor(log2) of a finite non-zero value. -/
def Fnum.log2 (x : Fnum) : Int :=
  match x with
  | .fin _ m e => e + (m.log2 : Int)
  | _ => 0

/-- The largest magnitude among finite values. -/
def amax (xs : List Fnum) : Fnum :=
  xs.foldl (fun a x => if x.isFin && a.lt x.abs then x.abs else a) .zero

/-- An MX block encoded: the scale byte and the elements' conversions (R38, R39); `rnd i` is the rounding of element i. -/
def mxEncode (code : Nat) (xs : List Fnum) (rnd : Nat → Rnd) : Nat × List Conv :=
  let emax : Int := if code = 6 then 8 else if code = 8 then 4 else 2
  if code != 6 && xs.any Fnum.isNan then
    (0xFF, xs.map (fun x => { enc := 0, nf := !x.isFin }))
  else
    let a := amax xs
    let ex : Int := if a.isZero then -127 else max (-127) (min 127 (a.log2 - emax))
    ((ex + 127).toNat, xs.zipIdx.map (fun e =>
      match ffmt code with
      | some f =>
        match e.1 with
        | .inf neg => { enc := f.pack neg f.largest.1 f.largest.2, ovf := true, nf := true }
        | x => f.convert (x.shift (-ex)) (rnd e.2)
      | none => { enc := 0 }))

/-! ### Stochastic rounding (R55) -/

/-- mix64 of R55. -/
def mix64 (z0 : Nat) : Nat :=
  let w := 2 ^ 64
  let z1 := ((z0 ^^^ (z0 >>> 30)) * 0xBF58476D1CE4E5B9) % w
  let z2 := ((z1 ^^^ (z1 >>> 27)) * 0x94D049BB133111EB) % w
  z2 ^^^ (z2 >>> 31)

/-- The random number of an element (R55). -/
def srRandom (job tensor bell index : Nat) : Nat :=
  let seed := mix64 (mix64 ((job % 2 ^ 32) <<< 32 ||| (tensor % 2 ^ 32)) ^^^ (bell % 2 ^ 64))
  mix64 ((seed + index % 2 ^ 48) % 2 ^ 64) >>> 48

/-! ### Reduced sums and step maxima (R42, R60) -/

/-- `n` / `d` × 2^`e` with `k` more bits than the quotient's and a sticky last bit, so that one later rounding is exact. -/
def quotient (neg : Bool) (n d : Nat) (e : Int) : Fnum :=
  let k := 80 + d.log2
  let q := (n <<< k) / d
  .fin neg (2 * q + (if (n <<< k) % d = 0 then 0 else 1)) (e - k - 1)

/-- A reduced sum of `n` contributions under exponent `e`, before its one rounding (R42). -/
def reducedValue (sum : Int) (n : Nat) (e : Int) : Fnum :=
  if sum = 0 then .zero else quotient (decide (sum < 0)) sum.natAbs (max n 1) e

/-- The smallest M such that the magnitude is below 2^M, clamped (R60); none for zero and non-finite values. -/
def stepMax (x : Fnum) : Option Int :=
  match x with
  | .fin _ m e => if m = 0 then none else some (max (-150) (min 128 (e + (m.log2 : Int) + 1)))
  | _ => none

/-- The larger of two step maxima. -/
def maxOpt (a b : Option Int) : Option Int :=
  match a, b with
  | none, y => y
  | x, none => x
  | some x, some y => some (max x y)

/-! ### FRC blocks (R43 to R45) -/

/-- Bits per value at a rate (Table 2.3). -/
def frcBits (rate : Nat) : Nat := 8 / 2 ^ rate

/-- A block of 256 values encoded at a rate: Q and the payload, or none where R45 refuses it. `sq` says that the source is SQ32. -/
def frcEncode (rate : Nat) (sq : Bool) (xs : List Fnum) : Option (Int × List Byte) :=
  if xs.all Fnum.isFin then
    let b := frcBits rate
    let a := amax xs
    let e : Int := a.log2 + 1
    let q : Int :=
      if a.isZero then 0
      else max (-128) (min 127 (if sq then max 0 (e - b + 1) else e - b + 1))
    let lim := 2 ^ (b - 1) - 1
    let v (x : Fnum) : Nat :=
      match x with
      | .fin neg m f =>
        let n := min lim (roundInt m (f - q) .rne)
        unsigned b (if neg then -(n : Int) else n)
      | _ => 0
    some (q, leBytes (32 * b) (xs.zipIdx.foldl (fun acc e => acc + (v e.1) <<< (b * e.2)) 0))
  else none

/-- The 256 values of a payload, in units of the source format (R44). -/
def frcDecode (rate : Nat) (q : Int) (payload : List Byte) : List Fnum :=
  let b := frcBits rate
  let n := leNat payload
  (List.range 256).map (fun i => .scaled (signed b (n >>> (b * i))) q)

/-- The FRC tag (Table 6.7). -/
def frcTag (rate fmt : Nat) (q : Int) : Nat := rate <<< 14 + fmt <<< 10 + unsigned 8 q

/-! ### Per-tensor scales (R58 to R66) -/

/-- A scale table entry (Table 2.6). -/
structure ScaleEntry where
  tensor : Nat
  exp : Int
  fmt : Nat
  margin : Nat
  len : Nat
  auto : Bool
  deriving DecidableEq, Repr

/-- Entry `i` of the scale table of a half; the low word lies at the lower offset (R11). -/
def scaleEntry (h : Half) (i : Nat) : ScaleEntry :=
  let lo := setting h (0xC000 + 8 * i)
  { tensor := setting h (0xC004 + 8 * i), exp := signed 8 (bits lo 31 24), fmt := bits lo 23 20, margin := bits lo 19 16,
    len := bits lo 15 10 + 1, auto := bit lo 9 }

/-- An entry that is in use: its FMT is E4M3, E5M2, FP16, INT8 or SQ32 (R65). -/
def scaleUsed (e : ScaleEntry) : Bool := [4, 5, 3, 0xA, 0xB].contains e.fmt

/-- T of R59. -/
def scaleT (fmt : Nat) : Int := if fmt = 4 then 8 else if fmt = 0xA then 6 else if fmt = 0xB then 30 else 15

/-- The scale exponent of entry `i` of a half, 0 where the entry is not used (R58, R65). -/
def scaleExp (h : Half) (i : Nat) : Int := if scaleUsed (scaleEntry h i) then (scaleEntry h i).exp else 0

end Sys2Proof.Machine
end

