-- ==== Sys2Proof/Machine/Send.lean ====
section
/-! DEFINITION. Stages and their members (R293 to R296), routing across the torus (R370 to R374), and putting packets into the fabric
(R372, R384, R519). -/

namespace Sys2Proof.Machine

/-! ### Stages -/

/-- A stage map entry (Table 10.1). -/
structure Stage where
  raw : Nat
  valid : Bool
  policy : Nat
  t : Nat
  lo : Coord
  hi : Coord
  recs : Nat
  table : Nat
  deriving DecidableEq, Repr

/-- The 512-bit value of the stage map entry `i` of a half. -/
def stageRaw (h : Half) (i : Nat) : Nat :=
  (List.range 16).foldl (fun a w => a + setting h (0x4000 + 64 * i + 4 * w) <<< (32 * w)) 0

/-- The stage map entry `i` of a half (R293). -/
def stageEntry (h : Half) (i : Nat) : Stage :=
  let r := stageRaw h i
  { raw := r, valid := bit r 488, policy := bits r 487 486, t := 2 ^ bits r 485 484,
    lo := coordOf (bits r 479 456), hi := coordOf (bits r 455 432), recs := bits r 383 368, table := bits r 367 304 }

/-- The module count of a stage's box. -/
def stageVolume (e : Stage) : Nat := (e.hi.x + 1 - e.lo.x) * (e.hi.y + 1 - e.lo.y) * (e.hi.z + 1 - e.lo.z)

/-- An entry with VALID = 1 breaks a condition of R294. -/
def stageBad (e : Stage) : Bool :=
  e.policy == 3 || decide (e.hi.x < e.lo.x) || decide (e.hi.y < e.lo.y) || decide (e.hi.z < e.lo.z) ||
  e.table % 64 != 0 || stageVolume e % e.t != 0 || bits e.raw 483 480 != 0 || bits e.raw 303 256 != 0

/-- The entry is used (R294). -/
def stageUsed (e : Stage) : Bool := e.valid && !stageBad e

/-- The module at `c` lies in the stage's box (R295). -/
def inBox (e : Stage) (c : Coord) : Bool :=
  decide (e.lo.x ≤ c.x) && decide (c.x ≤ e.hi.x) && decide (e.lo.y ≤ c.y) && decide (c.y ≤ e.hi.y) &&
  decide (e.lo.z ≤ c.z) && decide (c.z ≤ e.hi.z)

/-- The stages whose boxes hold the module, in ascending number (R295). -/
def stagesOf (h : Half) (c : Coord) : List Nat :=
  (List.range 256).filter (fun i => stageUsed (stageEntry h i) && inBox (stageEntry h i) c)

/-- The stage of the module at `c`, with its number (R295). -/
def stageOf (h : Half) (c : Coord) : Option (Nat × Stage) := (stagesOf h c).head?.map (fun i => (i, stageEntry h i))

/-- The rank of a module in its stage's box (R296). -/
def rankOf (e : Stage) (c : Coord) : Nat :=
  let x := e.hi.x + 1 - e.lo.x
  let y := e.hi.y + 1 - e.lo.y
  (c.x - e.lo.x) + x * (c.y - e.lo.y) + x * y * (c.z - e.lo.z)

/-- The module of rank `r` in a stage's box (R296). -/
def ofRank (e : Stage) (r : Nat) : Coord :=
  let x := e.hi.x + 1 - e.lo.x
  let y := e.hi.y + 1 - e.lo.y
  ⟨e.lo.x + r % x, e.lo.y + r / x % y, e.lo.z + r / (x * y)⟩

/-- A module's place in its data-parallel group (R296): stage, TP index, DP index, group size and group number. -/
structure Place296 where
  stage : Nat
  entry : Stage
  tp : Nat
  dp : Nat
  d : Nat
  deriving DecidableEq, Repr

/-- The place of the module at `c` under a half's stage map (R295, R296). -/
def placeAt (h : Half) (c : Coord) : Option Place296 :=
  (stageOf h c).map (fun e =>
    { stage := e.1, entry := e.2, tp := rankOf e.2 c % e.2.t, dp := rankOf e.2 c / e.2.t, d := stageVolume e.2 / e.2.t })

/-- The group number of a place (R296). -/
def Place296.group (p : Place296) : Nat := 8 * p.stage + p.tp

/-- The member of the same group with DP index `d` (R296). -/
def Place296.member (p : Place296) (d : Nat) : Coord := ofRank p.entry (d * p.entry.t + p.tp)

/-- The word of a half that holds FAB_ID as it stood at the swap that made the half active, by which membership is judged (R583). -/
def halfFabId : Nat := 0x20000

/-- The coordinates by which a half judges membership (R583). -/
def memberXyz (h : Half) : Coord := coordOf (setting h halfFabId)

/-- This module's place under a half (R295, R583). -/
def ownPlaceIn (h : Half) : Option Place296 := placeAt h (memberXyz h)

/-- Every module that belongs to a stage, in order of stage and rank (R519). -/
def stagedModules (h : Half) : List Coord :=
  (List.range 256).flatMap (fun i =>
    let e := stageEntry h i
    if stageUsed e then
      ((List.range (stageVolume e)).map (ofRank e)).filter (fun c => (stagesOf h c).head? == some i)
    else [])

/-! ### Routing -/

/-- The virtual channel of a transport type (Table 12.6); none for a reserved type. -/
def vcOf (t : Nat) : Option Nat :=
  if 1 ≤ t ∧ t ≤ 5 then some 0
  else if t = 0x10 ∨ t = 0x11 then some 1
  else if t = 0x20 then some 2
  else if 0x30 ≤ t ∧ t ≤ 0x33 then some 3
  else none

/-- The size of dimension 0 x, 1 y or 2 z (Table 12.10). -/
def torusSize (s : State) (d : Nat) : Nat := bits (rd s (fabReg fabTorusSize)) (8 * d + 7) (8 * d) + 1

/-- A coordinate by dimension. -/
def coordDim (c : Coord) (d : Nat) : Nat := if d = 0 then c.x else if d = 1 then c.y else c.z

/-- The coordinates lie within TORUS_SIZE. -/
def inTorus (s : State) (c : Coord) : Bool :=
  decide (c.x < torusSize s 0) && decide (c.y < torusSize s 1) && decide (c.z < torusSize s 2)

/-- The direction of the next hop from `a` to `b` (R370): dimension and whether it is the + direction. -/
def nextHop (s : State) (a b : Coord) : Option (Nat × Bool) :=
  ([0, 1, 2].find? (fun d => coordDim a d != coordDim b d)).map (fun d =>
    let n := torusSize s d
    let k := (coordDim b d + n - coordDim a d % n) % n
    (d, decide (2 * k ≤ n)))

/-- The DIR code of a direction (Table 12.9). -/
def dirCode (d : Nat) (plus : Bool) : Nat := 2 * d + (if plus then 1 else 2)

/-- The port's mode is Mopin (R347). -/
def isMopin (s : State) (p : Nat) : Bool := fld s (portReg p portPortCtrl) 29 28 == 0

/-- Port `p`'s working state. -/
def portAt (s : State) (p : Nat) : Port := s.ports.getD p {}

/-- Port `p` changed. -/
def modPort (s : State) (p : Nat) (f : Port → Port) : State := { s with ports := modAt s.ports p f }

/-- PORT_STATUS.STATE (Table 12.2). -/
def portState (s : State) (p : Nat) : Nat := fld s (portReg p portPortStatus) 31 28

/-- A flit may be taken or sent: Mopin mode and ACTIVE. -/
def flowing (s : State) (p : Nat) : Bool := isMopin s p && portState s p == 5

/-- Two packets belong to one flow. -/
def sameFlow (x y : TxPkt) : Bool := x.pkt.src == y.pkt.src && x.pkt.dst == y.pkt.dst && x.vc == y.vc

/-- An earlier packet of the flow waits at any port, or is unacknowledged by another one (R385). -/
def flowHeld (s : State) (p : Nat) (t : TxPkt) : Bool :=
  (List.range 8).any (fun q =>
    (portAt s q).txq.any (fun u => sameFlow u t && decide (u.ord < t.ord)) ||
    (q != p && (portAt s q).retry.any (fun e => sameFlow e.2 t && decide (e.2.ord < t.ord))))

/-- A credit is held for a packet's buffer class. -/
def hasCredit (q : Port) (t : TxPkt) : Bool := q.credits.getD (2 * t.vc + t.cls) 0 != 0

/-- A packet that may otherwise leave waits at the port for a credit (Table 12.9). -/
def creditWaits (s : State) (p : Nat) : Bool := flowing s p && (portAt s p).txq.any (fun t => !hasCredit (portAt s p) t && !flowHeld s p t)

/-- `k` clocks pass: each port where a packet waits for a credit counts them (Table 12.9, CREDIT_STALL). -/
def stallClocks (s : State) (k : Nat) : State :=
  (List.range 8).foldl (fun s p => if creditWaits s p then countBy s (portReg p portCreditStall) k else s) s

/-- The ports in service that serve a hop (R371). -/
def candidates (s : State) (d : Nat) (plus : Bool) : List Nat :=
  (List.range 8).filter (fun p =>
    (portAt s p).inService && isMopin s p &&
    (let dir := fld s (portReg p portPortCtrl) 27 25
     dir == dirCode d plus || (torusSize s d == 2 && dir == dirCode d (!plus))))

/-- Where a packet goes next. -/
inductive Route where
  | here
  | port (p cls : Nat)
  | none_ (status : Nat)
  deriving DecidableEq, Repr

/-- The route of a packet at this module; `inPort` and `inCls` are the port and class it came in by, none for the module's own (R370 to
R374). The hop that crosses a dateline is already in class 1 (log entry 20). -/
def routeOf (s : State) (pkt : Packet) (inPort : Option Nat) (inCls : Nat) : Route :=
  let own := ownXyz s
  if pkt.dst = own then .here
  else if !inTorus s pkt.dst then .none_ 0x0E
  else
    match nextHop s own pkt.dst with
    | none => .here
    | some (d, plus) =>
      let c := candidates s d plus
      if c.isEmpty then .none_ 0x0D
      else
        let n := torusSize s d
        let a := coordDim own d
        let b := if plus then (a + 1) % n else (a + n - 1) % n
        let crosses := (a == 0 && b + 1 == n) || (b == 0 && a + 1 == n)
        let kept := match inPort with
          | some q => decide ((fld s (portReg q portPortCtrl) 27 25 + 1) / 2 = d + 1) && inCls == 1
          | none => false
        let i := (pkt.src.x + pkt.src.y + pkt.src.z + pkt.dst.x + pkt.dst.y + pkt.dst.z) % c.length
        .port (c.getD i 0) (b2n (crosses || kept))

/-- A request that expects a response: the response's transport type (R372). -/
def responseType (p : Packet) : Option Nat :=
  if p.ttype = 2 then some 0x10
  else if vcOf p.ttype = some 0 ∧ p.ackReq ∧ p.last then some 0x11
  else none

/-- A packet without data. -/
def barePacket (t : Nat) (dst src : Coord) (tag status : Nat) : Packet :=
  { ttype := t, first := true, last := true, ackReq := false, status := status, dst := dst, src := src, tag := tag, addr := 0,
    data := [], poison := 0 }

/-- A packet delivered to this module: it waits to be acted on, and holds the send credit of `core` until then (R384). -/
def deliver (s : State) (pkt : Packet) (port : Option Nat) (cls : Nat) (core : Option Nat) : State :=
  { s with inbox := s.inbox ++ [{ pkt := pkt, port := port, cls := cls, at_ := s.now, core := core }] }

/-- A packet queued for port `p` (R369). -/
def enqueue (s : State) (p cls input : Nat) (core : Option Nat) (pkt : Packet) : State :=
  let s := modPort s p (fun q => { q with
    txq := q.txq ++ [{ pkt := pkt, vc := (vcOf pkt.ttype).getD 0, cls := cls, input := input, inCls := 0, core := core, ord := s.routed }] })
  { s with routed := s.routed + 1 }

/-- A packet of this module put on its way without asking for a send credit: delivered here, queued, or dropped with the response
of R372 delivered here. -/
def launch (s : State) (core : Option Nat) (pkt : Packet) : State :=
  match routeOf s pkt none 0 with
  | .here => deliver s pkt none 0 core
  | .port p cls => enqueue s p cls 8 core pkt
  | .none_ st =>
    let s := count s (fabReg fabUnroutable)
    match responseType pkt with
    | some t => deliver s (barePacket t pkt.src (ownXyz s) pkt.tag st) none 0 none
    | none => s

/-- Send credits of a core by VC. -/
def creditOf (s : State) (c vc : Nat) : Nat := (coreAt s c).credits.getD vc 0

/-- A packet injected by a core: it spends a credit, which one that R372 drops gives back at once, or waits in the core's send queue
(R384); `bell` is that of step work. -/
def inject (s : State) (c : Nat) (bell : Option Nat) (pkt : Packet) : State :=
  let vc := (vcOf pkt.ttype).getD 0
  if (coreAt s c).sendQ.any (fun q => vcOf q.2.ttype == some vc) || creditOf s c vc == 0 then
    modCore s c (fun k => { k with sendQ := k.sendQ ++ [(bell, pkt)] })
  else
    match routeOf s pkt none 0 with
    | .none_ _ => launch s none pkt
    | _ => launch (modCore s c (fun k => { k with credits := modAt k.credits vc (· - 1) })) (some c) pkt

/-- This module's case of bell `n` still waits for acknowledgements, so its packets of that bell are held back (R519). -/
def sendsHeld (s : State) (n : Nat) : Bool := s.integrity.cases.any (fun c => c.bell == n && !c.acks.isEmpty)

/-- A packet of step work or of an instance of bell `n` sent, or held back under R519. -/
def sendStep (s : State) (n : Nat) (core : Option Nat) (pkt : Packet) : State :=
  if sendsHeld s n then { s with withheld := s.withheld ++ [(n, core, pkt)] }
  else match core with
    | some c => inject s c (some n) pkt
    | none => launch s none pkt

/-- The core's queued packets that may now leave, in order (R384); those of a bell whose sends are held back are held back too (R519). -/
def drainSendQ (s : State) (c : Nat) : State :=
  let q := (coreAt s c).sendQ
  q.foldl (fun s e => match e.1 with
    | some n => sendStep s n (some c) e.2
    | none => inject s c none e.2) (modCore s c (fun k => { k with sendQ := [] }))

/-- A send credit returned to a core (R384). -/
def returnCredit (s : State) (c vc : Nat) : State :=
  drainSendQ (modCore s c (fun k => { k with credits := modAt k.credits vc (· + 1) })) c

/-- The packets held back for bell `n` sent in order (R519). -/
def releaseHeld (s : State) (n : Nat) : State :=
  let mine := s.withheld.filter (fun w => w.1 == n)
  mine.foldl (fun s w => match w.2.1 with
    | some c => inject s c (some n) w.2.2
    | none => launch s none w.2.2) { s with withheld := s.withheld.filter (fun w => w.1 != n) }

/-- A single-packet message of `data` of type `t` to `dst`. -/
def message (s : State) (t : Nat) (dst : Coord) (addr : Nat) (data : List Byte) : Packet :=
  { ttype := t, first := true, last := true, ackReq := false, status := 0, dst := dst, src := ownXyz s, tag := 0, addr := addr,
    data := data, poison := 0 }

/-- The packets of a message of `data` in pieces of at most 224 bytes (R376, R382). -/
def messagePackets (s : State) (t : Nat) (dst : Coord) (addr tag : Nat) (data : List Byte) (ack : Bool) : List Packet :=
  let ps := chunks 224 (data.length / 224 + 1) data
  let ps := if ps.isEmpty then [[]] else ps
  ps.zipIdx.map (fun e =>
    { ttype := t, first := e.2 == 0, last := e.2 + 1 == ps.length, ackReq := ack && e.2 + 1 == ps.length, status := 0, dst := dst,
      src := ownXyz s, tag := tag, addr := addr + 224 * e.2, data := e.1, poison := 0 })

/-- A response with this tag could still come: a request is outstanding, or has timed out (R380). -/
def tagBusy (s : State) (read : Bool) (tag : Nat) : Bool :=
  s.requests.any (fun q => q.read == read && q.tag == tag) || s.expired.contains (read, tag)

/-- A message tag that no response still to come carries, and the state that has taken it. -/
def takeTag (s : State) : Nat × State :=
  let i := (firstIdx (s.requests.length + s.expired.length + 1) (fun i => !tagBusy s false ((s.nextTag + i) % 65536))).getD 0
  ((s.nextTag + i) % 65536, { s with nextTag := (s.nextTag + i + 1) % 65536 })

/-- A tag for a READ_REQ of `len` bytes: its low byte is the least one that no response still to come carries (R380, R382); none where each
of the 256 has one to come. -/
def readTag (s : State) (len : Nat) : Option Nat :=
  (firstIdx 256 (fun i => !tagBusy s true (256 * (len - 1) + i))).map (· + 256 * (len - 1))

/-- SOURCE of the port that a packet came in by, 0 for the module's own (Table 18.3). -/
def portSource (p : Option Nat) : Nat := match p with | some p => 0x3000 + p | none => 0

/-- The first waiting packet of transport type `t` that satisfies `p`. -/
def firstOf (s : State) (t : Nat) (p : Packet → Bool) : Option InPkt :=
  s.inbox.find? (fun i => i.pkt.ttype == t && p i.pkt)

/-- A waiting packet taken out of the module: its buffer's credit is owed to the port it came in by (R367), or its send credit returns
to the core of this module that sent it (R384). -/
def consume (s : State) (i : InPkt) : State :=
  let s := { s with inbox := s.inbox.erase i }
  let s := match i.core with
    | some c => returnCredit s c ((vcOf i.pkt.ttype).getD 0)
    | none => s
  match i.port with
  | some p => modPort s p (fun q => { q with owed := modAt q.owed (2 * ((vcOf i.pkt.ttype).getD 0) + i.cls) (· + 1) })
  | none => s

end Sys2Proof.Machine
end

