-- ==== Sys2Proof/Machine/Queue.lean ====
section
/-! DEFINITION. Rings and descriptors in flight: states, halts, ends, the parts of a RUN, step report events, and the issue of instructions from
stream slots (R225 to R246, R287 to R290, R319). -/

namespace Sys2Proof.Machine

/-! ### Rings -/

/-- Ring `r`'s working state. -/
def ringAt (s : State) (r : Nat) : Ring := s.rings.getD r {}

/-- Ring `r` changed. -/
def modRing (s : State) (r : Nat) (f : Ring → Ring) : State := { s with rings := modAt s.rings r f }

/-- STATE.STATE of a ring set. -/
def setRingState (s : State) (r v : Nat) : State := setFld s (ringReg r ringState) 1 0 v

/-- CTRL.ENABLE of a ring. -/
def ringEnabled (s : State) (r : Nat) : Bool := flag s (ringReg r ringCtrl) 31

/-- CTRL.CLASS of a ring (Table 8.3). -/
def ringClass (s : State) (r : Nat) : Nat := fld s (ringReg r ringCtrl) 27 26

/-- CTRL.JOB_TAG of a ring. -/
def ringJob (s : State) (r : Nat) : Nat := fld s (ringReg r ringCtrl) 23 16

/-- Some program, issued instruction or DMA channel works under a key that satisfies `q`; a halted program where `halted` says so. -/
def worksFor (s : State) (q : DescKey → Bool) (halted : Bool) : Bool :=
  s.cores.any (fun k =>
    [k.mx, k.vx, k.rx, k.mv].any (fun st => (st.step.toList ++ st.side.toList).any (fun p => q p.key && (halted || !p.halted))) ||
    (k.loading.toList ++ k.pass.toList ++ k.drain).any (fun o => q o.key) || (k.vxOps ++ k.rxOps).any (fun o => q o.key) ||
    k.mvOps.any (fun o => q o.key)) ||
  s.channels.any (fun k => k.src.any q)

/-- A descriptor that ring `r` has started, or one replayed on it before it was disabled, is still running (R221, R245). -/
def ringWorks (s : State) (r : Nat) : Bool :=
  let replayed (serial : Nat) : Bool := decide (serial < (ringAt s r).drain)
  (ringAt s r).inflight.any (fun d => d.progress != .ended) || s.replays.any (fun p => p.inflight.any (fun d => replayed d.serial)) ||
  worksFor s (fun k => match k.src with | .ring q => q == r | .step => replayed k.serial | .replay => false) false

/-- STATE.STATE of a ring: 0 DISABLED, 1 RUNNING, 2 HALTED, 3 DRAINING (Table 8.15). DRAINING gives way to DISABLED when the last descriptor
has ended (R221). -/
def stateOfRing (s : State) (r : Nat) : Nat :=
  let v := fld s (ringReg r ringState) 1 0
  if v = 3 ∧ ringWorks s r = false then 0 else v

/-- Slots of a ring, 2^K. -/
def ringSlots (s : State) (r : Nat) : Nat := 2 ^ fld s (ringReg r ringCtrl) 4 0

/-- PTR.SQ_HEAD: the next submission slot to start. -/
def sqHead (s : State) (r : Nat) : Nat := fld s (ringReg r ringPtr) 31 16

/-- PTR.SQ_TAIL: the slot after the last one posted. -/
def sqTail (s : State) (r : Nat) : Nat := fld s (ringReg r ringPtr) 15 0

/-- CPTR.CQ_TAIL: the next completion slot. -/
def cqTail (s : State) (r : Nat) : Nat := fld s (ringReg r ringCptr) 31 16

/-- CPTR.CQ_HEAD: the last slot consumed. -/
def cqHead (s : State) (r : Nat) : Nat := fld s (ringReg r ringCptr) 15 0

/-- The enabled ring of the step class (R220). -/
def stepRing (s : State) : Option Nat := firstIdx 64 (fun r => ringEnabled s r && ringClass s r == 1)

/-- The job tag of step work. -/
def stepJob (s : State) : Nat := match stepRing s with | some r => ringJob s r | none => 0

/-! ### Descriptors in flight -/

/-- The descriptors in flight of a key's queue. -/
def inflightOf (s : State) (k : DescKey) : List Desc :=
  match k.src with
  | .ring r => (ringAt s r).inflight
  | .step => match s.replays.find? (fun p => p.bell == k.bell) with | some p => p.inflight | none => []
  | .replay => match s.witness with | some p => p.inflight | none => []

/-- The descriptors in flight of a key's queue changed. -/
def modInflight (s : State) (k : DescKey) (f : List Desc → List Desc) : State :=
  match k.src with
  | .ring r => modRing s r (fun q => { q with inflight := f q.inflight })
  | .step => { s with replays := modWhere s.replays (fun p => p.bell == k.bell) (fun p => { p with inflight := f p.inflight }) }
  | .replay => { s with witness := s.witness.map (fun p => { p with inflight := f p.inflight }) }

/-- The key of a descriptor of a queue. -/
def Desc.key (d : Desc) (src : DescSource) (bell : Nat) : DescKey := ⟨src, bell, d.index, d.serial⟩

/-- The descriptor is the one a key names. -/
def Desc.has (d : Desc) (k : DescKey) : Bool := d.index == k.index && d.serial == k.serial

/-- The descriptor of a key, while in flight. -/
def descOf (s : State) (k : DescKey) : Option Desc := (inflightOf s k).find? (fun d => d.has k)

/-- The descriptor of a key changed. -/
def modDesc (s : State) (k : DescKey) (f : Desc → Desc) : State :=
  modInflight s k (fun ds => modWhere ds (fun d => d.has k) f)

/-- The local bell a key's work belongs to as step work; none for other work (R277). -/
def stepBellOf (k : DescKey) : Option Nat := match k.src with | .step => some k.bell | _ => none

/-- This module's place under the settings of bell `n`. -/
def ownPlaceAt (s : State) (n : Nat) : Option Place296 := ownPlaceIn (settingsOf s n)

/-! ### The step report (R248 to R253) -/

/-- A report of bell `n` that has gathered nothing. -/
def emptyReport (n : Nat) : Report :=
  { bell := n, overrun := false, skipped := false, suspect := false, swapLate := false, undone := false, nfOrigin := 0xFFFFFFFF,
    skippedMb := 0, stashLayer := 0xFFFF, barnStalls := 0, descFailed := 0, events := [], closed := false }

/-- The open report of bell `n`, empty where none is. -/
def reportOf (s : State) (n : Nat) : Report := (s.reports.find? (fun r => r.bell == n && !r.closed)).getD (emptyReport n)

/-- The bell whose report takes what happens for bell `n`: its own while open, the present bell's afterwards (R253). -/
def reportBell (s : State) (n : Nat) : Nat := if s.reports.any (fun r => r.bell == n && !r.closed) then n else bellNum s

/-- The report that takes what happens for bell `n` changed, begun where there is none. -/
def modReport (s : State) (n : Nat) (f : Report → Report) : State :=
  let m := reportBell s n
  { s with reports := s.reports.filter (fun r => r.bell != m || r.closed) ++ [f (reportOf s m)] }

/-- An event added to the report of bell `n` (Table 8.13). -/
def reportEvent (s : State) (n kind status arg0 arg1 : Nat) : State :=
  modReport s n (fun r => { r with events := r.events ++ [⟨kind, status, arg0, arg1⟩] })

/-! ### Replays (R245, R246, R277 to R279) -/

/-- A replay starts nothing more. -/
def Replay.allStarted (p : Replay) : Bool := p.stopped || (decide (p.count ≤ p.next) && p.subst.isEmpty)

/-- Every descriptor of a replay that starts has ended. -/
def Replay.finished (p : Replay) : Bool := p.allStarted && p.inflight.isEmpty

/-- The step work of a replay has ended: its descriptors and every instruction they started, a halted program's too (R277, R287). -/
def stepDone (s : State) (p : Replay) : Bool :=
  p.finished && !worksFor s (fun k => k.src == .step && k.bell == p.bell) true

/-- Step work of bell `n` is unfinished (R277, R278). -/
def bellUnfinished (s : State) (n : Nat) : Bool := s.replays.any (fun p => p.bell == n && !stepDone s p)

/-- The replay of bell `n`. -/
def replayOf (s : State) (n : Nat) : Option Replay := s.replays.find? (fun p => p.bell == n)

/-- The replay of bell `n` changed. -/
def modReplay (s : State) (n : Nat) (f : Replay → Replay) : State :=
  { s with replays := modWhere s.replays (fun p => p.bell == n) f }

/-- Bells before the present one with unfinished step work. -/
def behindOf (s : State) : Nat := (s.replays.filter (fun p => !stepDone s p && decide (p.bell < bellNum s))).length

/-- BELL_STATUS.OVERRUN and BEHIND brought up to date (R279). -/
def showBehind (s : State) : State :=
  let n := behindOf s
  setFld (setFlag s (bellReg bellBellStatus) 26 (n != 0)) (bellReg bellBellStatus) 2 0 (min 4 n)

/-- Replays whose step work has just ended marked so; overrun work's end enters the report (R253, R279). -/
def settleReplays (s : State) : State :=
  let done := s.replays.filter (fun p => stepDone s p && !p.ended)
  let s := { s with replays := modWhere s.replays (stepDone s) (fun p => { p with ended := true }) }
  let s := done.foldl (fun s p => if p.overran then reportEvent s (bellNum s) 7 0 0 p.bell else s) s
  showBehind s

/-- Every replay of the step ring starts nothing more (R217, R221). -/
def stopReplays (s : State) : State :=
  settleReplays { s with replays := s.replays.map (fun p => { p with stopped := true }) }

/-- The index in the program of a replayed descriptor or of what was put in its place (R312). -/
def DescKey.place (k : DescKey) : Nat := k.index % 2048

/-! ### Halting a ring -/

/-- The ring's message sent, its pending count cleared (R255). -/
def sendRingMessage (s : State) (r : Nat) : State :=
  sendVector (modRing s r (fun q => { q with pendingIrq := 0 })) (fld s (ringReg r ringIntr) 30 23)

/-- A running ring enters HALTED with a status and a slot: recorded, flagged and announced at once (R238, R256, Table 18.5). The descriptors
of a replay that have not started stay, as posted ones do (R240, R245). -/
def haltRing (s : State) (r status index : Nat) : State :=
  if stateOfRing s r = 1 then
    let s := wr (setRingState s r 2) (ringReg r ringHalt) (status <<< 24 + index)
    let s := raiseFlag s 0 (ringReg r ringEvent) 31
    let s := submitEvent s 0x6001 (0x6000 + r) status (leBytes 2 index)
    sendRingMessage s r
  else s

/-! ### The end of a descriptor -/

/-- The ring of `k` where it is one. -/
def ringOf (k : DescKey) : Option Nat := match k.src with | .ring r => some r | _ => none

/-- The pool records that a replayed descriptor fills or releases change as it completes (R310, R311). -/
def poolDone (s : State) (d : Desc) (p : Replay) : Replay :=
  d.pool.foldl (fun p e =>
    { p with records := modAt p.records e.1 (fun r =>
        if e.2 then
          let keep := match (ownPlaceAt s p.bell).map (·.entry) with
            | some e => bit e.raw (r.layer - bits e.raw 511 496)
            | none => false
          { r with state := if keep then .live else .evicted }
        else { r with state := .released }) }) p

/-- A descriptor in flight ends with a status (R221, R238, R246): a replayed one leaves its queue and enters the report; a ring's
waits for its completion to be written, and halts the ring where it is neither OK nor OK_LATE. -/
def endDesc (s : State) (k : DescKey) (status detail partMap : Nat) : State :=
  match k.src with
  | .ring r =>
    if !(descOf s k).isSome then s
    else if !ringEnabled s r then
      modInflight s k (fun ds => ds.filter (fun d => !d.has k))
    else
      let n := bellNum s
      let s := modDesc s k (fun d =>
        if d.progress = .ended then d
        else { d with progress := .ended, status := status, detail := detail, partMap := partMap, bell := n })
      if 2 ≤ status then haltRing s r status k.index else s
  | .step =>
    match descOf s k with
    | none => s
    | some d =>
      let s := modInflight s k (fun ds => ds.filter (fun d => !d.has k))
      let s := modReplay s k.bell (poolDone s d)
      let s :=
        if status = 0 then s
        else
          let s := modReplay s k.bell (fun p => { p with stopped := true, failed := p.failed + 1 })
          let s := modReport s k.bell (fun r => { r with descFailed := r.descFailed + 1 })
          reportEvent s k.bell 1 status k.place partMap
      settleReplays s
  | .replay =>
    match descOf s k with
    | none => s
    | some d =>
      let s := modInflight s k (fun ds => ds.filter (fun d => !d.has k))
      let s := { s with witness := s.witness.map (poolDone s d) }
      if status = 0 then s
      else { s with witness := s.witness.map (fun p => { p with stopped := true, failed := p.failed + 1 }) }

/-! ### Parts of a RUN (R227 to R230) -/

/-- One issued instruction of a program on core `c` has completed (R227); it may be the last step work of its bell (R277). -/
def instrDone (s : State) (k : DescKey) (c : Nat) : State :=
  let s := modDesc s k (fun d => { d with parts := modWhere d.parts (fun p => p.core == c) (fun p => { p with left := p.left - 1 }) })
  if (stepBellOf k).isSome then settleReplays s else s

/-- Every program that descriptor `k` started on a stream halted (R229). -/
def haltStream (k : DescKey) (st : Stream) : Stream :=
  let h (p : Prog) : Prog := if p.key = k then { p with halted := true } else p
  { st with step := st.step.map h, side := st.side.map h }

/-- The part of core `c` of a RUN fails with a status, unless it has failed or ended; its other streams on the core halt (R229). -/
def failPart (s : State) (k : DescKey) (c status : Nat) : State :=
  let s := modDesc s k (fun d => { d with
    parts := modWhere d.parts (fun p => p.core == c && !p.ended && p.status == 0) (fun p => { p with status := status }) })
  modCore s c (fun q => { q with mx := haltStream k q.mx, vx := haltStream k q.vx, rx := haltStream k q.rx, mv := haltStream k q.mv })

/-! ### Consumption (R243, R510) -/

/-- A running RUN with a failed part that has not ended: its ranges are still to be poisoned (R230). -/
def owesRanges (d : Desc) : Bool := d.op == 1 && d.progress == .running && d.parts.any (fun p => p.status != 0 && !p.ended)

/-- The older of two descriptors in flight: the one that started first. -/
def olderDesc (x : Option (DescKey × Desc)) (y : DescKey × Desc) : Option (DescKey × Desc) :=
  match x with
  | some e => if y.2.serial < e.2.serial then some y else some e
  | none => some y

/-- The oldest descriptor of ring `r` that has started and not ended; on the step ring a replayed one counts as posted on it (R243, R245). -/
def oldestOn (s : State) (r : Nat) : Option (DescKey × Desc) :=
  let own := ((ringAt s r).inflight.filter (fun d => d.progress != .ended)).map (fun d => (d.key (.ring r) 0, d))
  let replayed := if ringClass s r = 1 then s.replays.flatMap (fun p => p.inflight.map (fun d => (d.key .step p.bell, d))) else []
  (own ++ replayed).foldl olderDesc none

/-- The slot in HALT for a descriptor; a replayed one has none, and SQ_HEAD stands there (DESIGN CHOICE, log entry 50). -/
def haltIndex (s : State) (r : Nat) (k : DescKey) : Nat := match k.src with | .ring _ => k.index | _ => sqHead s r

/-- Every ring with a job tag halts under R243: its oldest descriptor that has not completed completes with POISON_CONSUMED, a RUN with failed
parts once their ranges have been poisoned, which `status` holds until then (R230). A ring that is HALTED already keeps its halt. -/
def haltJob (s : State) (job : Nat) : State :=
  (List.range 64).foldl (fun s r =>
    if ringEnabled s r && ringJob s r == job && (stateOfRing s r == 1 || stateOfRing s r == 2) then
      match oldestOn s r with
      | some (k, d) =>
        let t := if owesRanges d then modDesc s k (fun d => { d with status := 4 }) else endDesc s k 4 0 0
        haltRing t r 4 (haltIndex s r k)
      | none => haltRing s r 4 (sqHead s r)
    else s) s

/-- Poison at address `a` of origin `o` consumed by work of a job (R510): the job's rings halt, and it is counted and recorded, the unit where
the mark arose as the event's SOURCE (DESIGN CHOICE, log entry 55). -/
def consumed (s : State) (job a : Nat) (o : MarkOrigin) : State :=
  let s := count s (intReg intPoisonCons)
  let s := raiseFlag s 9 (intReg intIntEvent) 30
  let s := submitEvent s 0x5003 o.source 4 (leBytes 8 a ++ leBytes 1 job)
  haltJob s job

/-! ### Streams -/

/-- The side-street slots of a stream may issue under the stage's policy while the step slot cannot (R288, R319). -/
def sideAllowed (s : State) (st : Stream) (stepCan : Bool) : Bool :=
  match ownPlaceIn s.activeHalf with
  | some p => if p.entry.policy = 1 then !stepCan else st.step.isNone
  | none => st.step.isNone

/-- The instruction index a program issues next; none when it is halted or has issued its last. -/
def nextIndex (p : Prog) : Option Nat :=
  if p.halted || decide (p.count ≤ p.issued) then none else some (p.start + p.issued)

/-- Bytes of an instruction of a unit (Table 1.2). -/
def instrBytes : CoreUnit → Nat
  | .mx => 16
  | .vx => 32
  | .rx => 16
  | .mv => 32

/-- The instruction word at index `i` of a unit's instruction memory. -/
def fetchWord (s : State) (c : Nat) (u : CoreUnit) (i : Nat) : Nat :=
  leNat (readMem s.mem (imemAddr c u (instrBytes u * i)) (instrBytes u))

/-- The block of the instruction at index `i` is poisoned (R586). -/
def fetchPoisoned (s : State) (c : Nat) (u : CoreUnit) (i : Nat) : Bool :=
  rangePoisoned s (imemAddr c u (instrBytes u * i)) (instrBytes u)

/-- SLOT_BELL follows the oldest bell that a step slot of the core carries (R291). -/
def showSlotBell (s : State) (c : Nat) : State :=
  let k := coreAt s c
  let bells := [k.mx, k.vx, k.rx, k.mv].filterMap (fun st => st.step.map Prog.bell)
  match bells with
  | [] => s
  | b :: bs => wr64 s (coreReg c coreSlotBellLo) (bs.foldl min b)

/-- The slot's program has issued one more instruction; after the last the slot is free (R227). -/
def advance (s : State) (c : Nat) (u : CoreUnit) (sl : Slot) : State :=
  showSlotBell (modCore s c (modStream u (fun st =>
    match slotOf st sl with
    | some p => setSlot st sl (if p.issued + 1 < p.count then some { p with issued := p.issued + 1, fetched := none } else none)
    | none => st))) c

/-- The slot's program halts, and the RUN part that started it fails with a status (R75, R229, R586). -/
def haltSlot (s : State) (c : Nat) (u : CoreUnit) (sl : Slot) (status : Nat) : State :=
  match progOf s c u sl with
  | some p => failPart (modProg s c u sl (fun p => { p with halted := true, fail := status, fetched := none })) p.key c status
  | none => s

/-- Control bytes of an instruction at address `a` lie in a poisoned block: it does not issue (R586). -/
def haltPoisoned (s : State) (c : Nat) (u : CoreUnit) (sl : Slot) (a : Nat) : State :=
  match progOf s c u sl with
  | some p => consumed (haltSlot s c u sl 4) p.job a (originOf s a)
  | none => s

/-- The slot's next instruction word: the one fetched already, which later writes do not change, else what memory holds (R158). -/
def headWord (s : State) (c : Nat) (u : CoreUnit) (p : Prog) (i : Nat) : Nat := p.fetched.getD (fetchWord s c u i)

/-- The slot's next instruction word cannot be taken: it has not been fetched, and its block is poisoned (R586). -/
def headPoisoned (s : State) (c : Nat) (u : CoreUnit) (p : Prog) (i : Nat) : Bool := p.fetched.isNone && fetchPoisoned s c u i

/-- Takes the slot's next instruction: the program, its index and its word. The first look at it fetches it, after the errors that the fetch
meets, and it is held until it issues or its stream halts (R158; DESIGN CHOICE when the fetch happens, log entry 49). A poisoned fetch
halts the slot and takes none (R586). -/
def headOf (s : State) (c : Nat) (u : CoreUnit) (sl : Slot) : State × Option (Prog × Nat × Nat) :=
  match progOf s c u sl with
  | none => (s, none)
  | some p =>
    match nextIndex p with
    | none => (s, none)
    | some i =>
      match p.fetched with
      | some w => (s, some (p, i, w))
      | none =>
        let a := imemAddr c u (instrBytes u * i)
        let s := meetMem s a (instrBytes u)
        if fetchPoisoned s c u i then (haltPoisoned s c u sl a, none)
        else
          let w := fetchWord s c u i
          (modProg s c u sl (fun p => { p with fetched := some w }), some (p, i, w))

/-- The FAULT register of a unit (Tables 3.6, 5.14, 6.9). -/
def faultReg : CoreUnit → Nat
  | .mx => coreMxFault
  | .vx => coreVxFault
  | .rx => coreRxFault
  | .mv => coreMvFault

/-- Where the CAUSE field of a unit's FAULT register starts. -/
def faultShift : CoreUnit → Nat
  | .mx => 28
  | _ => 27

/-- An invalid instruction at index `i`: the stream halts without issuing it, the cause is recorded and its part fails with
DESCRIPTOR_INVALID (R75, R140, R179). Where VALID still stands from an earlier one, the newer cause and index replace it (DESIGN CHOICE,
log entry 49). -/
def haltInvalid (s : State) (c : Nat) (u : CoreUnit) (sl : Slot) (i cause : Nat) : State :=
  let s := setFld s (coreReg c (faultReg u)) 30 (faultShift u) cause
  let s := setFld s (coreReg c (faultReg u)) (if u = .vx ∨ u = .mv then 10 else 11) 0 i
  haltSlot (raiseFlag s 11 (coreReg c (faultReg u)) 31) c u sl 0x0E

/-- The signals an instruction names (R73): one added to tally `t` of core `c`, where enabled. -/
def signalIf (s : State) (en : Bool) (c t : Nat) : State := if en then signalTally s c t else s

end Sys2Proof.Machine
end

