-- ==== Sys2Proof/Machine/Device.lean ====
section
/-! DEFINITION. Reads and writes by device address for units that reach memory and the host window alike: what a read returns and whether it is
poisoned, how the host answers, and the writes with their marks (R155, R156, R171, R173, R175, R207, R215). -/

namespace Sys2Proof.Machine

/-- A range touches one of some ranges. -/
def touches (a len : Nat) (r : Nat × Nat) : Bool := decide (a ≤ r.2) && decide (r.1 < a + len)

/-- How the host fails a read of `len` bytes at host address `a` (R178, R206, R242). -/
def hostFails (v : HostView) (a len : Nat) : Option HostAnswer :=
  (v.fails.find? (fun f => touches a len (f.1, f.2.1))).map (fun f => f.2.2)

/-- The read comes back with EP = 1 (R171). -/
def hostEp (v : HostView) (a len : Nat) : Bool := v.ep.any (touches a len)

/-- What host memory returns. -/
def hostBytes (v : HostView) (a len : Nat) : List Byte :=
  (List.range len).map (fun i => ((v.cells.find? (fun c => c.1 == a + i)).map (·.2)).getD 0)

/-- A poisoned TLP received: AER's Poisoned TLP Received status (R214; PRESUMED bit 12, PCI Express, log entry 14). -/
def poisonedTlp (s : State) (ep : Bool) : State := if ep then { s with power := { s.power with aer := setBits s.power.aer 12 12 1 } } else s

/-- What a read of a device address gives: bytes, and whether any of them is poisoned. -/
structure Got where
  bytes : List Byte
  bad : Bool
  deriving DecidableEq, Repr

/-- `len` bytes read at device address `a`: memory with its marks, host memory with EP; zeros elsewhere. -/
def devRead (s : State) (v : HostView) (a len : Nat) : Got :=
  match spaceOf a with
  | .host x => ⟨hostBytes v x len, hostEp v x len⟩
  | .regs _ => ⟨List.replicate len 0, false⟩
  | .hole => ⟨List.replicate len 0, false⟩
  | _ => ⟨readMem s.mem a len, rangePoisoned s a len⟩

/-- A byte of the range comes from a poisoned block or a poisoned TLP. -/
def devBad (s : State) (v : HostView) (a len : Nat) : Bool :=
  match spaceOf a with
  | .host x => hostEp v x len
  | .regs _ => false
  | .hole => false
  | _ => rangePoisoned s a len

/-- AER takes note of the poisoned completions of some reads, by address and length (R214). -/
def noteEp (s : State) (v : HostView) (rs : List (Nat × Nat)) : State := poisonedTlp s (rs.any (fun r => inHost r.1 && devBad s v r.1 r.2))

/-- What a read of `len` bytes at a device address meets before its data is taken: errors of memory, and a poisoned completion (R166, R214). -/
def meetRead (s : State) (v : HostView) (a len : Nat) : State := meetMem (noteEp s v [(a, len)]) a len

/-- A read of a device address fails: the host cannot be asked, or answers with an error, or the address is no memory. -/
def devFails (s : State) (v : HostView) (a len : Nat) : Bool :=
  match spaceOf a with
  | .host x => !hostReachable s || (hostFails v x len).isSome || decide (2 ^ 64 < a + len)
  | .regs _ => true
  | .hole => true
  | _ => !memoryRange a len

/-- `bs` written at device address `a`: memory with the marks of R173, the host window as a posted write with EP (R175). -/
def devWrite (s : State) (a : Nat) (bs : List Byte) (bad : Bool) : State :=
  match spaceOf a with
  | .host x => if hostReachable s then emit s (.hostWrite x bs bad) else s
  | .regs _ => s
  | .hole => s
  | _ => storeRange s a bs bad

/-- Neighbouring pieces of one mark joined, so that each run leaves as one posted write. -/
def joinRuns : List (Nat × List Byte × Bool) → List (Nat × List Byte × Bool)
  | [] => []
  | r :: rest =>
    match joinRuns rest with
    | [] => [r]
    | q :: qs => if r.1 + r.2.1.length = q.1 ∧ r.2.2 = q.2.2 then (r.1, r.2.1 ++ q.2.1, r.2.2) :: qs else r :: q :: qs

/-- The pieces of one burst or packet written: those in memory as one write of each block they touch (R168, R173), those in the host
window in order. -/
def devWrites (s : State) (rs : List (Nat × List Byte × Bool)) : State :=
  (joinRuns (rs.filter (fun r => inHost r.1))).foldl (fun s r => devWrite s r.1 r.2.1 r.2.2) (putPieces s (rs.filter (fun r => isMemory r.1)))

/-- The range lies wholly in one of HBM, one scratchpad, one core's instruction memories, or the host window (Table 7.2). -/
def oneRange (lo hi : Int) : Bool :=
  if lo < 0 ∨ hi < lo ∨ (2 : Int) ^ 64 ≤ hi then false
  else
    match spaceOf lo.toNat, spaceOf hi.toNat with
    | .hbm _, .hbm _ => true
    | .scratch c _, .scratch d _ => c == d
    | .imem c _, .imem d _ => c == d
    | .host _, .host _ => true
    | _, _ => false

/-- The range lies wholly in one range of Table 6.1 that is not reserved (R155, R218, R230). -/
def oneRow (lo hi : Int) : Bool :=
  if lo < 0 ∨ hi < lo ∨ (2 : Int) ^ 64 ≤ hi then false
  else
    match spaceOf lo.toNat, spaceOf hi.toNat with
    | .hbm _, .hbm _ => true
    | .scratch _ _, .scratch _ _ => true
    | .imem _ _, .imem _ _ => true
    | .regs _, .regs _ => true
    | .host _, .host _ => true
    | _, _ => false

end Sys2Proof.Machine
end

