-- ==== Sys2Proof/Machine/Engine.lean ====
section
/-! DEFINITION. The reduction engines: the grid of a group, chunks and their streams, side records, and how an instance advances by itself
(R389 to R405, R522). -/

namespace Sys2Proof.Machine

/-! ### The grid (R389, R390) -/

/-- A member's place in the ring grid of a group. -/
structure Grid where
  place : Place296
  a : Nat
  b : Nat
  c : Nat
  deriving DecidableEq, Repr

/-- A × B divides D (R389). -/
def gridFits (h : Half) (d : Nat) : Bool :=
  let w := setting h (0x1000 + setRedRing)
  d % ((bits w 13 0 + 1) * (bits w 27 14 + 1)) == 0

/-- The grid of the group of place `p` under a half's reduction policy; one ring where A × B does not divide D (R389). -/
def gridOf (h : Half) (p : Place296) : Grid :=
  let w := setting h (0x1000 + setRedRing)
  let a := bits w 13 0 + 1
  let b := bits w 27 14 + 1
  if gridFits h p.d then ⟨p, a, b, p.d / (a * b)⟩ else ⟨p, p.d, 1, 1⟩

/-- Positions of the ring of a stage: RS-c 0, RS-b 1, RS-a 2, AG-a 3, AG-b 4, AG-c 5. -/
def Grid.size (g : Grid) (st : Nat) : Nat := if st = 0 ∨ st = 5 then g.c else if st = 1 ∨ st = 4 then g.b else g.a

/-- This member's position in the ring of a stage. -/
def Grid.pos (g : Grid) (st : Nat) : Nat :=
  let d := g.place.dp
  if st = 0 ∨ st = 5 then d / (g.a * g.b) else if st = 1 ∨ st = 4 then d / g.a % g.b else d % g.a

/-- The next member along the ring of a stage. -/
def Grid.next (g : Grid) (st : Nat) : Coord :=
  let n := g.size st
  let p := g.pos st
  let q := (p + 1) % n
  let step := if st = 0 ∨ st = 5 then g.a * g.b else if st = 1 ∨ st = 4 then g.a else 1
  g.place.member (g.place.dp - p * step + q * step)

/-- The groups of 256 words of a bucket. -/
def groupsOf (words : Nat) : Nat := (words + 255) / 256

/-- The groups of chunk `j` of a stage at this member, first and one past the last (R390, R391). -/
def Grid.chunk (g : Grid) (st j words : Nat) : Nat × Nat :=
  let ab := g.a * g.b
  let c := g.pos 0
  let b := g.pos 1
  let lo := if st = 0 ∨ st = 5 then j * ab else if st = 1 ∨ st = 4 then c * ab + j * g.a else c * ab + b * g.a + j
  let len := if st = 0 ∨ st = 5 then ab else if st = 1 ∨ st = 4 then g.a else 1
  let n := groupsOf words
  (lo * n / g.place.d, (lo + len) * n / g.place.d)

/-! ### Values and streams (R399, R400) -/

/-- The bucket's RS packets are encoded, and at which rate (Table 13.2). -/
def frcOf (mode st : Nat) : Option Nat :=
  if st ≤ 2 then (if bit mode 1 then some (bits mode 3 2) else none)
  else (if bit mode 4 then some (bits mode 6 5) else none)

/-- Bytes of a group in a chunk stream. -/
def groupBytes (frc : Option Nat) : Nat := match frc with | some r => 4 + 32 * frcBits r | none => 1536

/-- The 256 values of group `i` of a sparse map of words. -/
def groupVals (v : Sparse Int) (i : Nat) : List Int :=
  let mine := v.filter (fun e => decide (256 * i ≤ e.1) && decide (e.1 < 256 * i + 256))
  (List.range 256).map (fun w => sget 0 mine (256 * i + w))

/-- A sparse map of words with group `i` replaced. -/
def putGroup (v : Sparse Int) (i : Nat) (xs : List Int) : Sparse Int :=
  v.filter (fun e => decide (e.1 < 256 * i)) ++
  (xs.zipIdx.filterMap (fun e => if e.1 = 0 then none else some (256 * i + e.2, e.1))) ++
  v.filter (fun e => decide (256 * i + 256 ≤ e.1))

/-- A group encoded as a chunk stream carries it (R399). -/
def encodeGroup (frc : Option Nat) (xs : List Int) : List Byte :=
  match frc with
  | none => xs.flatMap (fun v => leBytes 6 (unsigned 48 v))
  | some r =>
    match frcEncode r true (xs.map Fnum.ofInt) with
    | some (q, payload) => leBytes 2 (frcTag r 0xB q) ++ [0, 0] ++ payload
    | none => []

/-- A group decoded from a chunk stream (R399). -/
def decodeGroup (frc : Option Nat) (bs : List Byte) : List Int :=
  match frc with
  | none => (List.range 256).map (fun i => signed 48 (leAt bs (6 * i) 6))
  | some r => (frcDecode r (signed 8 (leAt bs 0 2)) (bs.drop 4)).map Fnum.toInt

/-- The chunk stream of groups `lo` to `hi` − 1. -/
def encodeChunk (frc : Option Nat) (v : Sparse Int) (lo hi : Nat) : List Byte :=
  ((List.range (hi - lo)).map (fun i => encodeGroup frc (groupVals v (lo + i)))).flatten

/-- Words `w0` to `w1` − 1 of a list of words. -/
def wordsIn (bad : List Nat) (w0 w1 : Nat) : List Nat := bad.filter (fun w => decide (w0 ≤ w) && decide (w < w1))

/-- The bytes of a chunk stream that hold a poisoned word, as first and last (R362, R401). -/
def streamMarks (frc : Option Nat) (bad : List Nat) (lo hi : Nat) : List (Nat × Nat) :=
  let n := groupBytes frc
  (List.range (hi - lo)).flatMap (fun i =>
    let ws := wordsIn bad (256 * (lo + i)) (256 * (lo + i) + 256)
    match frc with
    | some _ => if ws.isEmpty then [] else [(n * i, n * i + n - 1)]
    | none => ws.map (fun w => (n * i + 6 * (w % 256), n * i + 6 * (w % 256) + 5)))

/-- The words of groups `lo` to `hi` − 1 whose stream bytes are marked. -/
def markedWords (frc : Option Nat) (marks : List (Nat × Nat)) (lo hi : Nat) : List Nat :=
  let n := groupBytes frc
  let hit (x y : Nat) : Bool := marks.any (fun m => decide (m.1 ≤ y) && decide (x ≤ m.2))
  (List.range (hi - lo)).flatMap (fun i =>
    match frc with
    | some _ => if hit (n * i) (n * i + n - 1) then (List.range 256).map (fun w => 256 * (lo + i) + w) else []
    | none => ((List.range 256).filter (fun w => hit (n * i + 6 * w) (n * i + 6 * w + 5))).map (fun w => 256 * (lo + i) + w))

/-! ### Side records (R404) -/

/-- An entry without a conversion. -/
def SideEntry.empty : SideEntry := ⟨none, 0, 0, 0⟩

/-- Two side entries combined (R404). -/
def SideEntry.join (x y : SideEntry) : SideEntry :=
  ⟨maxOpt x.max y.max, satAdd x.overflow y.overflow, satAdd x.vanish y.vanish, satAdd x.count y.count⟩

/-- A record that no part has entered. -/
def SideRec.empty (nseg : Nat) : SideRec := ⟨[], [], false, none, List.replicate nseg SideEntry.empty⟩

/-- The smaller of two origins. -/
def minOpt (a b : Option Nat) : Option Nat :=
  match a, b with
  | none, y => y
  | x, none => x
  | some x, some y => some (min x y)

/-- Two side records combined (R404). -/
def SideRec.join (x y : SideRec) : SideRec :=
  { incl := y.incl.foldl setIns x.incl
    late := y.late.foldl setIns x.late
    nonfinite := x.nonfinite || y.nonfinite
    origin := minOpt x.origin y.origin
    entries := (x.entries.zip y.entries).map (fun e => e.1.join e.2) }

/-- A side entry's 16 bytes (Table 13.5). -/
def SideEntry.bytes (e : SideEntry) : List Byte :=
  leBytes 2 (match e.max with | some m => unsigned 16 m | none => 0x8000) ++ [0, 0] ++
  leBytes 4 e.overflow ++ leBytes 4 e.vanish ++ leBytes 4 e.count

/-- A side entry from its 16 bytes. -/
def SideEntry.ofBytes (bs : List Byte) : SideEntry :=
  ⟨if leAt bs 0 2 = 0x8000 then none else some (signed 16 (leAt bs 0 2)), leAt bs 4 4, leAt bs 8 4, leAt bs 12 4⟩

/-- A bitmap of `d` bits in ceil(d / 64) × 8 bytes (Table 13.5). -/
def mapBytes (d : Nat) (xs : List Nat) : List Byte := leBytes ((d + 63) / 64 * 8) (bitMap d (fun i => xs.contains i))

/-- The members of a bitmap. -/
def mapMembers (bs : List Byte) (d : Nat) : List Nat := (List.range d).filter (fun i => bit (leNat bs) i)

/-- A side record as SIDE packets carry it; the spec gives no layout (log entry 21). -/
def SideRec.bytes (r : SideRec) (d : Nat) : List Byte :=
  [BitVec.ofNat 8 (b2n r.nonfinite), 0] ++ leBytes 2 (r.origin.getD 0xFFFF) ++ mapBytes d r.incl ++ mapBytes d r.late ++
  r.entries.flatMap SideEntry.bytes

/-- A side record read from SIDE packets. -/
def SideRec.ofBytes (bs : List Byte) (d nseg : Nat) : SideRec :=
  let m := (d + 63) / 64 * 8
  { incl := mapMembers (slice bs 4 m) d
    late := mapMembers (slice bs (4 + m) m) d
    nonfinite := bit (leAt bs 0 1) 0
    origin := if leAt bs 2 2 = 0xFFFF then none else some (leAt bs 2 2)
    entries := (List.range nseg).map (fun i => SideEntry.ofBytes (slice bs (4 + 2 * m + 16 * i) 16)) }

/-! ### Instances -/

/-- The bucket table read for bell `n` (R394). -/
def bucketsOf (s : State) (n : Nat) : List Bucket := match s.buckets.find? (fun e => e.1 == n) with | some e => e.2 | none => []

/-- The bucket of an instance. -/
def bucketOf (s : State) (n b : Nat) : Option Bucket := (bucketsOf s n)[b]?

/-- The instance of slot `b` and bell `n`. -/
def instanceOf (s : State) (n b : Nat) : Option Instance := s.instances.find? (fun i => i.bell == n && i.bucket == b)

/-- The instance of slot `b` and bell `n` changed. -/
def modInst (s : State) (n b : Nat) (f : Instance → Instance) : State :=
  { s with instances := modWhere s.instances (fun i => i.bell == n && i.bucket == b) f }

/-- This member's grid in bell `n`; none where it has no stage. -/
def ownGrid (s : State) (n : Nat) : Option Grid := (ownPlaceAt s n).map (gridOf (settingsOf s n))

/-- The REDUCE packets of a chunk stream (R398, Table 13.4). `stage` is the STAGE code, 6 for a side record. -/
def reducePackets (s : State) (i : Instance) (dst : Coord) (stage chunk : Nat) (frc : Bool) (bs : List Byte)
    (marks : List (Nat × Nat)) : List Packet :=
  let ps := chunks 192 (bs.length / 192 + 1) bs
  ps.zipIdx.map (fun e =>
    let off := 192 * e.2
    { ttype := 0x20, first := e.2 == 0, last := e.2 + 1 == ps.length, ackReq := false, status := 0, dst := dst, src := ownXyz s,
      tag := 0, addr := 0,
      data := leBytes 2 (i.bucket + i.gen <<< 12) ++ leBytes 1 (stage + (if frc then 8 else 0)) ++ [0] ++ leBytes 2 chunk ++ [0, 0] ++
        leBytes 4 off ++ leBytes 4 (i.bell % 2 ^ 32) ++ e.1
      poison := bitMap 7 (fun g => marks.any (fun m =>
        decide (m.1 ≤ off + 32 * g + 15) && decide (off + (32 * g - 16) ≤ m.2) && decide (m.1 < off + e.1.length))) })

/-- The bells whose own poison a value of words `256 lo` to `256 hi` − 1 of an instance carries: marks of this module that entered its own
part (R401, R515). -/
def taints (i : Instance) (lo hi : Nat) (bad : List Nat) : List Nat :=
  (i.ownHere.filter (fun e => decide (256 * lo ≤ e.1) && decide (e.1 < 256 * hi) && bad.contains e.1)).map (·.2)

/-- This module sends to another what its own poison of some bells has reached (R515). -/
def noteSent (s : State) (bells : List Nat) : State :=
  { s with integrity := { s.integrity with sentPoison := bells.foldl setIns s.integrity.sentPoison } }

/-- A chunk's values sent to the next member of a stage's ring. -/
def sendChunk (s : State) (g : Grid) (i : Instance) (mode st j words : Nat) (v : Sparse Int) (bad : List Nat) : State :=
  let (lo, hi) := g.chunk st j words
  let f := frcOf mode st
  let s := noteSent s (taints i lo hi bad)
  (reducePackets s i (g.next st) st j f.isSome (encodeChunk f v lo hi) (streamMarks f bad lo hi)).foldl
    (fun s p => sendStep s i.bell none p) s

/-- A side record sent to the next member of phase `ph`'s ring; phase `ph` is stage `ph` of the rings (R404, log entry 21). -/
def sendSide (s : State) (g : Grid) (i : Instance) (ph : Nat) (r : SideRec) : State :=
  (reducePackets s i (g.next ph) 6 ph false (r.bytes g.place.d) []).foldl (fun s p => sendStep s i.bell none p) s

/-- This member's own value in the newest generation: words, poisoned words, side record (R402, R522). -/
def ownValue (g : Grid) (i : Instance) : Sparse Int × List Nat × SideRec :=
  if i.gen = 0 then (i.ownVals, i.ownBad, i.ownSide)
  else if i.dropped then ([], [], SideRec.empty i.ownSide.entries.length)
  else
    match i.repl with
    | some r =>
      (r.words, r.bad, { incl := i.ownSide.incl, late := [], nonfinite := r.nonfinite,
                         origin := if r.nonfinite then some g.place.dp else none, entries := r.entries })
    | none => (i.ownVals, i.ownBad, i.ownSide)

/-- This member's generation-0 decisions for the slot have been made (R402). -/
def decided (i : Instance) : Bool := i.own != .waiting && i.late != .waiting

/-- A case of this member, or one whose suspect has its DP index, is open for the bell (R522). -/
def caseBlocks (s : State) (n : Nat) (dp : Nat) : Bool :=
  s.integrity.cases.any (fun c => c.bell == n && c.open_) ||
  s.integrity.held.any (fun c => c.bell == n && c.dp == dp)

/-- This member may enter its own value now. -/
def mayEnter (s : State) (g : Grid) (i : Instance) : Bool :=
  decided i && (i.gen == 0 || !caseBlocks s i.bell g.place.dp)

/-- Two word maps added word by word, over the groups `lo` to `hi` − 1. -/
def addGroups (x y : Sparse Int) (lo hi : Nat) : Sparse Int :=
  (List.range (hi - lo)).foldl (fun acc k =>
    putGroup acc (lo + k) ((groupVals x (lo + k)).zipWith (· + ·) (groupVals y (lo + k)))) []

/-- The groups `lo` to `hi` − 1 of `x` put into `v`. -/
def putGroups (v x : Sparse Int) (lo hi : Nat) : Sparse Int :=
  (List.range (hi - lo)).foldl (fun acc k => putGroup acc (lo + k) (groupVals x (lo + k))) v

/-- The words received in a chunk stream. -/
def chunkWords (frc : Option Nat) (bs : List Byte) (lo hi : Nat) : Sparse Int :=
  (List.range (hi - lo)).foldl (fun acc k =>
    putGroup acc (lo + k) (decodeGroup frc (slice bs (groupBytes frc * k) (groupBytes frc)))) []

/-- The chunk or start of `st` has been dealt with. -/
def isDone (i : Instance) (st j : Nat) : Bool := i.done.contains (st, j)

/-- What this member keeps of phase `st` is complete: its own chunk has ended here. -/
def kept (g : Grid) (i : Instance) (st : Nat) : Bool := isDone i st (g.pos st)

/-- Every chunk of a gather phase is held. -/
def gathered (g : Grid) (i : Instance) (st : Nat) : Bool := (List.range (g.size st)).all (isDone i st)

/-- The member's own value for a stage is ready: entered for RS-c, kept from the phase before otherwise. -/
def stageReady (g : Grid) (i : Instance) (st : Nat) : Bool :=
  if st = 0 then i.entered
  else if st ≤ 2 then kept g i (st - 1)
  else if st = 3 then kept g i 2
  else gathered g i (st - 1)

/-- Chunk `j` of stage `st` dealt with: `v` and `bad` are what the member now holds of its words. -/
def holdChunk (st j lo hi : Nat) (v : Sparse Int) (bad : List Nat) (i : Instance) : Instance :=
  { i with
    vals := putGroups i.vals v lo hi
    bad := bad.foldl setIns (i.bad.filter (fun w => decide (w < 256 * lo) || decide (256 * hi ≤ w)))
    done := i.done ++ [(st, j)] }

/-- A chunk with its own value added: kept here, or passed on (R391), the sum that passed through then standing in its words (R406). -/
def takeChunk (s : State) (g : Grid) (i : Instance) (bk : Bucket) (st j : Nat) (v : Sparse Int) (bad : List Nat) : State :=
  let (lo, hi) := g.chunk st j bk.words
  if st ≤ 2 then
    let own := if st = 0 then (ownValue g i).1 else i.vals
    let ownBad := if st = 0 then (ownValue g i).2.1 else i.bad
    let sum := addGroups v own lo hi
    let sumBad := (wordsIn ownBad (256 * lo) (256 * hi)).foldl setIns bad
    let s := if j = g.pos st then s else sendChunk s g i bk.mode st j bk.words sum sumBad
    modInst s i.bell i.bucket (holdChunk st j lo hi sum sumBad)
  else
    let s := if (g.pos st + 1) % g.size st = j then s else sendChunk s g i bk.mode st j bk.words v bad
    modInst s i.bell i.bucket (holdChunk st j lo hi v bad)

/-- The chunk this member starts in stage `st`, once its own value is ready: (j + 1) mod n is its position in the reduce phases, its own
chunk in the gather phases (R391, R400). -/
def startChunk (s : State) (g : Grid) (i : Instance) (bk : Bucket) (st : Nat) : State :=
  let n := g.size st
  let p := g.pos st
  if st ≤ 2 then
    let j := (p + n - 1) % n
    if isDone i st j then s else takeChunk s g i bk st j [] []
  else if isDone i st p then s
  else
    let (lo, hi) := g.chunk st p bk.words
    let f := frcOf bk.mode st
    let v := if st = 3 then
        (match f with
         | some _ => (List.range (hi - lo)).foldl (fun acc k => putGroup acc (lo + k) (decodeGroup f (encodeGroup f (groupVals i.vals (lo + k))))) []
         | none => putGroups [] i.vals lo hi)
      else putGroups [] i.vals lo hi
    takeChunk s g i bk st p v (wordsIn i.bad (256 * lo) (256 * hi))

/-- The stages an instance runs: the gather phases only where SCATTER = 0 (R391). -/
def stagesRun (bk : Bucket) : List Nat := if bit bk.mode 0 then [0, 1, 2] else [0, 1, 2, 3, 4, 5]

/-- One pass over an instance's chunks: starts, chunks without groups, and received chunks whose turn has come. -/
def chunkPass (s : State) (g : Grid) (bk : Bucket) (n b : Nat) : State :=
  (stagesRun bk).foldl (fun s st =>
    match instanceOf s n b with
    | none => s
    | some i =>
      if !stageReady g i st then s
      else
        let s := startChunk s g i bk st
        (List.range (g.size st)).foldl (fun s j =>
          match instanceOf s n b with
          | none => s
          | some i =>
            if isDone i st j then s
            else
              let (lo, hi) := g.chunk st j bk.words
              if lo = hi then takeChunk s g i bk st j [] []
              else
                match i.ready.find? (fun c => c.stage == st && c.chunk == j) with
                | some c =>
                  let f := frcOf bk.mode st
                  let s := modInst s n b (fun i => { i with ready := i.ready.erase c })
                  takeChunk s g i bk st j (chunkWords f c.bytes lo hi) (markedWords f c.marks lo hi)
                | none => s) s) s

/-- One pass over an instance's side record (R404, log entry 21): the reduce phases end at position 0 of each ring, the final record
returns from there. -/
def sidePass (s : State) (g : Grid) (n b : Nat) : State :=
  match instanceOf s n b with
  | none => s
  | some i =>
    if !i.entered then s
    else
      let takes (ph : Nat) : Option SideRec :=
        (i.ready.find? (fun c => c.stage == 8 + ph)).map (fun c => SideRec.ofBytes c.bytes g.place.d i.ownSide.entries.length)
      let drop (ph : Nat) (i : Instance) : Instance := { i with ready := i.ready.filter (fun c => c.stage != 8 + ph) }
      /- the final record spreads along the rings this member starts or passes on -/
      let spread (s : State) (ph : Nat) (r : SideRec) : State :=
        let s := modInst s n b (fun i => { drop ph i with final := some r, sidePhase := 6 })
        [3, 4, 5].foldl (fun s k =>
          if k < ph then s
          else if k != ph && g.pos k != 0 then s
          else if (k = 3 && (g.pos 0 != 0 || g.pos 1 != 0)) || (k = 4 && g.pos 0 != 0) then s
          else if (g.pos k + 1) % g.size k = 0 then s
          else sendSide s g i k r) s
      if i.sidePhase < 3 then
        let ph := i.sidePhase
        let m := g.size ph
        let p := g.pos ph
        let inRing := ph == 0 || (ph == 1 && g.pos 0 == 0) || (ph == 2 && g.pos 0 == 0 && g.pos 1 == 0)
        if !inRing then modInst s n b (fun i => { i with sidePhase := 3 })
        else if m = 1 then modInst s n b (fun i => { i with sidePhase := ph + 1 })
        else if p = 1 then
          modInst (sendSide s g i ph i.sideAcc) n b (fun i => { i with sidePhase := 3 })
        else
          match takes ph with
          | none => s
          | some r =>
            let acc := i.sideAcc.join r
            let s := modInst s n b (fun i => { drop ph i with sideAcc := acc, sidePhase := if p = 0 then ph + 1 else 3 })
            if p = 0 then s else sendSide s g i ph acc
      else if i.sidePhase = 3 then
        if g.pos 0 = 0 ∧ g.pos 1 = 0 ∧ g.pos 2 = 0 then spread s 3 i.sideAcc
        else
          match [3, 4, 5].findSome? (fun ph => (takes ph).map (fun r => (ph, r))) with
          | some (ph, r) => spread s ph r
          | none => s
      else s

/-- The own value of an instance entered once it may be (R402, R522). -/
def enterPass (s : State) (g : Grid) (n b : Nat) : State :=
  match instanceOf s n b with
  | none => s
  | some i =>
    if i.entered || i.complete || i.faulted || !mayEnter s g i then s
    else modInst s n b (fun i => { i with entered := true, sideAcc := (ownValue g i).2.2 })

/-- The engine has found a check failed in the newest generation of the slot: it works on it no further (R502). -/
def isFaulted (s : State) (n b : Nat) : Bool := (instanceOf s n b).any (·.faulted)

/-- An instance advanced as far as what it holds allows. -/
def advanceInst (s : State) (n b : Nat) : State :=
  match ownGrid s n, bucketOf s n b with
  | some g, some bk =>
    if bk.valid && !isFaulted s n b then
      (List.range 8).foldl (fun s _ => sidePass (chunkPass (enterPass s g n b) g bk n b) g n b) s
    else s
  | _, _ => s

/-- Every incomplete instance of bell `n` advanced. -/
def advanceBell (s : State) (n : Nat) : State :=
  (s.instances.filter (fun i => i.bell == n && !i.complete)).foldl (fun s i => advanceInst s n i.bucket) s

/-- The member's result of an instance is final, together with its side record (R406). -/
def resultFinal (g : Grid) (bk : Bucket) (i : Instance) : Bool :=
  i.final.isSome && !i.faulted && (if bit bk.mode 0 then kept g i 2 else gathered g i 5)

/-! ### Completion with an error, and generations (R394, R406, R413, R522, R525) -/

/-- Bytes written block by block from a 64-byte boundary, `bad` saying which blocks are poisoned. -/
def writeArea (s : State) (a : Nat) (bs : List Byte) (bad : Nat → Bool) : State :=
  ((chunks 64 ((bs.length + 63) / 64) bs).zipIdx).foldl (fun s e => devWrite s (a + 64 * e.2) e.1 (bad e.2)) s

/-- The divisor of a side record (R405). -/
def divisorOf (r : SideRec) : Nat := if r.incl.length + r.late.length = 0 then 1 else r.incl.length + r.late.length

/-- The summary of an instance that completed OK. -/
def summaryBytes (n d gen mode nseg : Nat) (r : SideRec) : List Byte :=
  padTo 64 (leBytes 8 n ++ [0] ++ leBytes 1 (b2n r.nonfinite + 2 * b2n (!r.late.isEmpty) + 4 * b2n (bit mode 0)) ++ leBytes 2 d ++
    leBytes 2 r.incl.length ++ leBytes 2 r.late.length ++ leBytes 4 (fp32.convert (Fnum.ofInt (divisorOf r)) .rne).enc ++
    leBytes 2 (r.origin.getD 0xFFFF) ++ leBytes 1 gen ++ leBytes 1 nseg) ++
  mapBytes d r.incl ++ mapBytes d r.late ++ r.entries.flatMap SideEntry.bytes

/-- The summary of slot `b` in bell `n` where it completed with another status: only what Table 13.5 says of it is stated, the rest is open
(log entry 4). -/
def failedSummary (n b d gen mode status nseg : Nat) : List Byte :=
  let fr := leBytes (64 + 2 * ((d + 63) / 64 * 8) + 16 * nseg) (Config.openValue [9, n, b, gen, status])
  leBytes 8 n ++ leBytes 1 status ++ leBytes 1 (leAt fr 9 1 % 4 + 4 * b2n (bit mode 0)) ++ leBytes 2 d ++ slice fr 12 10 ++ leBytes 1 gen ++
    leBytes 1 nseg ++ List.replicate 40 0 ++ fr.drop 64

/-- An instance's signal (R406, step 3), and BUCKETS_DONE. -/
def signalDone (s : State) (bk : Bucket) : State :=
  count (signalIf s (bit bk.sig 7) (bits bk.sig 5 0) (bits bk.sigTally 5 0)) (redReg redBucketsDone)

/-- An instance completes with a status other than OK: summary and signal, no sums (R394, R413). -/
def failInstance (s : State) (n b status : Nat) (bk : Bucket) : State :=
  let gen := ((instanceOf s n b).map (·.gen)).getD 0
  let s := modInst s n b (fun i => { i with complete := true, status := status })
  let d := ((ownPlaceAt s n).map (·.d)).getD 1
  let bs := failedSummary n b d gen bk.mode status bk.segs.length
  signalDone (if bk.sumAddr % 64 = 0 then writeArea s bk.sumAddr bs (fun _ => false) else s) bk

/-- An instance times out: it completes so, and the step ring halts (R413). -/
def timeoutInstance (s : State) (n b : Nat) (bk : Bucket) : State :=
  let s := failInstance (raiseFlag s 5 (redReg redRedEvent) 30) n b 0x0D bk
  match stepRing s with
  | some r => haltRing s r 0x0D (sqHead s r)
  | none => s

/-- The newest generation of slot `b` of bell `n` raised to `gen` where it is lower (R522): what was done in a lower one is discarded. One past 15
times the slot out, once (R525). -/
def raiseGen (s : State) (n b gen : Nat) : State :=
  match instanceOf s n b, bucketOf s n b with
  | some i, some bk =>
    if !bk.valid || decide (gen ≤ i.gen) then s
    else if gen ≤ 15 then
      modInst s n b (fun i => { i with
        gen := gen, faulted := false, entered := false, vals := [], bad := [], rx := [], ready := [], done := [], sidePhase := 0,
        final := none, sideAcc := SideRec.empty i.ownSide.entries.length, complete := false, status := 0 })
    else if i.complete && i.status == 0x0D then s
    else timeoutInstance (raiseFlag s 9 (intReg intIntEvent) 27) n b bk
  | _, _ => s

/-- A closure of slot `b` received: the newest generation is at least the number of them (R522). -/
def closeSlot (s : State) (n b : Nat) : State :=
  let s := modInst s n b (fun i => { i with closures := i.closures + 1 })
  match instanceOf s n b with
  | some i => raiseGen s n b (max i.gen i.closures)
  | none => s

end Sys2Proof.Machine
end

