-- ==== Sys2Proof/Machine/Functions.lean ====
section
/-! DEFINITION. Quotients, roots and the transcendental functions of the vector engine (R136, Tables 5.5 and 5.6) as values fine enough that one
rounding gives the correctly rounded result: fixed-point series with 1,024 fraction bits and a sticky last bit (log entry 7). -/

namespace Sys2Proof.Machine

/-- Fraction bits of the fixed-point series. -/
def fxBits : Nat := 1024

/-- 1 in fixed point. -/
def fxOne : Int := 2 ^ fxBits

/-- Product of two fixed-point values. -/
def fxMul (a b : Int) : Int := a * b / fxOne

/-- Quotient of two fixed-point values. -/
def fxDiv (a b : Int) : Int := a * fxOne / b

/-- A finite value in fixed point. -/
def toFx (x : Fnum) : Int :=
  match x with
  | .fin neg m e =>
    let v : Int := if -(fxBits : Int) ≤ e then (m : Int) * 2 ^ (e + fxBits).toNat else (m : Int) / 2 ^ (-(e + fxBits)).toNat
    if neg then -v else v
  | _ => 0

/-- A magnitude in fixed point, exponent `k` added, as a value that is not exact. -/
def ofFx (neg : Bool) (v : Int) (k : Int) : Fnum := .fin neg (2 * v.natAbs + 1) (k - fxBits - 1)

/-- acc + t/k0 + t·u/(k0 + 2) + t·u²/(k0 + 4) + …, until the terms vanish; `u` negative alternates. -/
def oddSeries (u : Int) : Nat → Int → Int → Int → Int
  | 0, _, _, acc => acc
  | fuel + 1, k, t, acc => if t = 0 ∨ t = -1 then acc else oddSeries u fuel (k + 2) (fxMul t u) (acc + t / k)

/-- atanh `u` for 0 ≤ u ≤ 1/3. -/
def atanhFx (u : Int) : Int := oddSeries (fxMul u u) 360 1 u 0

/-- ln 2. -/
def ln2Fx : Int := 2 * atanhFx (fxOne / 3)

/-- atan (1 / n). -/
def atanInvFx (n : Int) : Int := oddSeries (-(fxOne / (n * n))) 360 1 (fxOne / n) 0

/-- π by Machin's formula. -/
def piFx : Int := 16 * atanInvFx 5 - 4 * atanInvFx 239

/-- Σ tʲ / j! from term `t` of index `j` on. -/
def expSeries (r : Int) : Nat → Int → Int → Int → Int
  | 0, _, _, acc => acc
  | fuel + 1, j, t, acc => if t = 0 then acc else expSeries r fuel (j + 1) (fxMul t r / (j + 1)) (acc + t)

/-- e to a fixed-point power, as fixed-point significand and binary exponent. -/
def expFx (x : Int) : Int × Int :=
  let l := ln2Fx
  let k := x / l
  (expSeries (x - k * l) 240 0 fxOne 0, k)

/-- e to a fixed-point power in fixed point. -/
def expFlat (x : Int) : Int :=
  let p := expFx x
  if 0 ≤ p.2 then p.1 * 2 ^ p.2.toNat else p.1 / 2 ^ (-p.2).toNat

/-- ln (1 + t) for 0 ≤ t ≤ 1. -/
def log1pFx (t : Int) : Int := 2 * atanhFx (fxDiv t (2 * fxOne + t))

/-- The integer square root of `n`, by bits from `2^b` down. -/
def isqrtFrom (n : Nat) : Nat → Nat → Nat
  | 0, r => if (r + 1) * (r + 1) ≤ n then r + 1 else r
  | b + 1, r => let c := r + 2 ^ (b + 1); isqrtFrom n b (if c * c ≤ n then c else r)

/-- The integer square root. -/
def isqrt (n : Nat) : Nat := isqrtFrom n (n.log2 / 2 + 1) 0

/-- Σ x^(2n+1) / (2n+1)!! from term `t` with divisor `k` on. -/
def phiSeries (x2 : Int) : Nat → Int → Int → Int → Int
  | 0, _, _, acc => acc
  | fuel + 1, k, t, acc => if t = 0 then acc else phiSeries x2 fuel (k + 2) (fxMul t x2 / (k + 2)) (acc + t)

/-- The standard normal distribution function at a fixed-point value below 20 in magnitude. -/
def phiFx (x : Int) : Int :=
  let a := (x.natAbs : Int)
  let y := fxMul a a
  let density := fxDiv (expFlat (-(y / 2))) (isqrt (2 * piFx.toNat * 2 ^ fxBits))
  let p := fxMul density (phiSeries y 1400 1 a 0)
  if x < 0 then fxOne / 2 - p else fxOne / 2 + p

/-- A magnitude too large for every format. -/
def beyond (neg : Bool) : Fnum := .fin neg 1 100000
/-- A magnitude too small for every format. -/
def below (neg : Bool) : Fnum := .fin neg 1 (-100000)
/-- A finite value times 2^`k` with its magnitude raised a little. -/
def justAbove (x : Fnum) (k : Int) : Fnum :=
  match x with
  | .fin n m e => .fin n (m * 2 ^ 800 + 1) (e - 800 + k)
  | y => y
/-- A finite value times 2^`k` with its magnitude lowered a little. -/
def justBelow (x : Fnum) (k : Int) : Fnum :=
  match x with
  | .fin n m e => .fin n (m * 2 ^ 800 - 1) (e - 800 + k)
  | y => y

/-! ### The functions (Table 5.6) -/

/-- a / b (Table 5.5). -/
def Fnum.div (a b : Fnum) : Fnum :=
  match a, b with
  | .nan, _ => .nan
  | _, .nan => .nan
  | .inf _, .inf _ => .nan
  | .inf n, .fin p _ _ => .inf (n != p)
  | .fin n _ _, .inf p => .fin (n != p) 0 0
  | .fin n m e, .fin p k f =>
    if k = 0 then (if m = 0 then .nan else .inf (n != p))
    else if m = 0 then .fin (n != p) 0 0
    else quotient (n != p) m k (e - f)

/-- 1 / a. -/
def Fnum.recip (a : Fnum) : Fnum := Fnum.div (.fin false 1 0) a

/-- √a. -/
def Fnum.sqrt (a : Fnum) : Fnum :=
  match a with
  | .nan => .nan
  | .inf n => if n then .nan else .inf false
  | .fin n m e =>
    if m = 0 then a
    else if n then .nan
    else
      let sh : Nat := 160 + (e % 2).toNat
      let q := isqrt (m * 2 ^ sh)
      .fin false (2 * q + (if q * q = m * 2 ^ sh then 0 else 1)) ((e - sh) / 2 - 1)

/-- 1 / √a. -/
def Fnum.rsqrt (a : Fnum) : Fnum :=
  match a with
  | .nan => .nan
  | .inf n => if n then .nan else .fin false 0 0
  | .fin n m e =>
    if m = 0 then .inf n
    else if n then .nan
    else
      let m' := if e % 2 = 0 then m else 2 * m
      let e' := if e % 2 = 0 then e else e - 1
      let k := 80 + m'.log2
      let q := isqrt (2 ^ (2 * k) / m')
      .fin false (2 * q + (if q * q * m' = 2 ^ (2 * k) then 0 else 1)) (-(e' / 2) - k - 1)

/-- eᵃ. -/
def Fnum.exp (a : Fnum) : Fnum :=
  match a with
  | .nan => .nan
  | .inf n => if n then .zero else .inf false
  | .fin n m _ =>
    if m = 0 ∨ a.log2 < -900 then .fin false 1 0
    else if 12 ≤ a.log2 then (if n then below false else beyond false)
    else let p := expFx (toFx a); ofFx false p.1 p.2

/-- 2ᵃ. -/
def Fnum.exp2 (a : Fnum) : Fnum :=
  match a with
  | .nan => .nan
  | .inf n => if n then .zero else .inf false
  | .fin n m e =>
    if m = 0 ∨ a.log2 < -900 then .fin false 1 0
    else if 12 ≤ a.log2 then (if n then below false else beyond false)
    else if 0 ≤ e ∨ m % 2 ^ (-e).toNat = 0 then .fin false 1 (toFx a / fxOne)
    else let p := expFx (fxMul (toFx a % fxOne) ln2Fx); ofFx false p.1 (p.2 + toFx a / fxOne)

/-- log₂ a. -/
def Fnum.logTwo (a : Fnum) : Fnum :=
  match a with
  | .nan => .nan
  | .inf n => if n then .nan else .inf false
  | .fin n m e =>
    if m = 0 then .inf true
    else if n then .nan
    else if isPow2 m then .ofInt (e + m.log2)
    else
      let f := (m : Int) * fxOne / 2 ^ m.log2
      let t := (e + m.log2) * fxOne + fxDiv (log1pFx (f - fxOne)) ln2Fx
      ofFx (decide (t < 0)) t 0

/-- tanh a. -/
def Fnum.tanh (a : Fnum) : Fnum :=
  match a with
  | .nan => .nan
  | .inf n => .fin n 1 0
  | .fin n m _ =>
    if m = 0 then a
    else if 8 ≤ a.log2 then .fin n 1 0
    else if a.log2 < -300 then justBelow a 0
    else
      let t := expFlat (2 * toFx a.abs)
      quotient n (t - fxOne).toNat (t + fxOne).toNat 0

/-- a × Φ(a). -/
def Fnum.gelu (a : Fnum) : Fnum :=
  match a with
  | .nan => .nan
  | .inf n => if n then .fin true 0 0 else .inf false
  | .fin n m e =>
    if m = 0 then a
    else if !a.lt (.ofInt 20) then justBelow a 0
    else if !(Fnum.ofInt (-20)).lt a then below true
    else if a.log2 < -300 then (if n then justBelow a (-1) else justAbove a (-1))
    else .fin n (2 * (m * (phiFx (toFx a)).toNat) + 1) (e - fxBits - 1)

/-- a / (1 + e⁻ᵃ). -/
def Fnum.silu (a : Fnum) : Fnum :=
  match a with
  | .nan => .nan
  | .inf n => if n then .fin true 0 0 else .inf false
  | .fin n m e =>
    if m = 0 then a
    else if 9 ≤ a.log2 then (if n then below true else justBelow a 0)
    else if a.log2 < -300 then (if n then justBelow a (-1) else justAbove a (-1))
    else quotient n (m * 2 ^ fxBits) (fxOne + expFlat (-(toFx a))).toNat e

/-- ln(1 + eᵃ). -/
def Fnum.softplus (a : Fnum) : Fnum :=
  match a with
  | .nan => .nan
  | .inf n => if n then .zero else .inf false
  | .fin n m _ =>
    if m ≠ 0 ∧ 9 ≤ a.log2 then (if n then below false else justAbove a 0)
    else if n then ofFx false (log1pFx (expFlat (toFx a))) 0
    else ofFx false (toFx a + log1pFx (expFlat (-(toFx a)))) 0

end Sys2Proof.Machine
end

