-- ==== Sys2Proof/Machine/Integrity.lean ====
section
/-! DEFINITION. The integrity controller: notices, cases and their closing, faults found by checks, and reads of poison (R500 to R527). -/

namespace Sys2Proof.Machine

/-! ### Policy and notices -/

/-- A word of the integrity policy of bell `n` (R530). -/
def intSetting (s : State) (n o : Nat) : Nat := setting (settingsOf s n) (0x1800 + o)

/-- A 64-bit address of the integrity policy of bell `n`. -/
def intAddr (s : State) (n o : Nat) : Nat := setting64 (settingsOf s n) (0x1800 + o)

/-- The address of the MB_MAP word of descriptor `i` of bell `n` (R507). -/
def mbWordAt (s : State) (n i : Nat) : Nat := intAddr s n setIntMbMapLo + 4 * i

/-- The micro-batches FIRST to LAST that descriptor `i` of bell `n` contributes to; none for update work (R507). -/
def mbEntry (s : State) (n i : Nat) : Option (Nat × Nat) :=
  let w := leNat (readMem s.mem (mbWordAt s n i) 4)
  if bit w 31 then some (bits w 9 0, bits w 25 16) else none

/-- An integrity notice (Table 17.3). -/
structure Notice where
  notice : Nat
  kind : Nat
  cause : Nat
  suspect : Coord
  num : Nat
  bell : Nat
  group : Nat
  dp : Nat
  slotMb : Nat
  first : Nat
  last : Nat
  layer : Nat
  inputs : Nat
  digests : Nat
  repl : Nat
  deriving DecidableEq, Repr

/-- The 64 data bytes of a notice. -/
def Notice.bytes (n : Notice) : List Byte :=
  leBytes 1 n.notice ++ leBytes 1 n.kind ++ leBytes 1 n.cause ++ [0] ++ leBytes 3 (coordBits n.suspect) ++ leBytes 1 n.num ++
  leBytes 8 n.bell ++ leBytes 2 n.group ++ leBytes 2 n.dp ++ leBytes 2 n.slotMb ++ leBytes 2 n.first ++ leBytes 2 n.last ++
  leBytes 2 n.layer ++ leBytes 4 0 ++ leBytes 8 n.inputs ++ leBytes 8 n.digests ++ leBytes 8 n.repl ++ leBytes 8 0

/-- A notice read from the data of a REVOKE packet. -/
def Notice.ofBytes (b : List Byte) : Notice :=
  { notice := leAt b 0 1, kind := leAt b 1 1, cause := leAt b 2 1, suspect := coordOf (leAt b 4 3), num := leAt b 7 1,
    bell := leAt b 8 8, group := leAt b 16 2, dp := leAt b 18 2, slotMb := leAt b 20 2, first := leAt b 22 2, last := leAt b 24 2,
    layer := leAt b 26 2, inputs := leAt b 32 8, digests := leAt b 40 8, repl := leAt b 48 8 }

/-- A notice is well formed: no reserved NOTICE or KIND, no RSVD bit (R526). -/
def Notice.good (b : List Byte) : Bool :=
  let t := leAt b 0 1
  let k := leAt b 1 1
  b.length == 64 && decide (1 ≤ t) && decide (t ≤ 5) && (if t = 4 ∨ t = 5 then decide (k ≤ 3) else k == 0) &&
  leAt b 3 1 == 0 && leAt b 28 4 == 0 && leAt b 56 8 == 0

/-- A notice sent to a module on VC 3. -/
def sendNotice (s : State) (dst : Coord) (n : Notice) : State := launch s none (message s 0x32 dst 0 n.bytes)

/-- Every other module that belongs to a stage under bell `n`'s stage map (R519). -/
def otherStaged (s : State) (n : Nat) : List Coord := (stagedModules (settingsOf s n)).filter (· != ownXyz s)

/-- The module in the form of NF_ORIGIN: x, y, z and site. -/
def originForm (s : State) (c : Coord) : Nat := coordBits c + ownSite s * 2 ^ 24

/-- The witness of this module in bell `n` (R514). -/
def witnessOf (s : State) (n : Nat) : Option Coord :=
  (ownPlaceAt s n).map (fun p => p.member ((p.dp + bits (intSetting s n setIntIntCtrl) 13 0) % p.d))

/-- A notice of this module's case. -/
def caseNotice (s : State) (c : OwnCase) (notice kind : Nat) : Notice :=
  let p := ownPlaceAt s c.bell
  { notice := notice, kind := kind, cause := c.cause, suspect := ownXyz s, num := c.num, bell := c.bell,
    group := (p.map Place296.group).getD 0, dp := (p.map (·.dp)).getD 0, slotMb := c.rerun.getD 0,
    first := c.range.foldl min (c.range.headD 0), last := c.range.foldl max 0, layer := 0xFFFF, inputs := 0, digests := 0, repl := 0 }

/-! ### Closing -/

/-- The address of slot `b`'s entry in REPL_TABLE (Table 17.6). -/
def replEntryAt (s : State) (n b : Nat) : Nat := intAddr s n setIntReplTableLo + 8 * b

/-- Where the replacement of slot `b` lies. -/
def replAt (s : State) (n b : Nat) : Nat := leNat (readMem s.mem (replEntryAt s n b) 8)

/-- Bytes of a replacement's words, filled up to 64. -/
def replWords (bk : Bucket) : Nat := (4 * bk.words + 63) / 64 * 64

/-- The errors that reading a replacement meets (R172). -/
def meetReplacement (s : State) (n b : Nat) (bk : Bucket) : State :=
  let s := meetMem s (replEntryAt s n b) 8
  meetMem (meetMem s (replAt s n b) (4 * bk.words)) (replAt s n b + replWords bk) (16 * bk.segs.length + 1)

/-- The replacement of slot `b` in the table of this module: words, side entries, NONFINITE (Table 17.6, REPL_TABLE). -/
def replacement (s : State) (n : Nat) (b : Nat) (bk : Bucket) : LatePart :=
  let a := replAt s n b
  let area := replWords bk
  let nseg := bk.segs.length
  let bytes := readMem s.mem a (4 * bk.words)
  let side := readMem s.mem (a + area) (16 * nseg + 1)
  { words := (List.range bk.words).filterMap (fun w =>
      let v := signed 32 (leAt bytes (4 * w) 4)
      if v = 0 then none else some (w, v))
    bad := (List.range bk.words).filter (fun w => poisoned s (a + 4 * w))
    entries := (List.range nseg).map (fun i => SideEntry.ofBytes (slice side (16 * i) 16))
    nonfinite := bit (leAt side (16 * nseg) 1) 0 }

/-- What a closure does to this member's slots of bell `n` (R518, R522): `kind` 1 REPLACE, 2 DROP, 3 RERUN; `mine` says that this
module is the suspect. -/
def applyClosure (s : State) (n kind group dp slot : Nat) (suspect : Coord) (mine : Bool) : State :=
  match ownPlaceAt s n with
  | none => s
  | some p =>
    let hits := kind != 0 && (if kind = 2 then decide (dp < p.d) else group == p.group)
    if !hits then s
    else
      let slots := (s.instances.filter (fun i => i.bell == n && (kind != 3 || i.bucket == slot))).map (·.bucket)
      let s := slots.foldl (fun s b =>
        let s := match bucketOf s n b with
          | some bk =>
            if kind = 1 && mine then
              let s := meetReplacement s n b bk
              let r := replacement s n b bk
              modInst s n b (fun i => { i with repl := some r })
            else if kind = 2 && dp = p.dp then modInst s n b (fun i => { i with dropped := true })
            else s
          | none => s
        closeSlot s n b) s
      /- R509: what was read of marks from this suspect lapses where the DROP covers the reader -/
      let s := if kind = 2 ∧ dp = p.dp then
          { s with integrity := { s.integrity with
            pendingUse := s.integrity.pendingUse.filter (fun u => !(u.bell == n && u.origin.ofModule suspect && !u.results)) } } else s
      let s := reportEvent s n 4 8 (originForm s suspect) (if kind = 3 then slot else 2 ^ 64 - 1)
      advanceBell s n

/-- The recorder's and report's status of a closure. -/
def closeStatus (kind : Nat) : Nat := if kind = 1 then 8 else if kind = 2 then 7 else 0

/-- This module's case changed. -/
def modCase (s : State) (n num : Nat) (f : OwnCase → OwnCase) : State :=
  { s with integrity := { s.integrity with cases := modWhere s.integrity.cases (fun c => c.bell == n && c.num == num) f } }

/-- Cases that are closed and fully acknowledged are forgotten. -/
def sweepCases (s : State) : State :=
  { s with integrity := { s.integrity with cases := s.integrity.cases.filter (fun c => c.open_ || !c.acks.isEmpty) } }

/-- This module closes its case: 0 CONFIRM, 1 REPLACE, 2 DROP, 3 RERUN (R518, R520). -/
def closeCase (s : State) (n num kind : Nat) : State :=
  match s.integrity.cases.find? (fun c => c.bell == n && c.num == num && c.open_) with
  | none => s
  | some c =>
    let s := (otherStaged s n).foldl (fun s m => sendNotice s m (caseNotice s c 5 kind)) s
    let s := modCase s n num (fun c => { c with open_ := false })
    let s := if kind = 0 then count s (intReg intConfirmed) else if kind = 1 then count s (intReg intReplaced)
      else if kind = 2 then count s (intReg intDropped) else s
    let s := submitEvent s 0x5001 0 (closeStatus kind) (leBytes 1 c.cause ++ leBytes 1 kind ++ [0, 0] ++ leBytes 8 n)
    let s := if c.verdicts.isEmpty then s else
      let first := c.range.foldl min (c.range.headD 0)
      reportEvent s n 3 (closeStatus kind) (originForm s ((witnessOf s n).getD ⟨0, 0, 0⟩))
        (bitMap 32 (fun i => c.verdicts.any (fun v => v.1 == first + i)) + first * 2 ^ 32)
    let p := ownPlaceAt s n
    sweepCases (applyClosure s n kind ((p.map Place296.group).getD 0) ((p.map (·.dp)).getD 0) (c.rerun.getD 0) (ownXyz s) true)

/-! ### Opening (R511, R515, R519) -/

/-- The case closes DROP at once, without a replay (R515). -/
def dropsAtOnce (s : State) (c : OwnCase) : Bool :=
  let d := ((ownPlaceAt s c.bell).map (·.d)).getD 1
  let ctrl := intSetting s c.bell setIntIntCtrl
  c.rerun.isNone && (!bit ctrl 31 || bits ctrl 13 0 % d == 0 || decide (32 < c.range.length) ||
    (c.cause == 5 && s.integrity.sentPoison.contains c.bell))

/-- REPLAY_REQ sent for one micro-batch (R517). -/
def sendReplayReq (s : State) (c : OwnCase) (mb : Nat) : State :=
  match witnessOf s c.bell with
  | none => s
  | some w =>
    let layer := (s.replays.findSome? (fun r => if r.bell == c.bell then
      (r.records.find? (fun x => x.kind == 0 && x.mb == mb && x.state == .refused)).map (·.layer) else none)).getD 0xFFFF
    sendNotice s w { caseNotice s c 3 0 with
      slotMb := mb, layer := layer, inputs := intAddr s c.bell setIntInputDirLo, digests := intAddr s c.bell setIntDigestLo,
      repl := intAddr s c.bell setIntReplTableLo }

/-- The last HOLD_ACK of the case has arrived: sends resume, and the replay is asked for or the RERUN closes (R517, R519, R520). -/
def acksIn (s : State) (n num : Nat) : State :=
  match s.integrity.cases.find? (fun c => c.bell == n && c.num == num && c.acks.isEmpty && !c.asked) with
  | none => s
  | some c =>
    let s := modCase s n num (fun c => { c with asked := true })
    let s := if sendsHeld s n then s else releaseHeld s n
    if !c.open_ then sweepCases s
    else if c.rerun.isSome then closeCase s n num 3
    else c.range.foldl (fun s mb => sendReplayReq s c mb) s

/-- A case opened, or joined where one is open (R511): `range` its micro-batches, `rerun` the slot of a RERUN case (R502). -/
def openCase (s : State) (n cause : Nat) (range : List Nat) (rerun : Option Nat) : State :=
  match s.integrity.cases.find? (fun c => c.bell == n && c.open_ && c.rerun.isNone && rerun.isNone) with
  | some c =>
    let more := range.filter (fun m => !c.range.contains m)
    let s := modCase s n c.num (fun c => { c with range := range.foldl setIns c.range })
    let c' := { c with range := range.foldl setIns c.range }
    if dropsAtOnce s c' then closeCase s n c.num 2
    else if c.asked then more.foldl (fun s mb => sendReplayReq s c' mb) s
    else s
  | none =>
    let num := ((s.integrity.nextCase.find? (fun e => e.1 == n)).map (·.2)).getD 0
    let others := otherStaged s n
    let c : OwnCase := { bell := n, num := num, open_ := true, cause := cause, range := range.foldl setIns [], rerun := rerun, acks := others,
                         asked := false, verdicts := [] }
    let s := { s with integrity := { s.integrity with
      cases := s.integrity.cases ++ [c]
      nextCase := s.integrity.nextCase.filter (fun e => e.1 != n) ++ [(n, (num + 1) % 256)] } }
    let s := count s (intReg intCasesOpened)
    let s := if rerun.isSome then count s (intReg intReruns) else s
    let s := raiseFlag s 9 (intReg intIntEvent) 31
    let s := others.foldl (fun s m => sendNotice s m (caseNotice s c 1 0)) s
    let s := if dropsAtOnce s c then closeCase s n num 2 else s
    acksIn s n num

/-- This module has sent to another what its own poison reached: an open case of that poison closes DROP at once (R515). -/
def dropSpread (s : State) : State :=
  s.integrity.sentPoison.foldl (fun s n =>
    match s.integrity.cases.find? (fun c => c.bell == n && c.open_ && c.cause == 5 && dropsAtOnce s c) with
    | some c => closeCase s n c.num 2
    | none => s) s

/-! ### Faults (R500, R511, R513) -/

/-- The micro-batches FIRST to LAST as a list. -/
def mbRange (e : Nat × Nat) : List Nat := span e.1 e.2

/-- A fault in step work of bell `n`, by descriptor `desc` of its replay: a case in contribution work, no further flips in update
work; the report says so (R511, R513, R527). -/
def stepFault (s : State) (n desc cause core unit array : Nat) (range : Option (List Nat)) : State :=
  let s := meetMem s (mbWordAt s n desc) 4
  let e := mbEntry s n desc
  let upd := range.isNone && e.isNone
  let status := if cause = 5 then 4 else if cause = 8 then 0 else 5
  let s := modReport s n (fun r => { r with suspect := true })
  let s := reportEvent s n 2 status (cause + (if upd then 256 else 0)) (core + unit * 256 + array * 65536)
  if upd then { s with integrity := { s.integrity with updateFault := setIns s.integrity.updateFault n } }
  else openCase s n cause (range.getD ((e.map mbRange).getD [])) none

/-- A check that failed in an instruction of the program with key `k` is reported (R94, R153, R500): `f` names its cause, bell, core, unit,
array, bank and index; step work also opens a case. -/
def checkFailed (s : State) (k : DescKey) (f : FaultNote) : State :=
  let s := { s with integrity := { s.integrity with
    faults := s.integrity.faults ++ [{ f with desc := (stepBellOf k).map (fun _ => k.place) }] } }
  match stepBellOf k with
  | some n => stepFault s n k.place f.cause f.core f.unit f.array none
  | none => s

/-- One failed check after another reported. -/
def checksFailed (s : State) (k : DescKey) (fs : List FaultNote) : State := fs.foldl (fun s f => checkFailed s k f) s

/-! ### Reads of poison (R508 to R510) -/

/-- Blocks that a write has just poisoned take the origin of the data written (R508, R509, log entry 9). -/
def inheritOrigin (s : State) (puts : List Put) (o : MarkOrigin) : State :=
  let bs := ((puts.filter (·.2.2)).map (fun p => p.1 / 64)).dedup
  { s with integrity := { s.integrity with origins := bs.map (fun b => (b, o)) ++ s.integrity.origins.filter (fun e => !bs.contains e.1) } }

/-- Two marks, each of which may be absent. -/
def joinMark (x y : Option MarkOrigin) : Option MarkOrigin :=
  match x, y with
  | none, y => y
  | x, none => x
  | some x, some y => some (x.join y)

/-- The origin that the poisoned ones among some blocks have together. -/
def originOfBlocks (s : State) (blocks : List Nat) : Option MarkOrigin :=
  (blocks.filter (fun b => poisoned s (64 * b))).foldl (fun o b => joinMark o (some (originOf s (64 * b)))) none

/-- The origin of what an instruction read: poisoned blocks and poisoned bank rows (R508, log entry 9). -/
def originAmong (s : State) (blocks : List Nat) (rows : List (Nat × Nat × MarkOrigin)) : MarkOrigin :=
  (rows.foldl (fun o r => joinMark o (some r.2.2)) (originOfBlocks s blocks)).getD (.other 0)

/-- The block lies where R508 allows a recomputable read: scratchpad, or HBM of region type 0x2 or 0x3. -/
def recomputePlace (s : State) (a : Nat) : Bool :=
  match spaceOf a with
  | .scratch _ _ => true
  | .hbm h => regionType s h == some 2 || regionType s h == some 3
  | _ => false

/-- Bytes of a bucket's summary in a group of `d` members (Table 13.5). -/
def summaryLength (d : Nat) (b : Bucket) : Nat := 64 + 2 * ((d + 63) / 64 * 8) + 16 * b.segs.length

/-- The block holds reduction results of bell `n` (R509). -/
def isReductionResult (s : State) (n a : Nat) : Bool :=
  let d := ((ownPlaceAt s n).map (·.d)).getD 1
  (bucketsOf s n).any (fun b =>
    (decide (b.outAddr / 64 ≤ a / 64) && decide (a / 64 ≤ (b.outAddr + 8 * b.words - 1) / 64)) ||
    (decide (b.sumAddr / 64 ≤ a / 64) && decide (a / 64 ≤ (b.sumAddr + summaryLength d b - 1) / 64)))

/-- The summary of bell `n` is final here (R409). -/
def summaryFinal (s : State) (n : Nat) : Bool := s.summaries.any (fun e => e.1 == n)

/-- Work of the program with key `k` and job `job` on core `c`, unit code `unit`, for MX array `array`, reads a poisoned block at `a`, or a
poisoned bank row where `a` is none; the mark has origin `o` (R508, R509, R510). Control bytes are never recomputable (R586). -/
def poisonRead (s : State) (k : DescKey) (job c unit array : Nat) (a : Option Nat) (o : MarkOrigin) : State :=
  let consume (s : State) : State := consumed (failPart s k c 4) job (a.getD 0) o
  match stepBellOf k with
  | none => consume s
  | some n =>
    let s := meetMem s (mbWordAt s n k.place) 4
    let recomputable := (mbEntry s n k.place).isSome && o.ofBell n && (match a with | none => true | some x => recomputePlace s x)
    if recomputable then stepFault (count s (intReg intPoisonReplay)) n k.place 5 c unit array none
    else
      let results := (match a with | none => false | some x => isReductionResult s n x && !summaryFinal s n)
      let arrived := (match o with
        | .flit src _ => s.integrity.held.any (fun h => h.bell == n && h.suspect == src)
        | _ => false)
      if results || arrived then
        { s with integrity := { s.integrity with pendingUse := s.integrity.pendingUse ++ [⟨n, job, (a.getD 0) / 64, o, results⟩] } }
      else consume s

/-- ARG1 names an array for MX alone (R511). -/
def mxArray (unit array : Nat) : Nat := if unit = 0 then array else 0

/-- Poisoned bank rows that an instruction reads, each acted on once (R508). -/
def poisonRows (s : State) (k : DescKey) (job c unit : Nat) (rows : List (Nat × Nat × MarkOrigin)) : State :=
  rows.foldl (fun s r => poisonRead s k job c unit (mxArray unit r.1) none r.2.2) s

/-- The poisoned blocks among those an instruction reads, each acted on once. -/
def poisonReads (s : State) (k : DescKey) (job c unit array : Nat) (blocks : List Nat) : State :=
  (blocks.filter (fun b => poisoned s (64 * b))).foldl (fun s b => poisonRead s k job c unit array (some (64 * b)) (originOf s (64 * b))) s

/-! ### Update gate helpers -/

/-- The open cases of bell `n` that this member holds (R523). -/
def casesOpen (s : State) (n : Nat) : Bool :=
  s.integrity.cases.any (fun c => c.bell == n && c.open_) || s.integrity.held.any (fun c => c.bell == n)

/-- INT_STATUS.OPEN_CASES (Table 17.7). -/
def openCaseCount (s : State) : Nat := min 255 ((s.integrity.cases.filter (·.open_)).length + s.integrity.held.length)

end Sys2Proof.Machine
end

