-- ==== Sys2Proof/Machine/Operands.lean ====
section
/-! DEFINITION. Stream descriptors of the vector engine, the row reducer and the mover (R125 to R130), the values that streams carry, reading an
element (R132) and converting one for an output (R130, R133, R152), and the counts that conversions feed (R67, R69, R395, R512). -/

namespace Sys2Proof.Machine

/-! ### Values -/

/-- A long accumulator record (Table 5.8). -/
structure LRec where
  sigma : Int
  anchor : Int
  nan : Bool
  pinf : Bool
  ninf : Bool
  ovf : Bool
  deriving DecidableEq, Repr

/-- What a stream or a slot delivers: a number or a record. -/
inductive VVal where
  | num (x : Fnum)
  | lacc (r : LRec)
  deriving DecidableEq, Repr

/-- A value with whether it draws on a poisoned block (R152). -/
structure Val where
  v : VVal
  bad : Bool
  deriving DecidableEq, Repr

/-- The bytes of a record. -/
def LRec.bytes (r : LRec) : List Byte :=
  leBytes 24 (unsigned 192 r.sigma) ++ leBytes 2 (unsigned 16 r.anchor) ++
  leBytes 1 (b2n r.nan + 2 * b2n r.pinf + 4 * b2n r.ninf + 8 * b2n r.ovf) ++ [0, 0, 0, 0, 0]

/-- A record from its bytes. -/
def LRec.ofBytes (bs : List Byte) : LRec :=
  let f := leAt bs 26 1
  { sigma := signed 192 (leAt bs 0 24), anchor := signed 16 (leAt bs 24 2), nan := bit f 0, pinf := bit f 1, ninf := bit f 2,
    ovf := bit f 3 }

/-- A number as integers, for the free values that depend on it. -/
def Fnum.key : Fnum → List Int
  | .nan => [0]
  | .inf n => [1, b2n n]
  | .fin n m e => [2, b2n n, m, e]

/-- A record as integers. -/
def LRec.key (r : LRec) : List Int := [3, r.sigma, r.anchor, b2n r.nan, b2n r.pinf, b2n r.ninf, b2n r.ovf]

/-- A free record, the same for the same operands (R2): the spec states no record here (log entry 4). -/
def freeRec (key : List Int) : LRec := LRec.ofBytes (leBytes 32 (Config.openValue key))

/-- A free value of a format, the same for the same operands (R2, log entry 4). -/
def freeVal (f : FFmt) (key : List Int) : Fnum := f.decode (Config.openValue key % 2 ^ f.width)

/-- The number of a value; a record where a number is needed reads as a free one (log entry 4). -/
def VVal.toNum (v : VVal) : Fnum :=
  match v with
  | .num x => x
  | .lacc r => freeVal fp64 (0 :: r.key)

/-- The record of a value; a number where a record is needed reads as a free one (log entry 4). -/
def VVal.toRec (v : VVal) : LRec :=
  match v with
  | .lacc r => r
  | .num x => freeRec (1 :: x.key)

/-! ### Descriptors (R125, Table 5.2) -/

/-- A stream descriptor; counts are the numbers of elements of a level. -/
structure SDesc where
  kind : Nat
  fmt : Nat
  ret : Bool
  bank : Nat
  maskEn : Bool
  idxw : Bool
  scaleEn : Bool
  scaleBEn : Bool
  wide : Bool
  bucket : Nat
  scaleA : Nat
  scaleB : Nat
  maskAddr : Nat
  addr : Nat
  c0 : Nat
  c1 : Nat
  c2 : Nat
  s0 : Int
  s1 : Int
  s2 : Int
  scAddr : Nat
  sc1 : Int
  sc2 : Int
  indexAddr : Nat
  idxBase : Nat
  is0 : Int
  is1 : Int
  is2 : Int
  tensor : Nat
  rsvd : Bool
  deriving DecidableEq, Repr

/-- A descriptor from its 512 bits (Table 5.2). -/
def SDesc.ofNat (w : Nat) : SDesc where
  kind := bits w 511 508
  fmt := bits w 507 504
  ret := bit w 503
  bank := bits w 502 502
  maskEn := bit w 501
  idxw := bit w 500
  scaleEn := bit w 499
  scaleBEn := bit w 498
  wide := bit w 497
  bucket := bits w 495 484
  scaleA := bits w 483 472
  scaleB := bits w 471 460
  maskAddr := 512 * bits w 459 444
  addr := bits w 443 416
  c0 := bits w 415 400 + 1
  c1 := bits w 399 384 + 1
  c2 := bits w 383 368 + 1
  s0 := signed 32 (bits w 367 336)
  s1 := signed 32 (bits w 335 304)
  s2 := signed 32 (bits w 303 272)
  scAddr := bits w 271 244
  sc1 := signed 16 (bits w 243 228)
  sc2 := signed 16 (bits w 227 212)
  indexAddr := bits w 211 184
  idxBase := bits w 183 136
  is0 := signed 32 (bits w 135 104)
  is1 := signed 32 (bits w 103 72)
  is2 := signed 32 (bits w 71 40)
  tensor := bits w 39 8
  rsvd := bit w 496 || bits w 7 0 != 0

/-- The stream is in an MX format. -/
def SDesc.mx (d : SDesc) : Bool := isMx d.fmt && d.kind != 3

/-- Elements of a stream (R126, R129). -/
def SDesc.n (d : SDesc) : Nat := if d.kind = 2 then 65536 else d.c0 * d.c1 * d.c2

/-- Bytes of an element outside the MX formats (R36, Table 5.8). -/
def SDesc.size (d : SDesc) : Nat := if d.kind = 3 then 32 else if d.wide then 8 else elemBits d.fmt / 8

/-- Level indices of element `j`; a stream of one element has only its first (R126). -/
def SDesc.at0 (d : SDesc) (j : Nat) : Nat := if d.n = 1 then 0 else j % d.c0
/-- Level-1 index of element `j`. -/
def SDesc.at1 (d : SDesc) (j : Nat) : Nat := if d.n = 1 then 0 else j / d.c0 % d.c1
/-- Level-2 index of element `j`. -/
def SDesc.at2 (d : SDesc) (j : Nat) : Nat := if d.n = 1 then 0 else j / (d.c0 * d.c1)

/-- Where a stream's element `j` is numbered in its own order: 0 for a stream of one element. -/
def SDesc.own (d : SDesc) (j : Nat) : Nat := if d.n = 1 then 0 else j

/-- Bytes of an index table entry (R128). -/
def SDesc.idxSize (d : SDesc) : Nat := if d.idxw then 4 else 2

/-- Index t_j of a GATHER or SCATTER stream, at byte offsets of core `c`'s scratchpad (R128). -/
def SDesc.tIndex (d : SDesc) (s : State) (c j : Nat) : Nat :=
  leNat (readMem s.mem (scratchAddr c (d.indexAddr + d.own j * d.idxSize)) d.idxSize)

/-- The level-0 index that places element `j`: t_j for GATHER and SCATTER (R126, R128). -/
def SDesc.first (d : SDesc) (s : State) (c j : Nat) : Nat := if d.kind = 1 then d.tIndex s c j else d.at0 j

/-- The byte offset of element `j` (R126, R127, R128); for an MX stream that of its 32-element block. -/
def SDesc.place (d : SDesc) (s : State) (c j : Nat) : Int :=
  (d.addr : Int) + d.at1 j * d.s1 + d.at2 j * d.s2 +
    (if d.mx then ((d.at0 j / 32 * (4 * elemBits d.fmt) : Nat) : Int) else (d.first s c j : Int) * d.s0)

/-- The byte offset of the scale byte of element `j`'s block (R127). -/
def SDesc.scalePlace (d : SDesc) (j : Nat) : Int := (d.scAddr : Int) + d.at1 j * d.sc1 + d.at2 j * d.sc2 + ((d.at0 j / 32 : Nat) : Int)

/-- The element index of element `j` (R126, R128). -/
def SDesc.index (d : SDesc) (s : State) (c j : Nat) : Nat :=
  unsigned 48 ((d.idxBase : Int) + d.first s c j * d.is0 + d.at1 j * d.is1 + d.at2 j * d.is2)

/-- Bytes that lie at `a`, or a whole MX block. -/
def SDesc.span (d : SDesc) : Nat := if d.mx then 4 * elemBits d.fmt else d.size

/-- `len` bytes at offset `a` lie in the scratchpad. -/
def inPad (a : Int) (len : Nat) : Bool := decide (0 ≤ a) && decide (a + len ≤ scratchSize)

/-- The lowest and highest values of a base and three levels. -/
def reach (base : Int) (ls : List (Nat × Int)) : Int × Int :=
  ls.foldl (fun r l => let x := ((l.1 : Int) - 1) * l.2; (r.1 + min 0 x, r.2 + max 0 x)) (base, base)

/-- The byte ranges a pattern covers, lowest and one past the highest; MX scale bytes too (R127). -/
def SDesc.ranges (d : SDesc) : List (Int × Int) :=
  if d.mx then
    let r := reach d.addr [(d.c1, d.s1), (d.c2, d.s2)]
    let q := reach d.scAddr [(d.c1, d.sc1), (d.c2, d.sc2)]
    [(r.1, r.2 + ((d.c0 + 31) / 32 * (4 * elemBits d.fmt) : Nat)), (q.1, q.2 + ((d.c0 + 31) / 32 : Nat))]
  else
    let r := reach d.addr [(d.c0, d.s0), (d.c1, d.s1), (d.c2, d.s2)]
    [(r.1, r.2 + d.size)]

/-- What a stream covers for the overlap test of R138: the whole scratchpad for GATHER and SCATTER, and of a bank stream the column mask it
reads. -/
def SDesc.extents (d : SDesc) : List Extent :=
  if d.kind = 1 then [(0, scratchSize - 1)]
  else if d.kind = 2 then (if d.maskEn then [(d.maskAddr, d.maskAddr + 15)] else [])
  else d.ranges.map (fun r => (r.1.toNat, (r.2 - 1).toNat))

/-- Two lists of extents share a byte. -/
def overlaps (xs ys : List Extent) : Bool := xs.any (fun x => ys.any (fun y => decide (x.1 ≤ y.2) && decide (y.1 ≤ x.2)))

/-- The cause codes that an enabled stream's descriptor gives (R127 to R129, R140, Table 5.14); `out` says that it is an output. A LACC
stream outside the scratchpad has cause 0x4 as a PATTERN stream has (DESIGN CHOICE, log entry 49), and a GATHER or SCATTER stream in an MX
format, which R128 forbids and R140 does not list, has cause 0x5 (DESIGN CHOICE, log entry 57). -/
def SDesc.causes (d : SDesc) (out : Bool) : List Nat :=
  (if 4 ≤ d.kind ∨ 0xC ≤ d.fmt ∨ (d.kind = 3 ∧ d.fmt ≠ 0) then [1] else []) ++
  (if d.wide && d.fmt != 0xB then [2] else []) ++
  (if (d.kind = 0 ∨ d.kind = 3) ∧ d.ranges.any (fun r => decide (r.1 < 0) || decide ((scratchSize : Int) < r.2)) then [4] else []) ++
  (if d.kind = 1 ∧ scratchSize < d.indexAddr + d.n * d.idxSize then [4] else []) ++
  (if d.mx && (d.kind == 1 || (d.kind == 0 && d.c0 % 32 != 0)) then [5] else []) ++
  (if d.kind = 2 ∧ (out ∨ d.addr ≠ 0 ∨ d.c0 ≠ 1 ∨ d.c1 ≠ 1 ∨ d.c2 ≠ 1 ∨ d.s0 ≠ 0 ∨ d.s1 ≠ 0 ∨ d.s2 ≠ 0 ∨ d.wide ∨ (d.fmt ≠ 1 ∧ d.fmt ≠ 0xB))
    then [6] else []) ++
  (if out && d.scaleBEn then [7] else []) ++
  (if d.rsvd then [8] else [])

/-- The lowest of some cause codes (R75). -/
def lowest : List Nat → Option Nat
  | [] => none
  | c :: cs => some (cs.foldl min c)

/-- The place in scratchpad of stream table entry `i` (R124). -/
def stabAt (s : State) (c i : Nat) : Nat := 512 * fld s (coreReg c coreVxStabBase) 15 0 + 64 * i

/-- Stream table entry `i` of core `c` (R124). -/
def streamDesc (s : State) (c i : Nat) : SDesc := SDesc.ofNat (leNat (readMem s.mem (scratchAddr c (stabAt s c i)) 64))

/-! ### Reading (R128, R129, R132) -/

/-- The exponents a stream's scale entries add (R132). SCALE_B_EN = 1 with SCALE_EN = 0 adds none (DESIGN CHOICE, log entry 49). -/
def SDesc.inExp (d : SDesc) (h : Half) : Int :=
  if d.scaleEn then scaleExp h d.scaleA + (if d.scaleBEn then scaleExp h d.scaleB else 0) else 0

/-- The value in the bytes of an element, before scales; `sb` is the scale byte of an MX element. -/
def SDesc.decode (d : SDesc) (bs : List Byte) (j sb : Nat) : VVal :=
  if d.kind = 3 then .lacc (LRec.ofBytes bs)
  else if d.mx then .num (mxValue d.fmt sb ((leNat bs >>> (elemBits d.fmt * (d.at0 j % 32))) % 2 ^ elemBits d.fmt))
  else if d.wide then .num (.ofInt (signed 48 (leNat bs)))
  else .num (decodeElem d.fmt (leNat bs))

/-- A value under scale exponents. -/
def VVal.shift (v : VVal) (e : Int) : VVal :=
  match v with
  | .num x => .num (x.shift e)
  | r => r

/-- A range of a scratchpad that touches a poisoned block. -/
def padPoisoned (s : State) (c : Nat) (a : Int) (len : Nat) : Bool := rangePoisoned s (scratchAddr c a.toNat) len

/-- Bytes of a scratchpad at a signed offset. -/
def padBytes (s : State) (c : Nat) (a : Int) (len : Nat) : List Byte := readMem s.mem (scratchAddr c a.toNat) len

/-- Word `j` of a bank in the order (a, m, n), with its row's poison (R95, R129). -/
def bankElem (k : Core) (d : SDesc) (j : Nat) : Val :=
  let b := if d.bank = 0 then k.bank0 else k.bank1
  ⟨.num (decodeElem d.fmt (sget 0 b.words j).toNat), b.poison.any (fun r => r.1 == j / 16384 && r.2.1 == j % 16384 / 128)⟩

/-- Offset and length in `SDesc.span` of the bytes that hold bits of element `j`. -/
def SDesc.within (d : SDesc) (j : Nat) : Nat × Nat :=
  if d.mx then
    let b := elemBits d.fmt * (d.at0 j % 32)
    (b / 8, (b + elemBits d.fmt - 1) / 8 - b / 8 + 1)
  else (0, d.size)

/-- Element `j` of an input stream, and whether it fell outside the scratchpad (R128, R132, R152). An MX element is poisoned by the blocks of
its own bytes and of its scale byte; a poisoned index poisons the element it places (DESIGN CHOICE on R152, log entry 57). -/
def readElem (s : State) (c : Nat) (h : Half) (d : SDesc) (j : Nat) : Val × Bool :=
  let e := d.inExp h
  if d.kind = 2 then
    let v := bankElem (coreAt s c) d j
    (⟨v.v.shift e, v.bad⟩, false)
  else
    let a := d.place s c j
    let tbad := d.kind == 1 && padPoisoned s c (d.indexAddr + d.own j * d.idxSize) d.idxSize
    if d.kind = 1 ∧ !inPad a d.size then (⟨.num .zero, tbad⟩, true)
    else
      let sb := if d.mx then (padBytes s c (d.scalePlace j) 1).headD 0 else 0
      let own := d.within j
      let bad := tbad || padPoisoned s c (a + own.1) own.2 || (d.mx && padPoisoned s c (d.scalePlace j) 1)
      (⟨(d.decode (padBytes s c a d.span) j sb.toNat).shift e, bad⟩, false)

/-- The blocks that the elements of a stream lie in, index entries and scale bytes included. -/
def SDesc.blocks (d : SDesc) (s : State) (c : Nat) : List Nat :=
  if d.kind = 2 then []
  else (List.range d.n).flatMap (fun j =>
    let a := d.place s c j
    (if inPad a d.span then blocksOf (scratchAddr c a.toNat) d.span else []) ++
    (if d.mx then blocksOf (scratchAddr c (d.scalePlace j).toNat) 1 else []) ++
    (if d.kind = 1 then blocksOf (scratchAddr c (d.indexAddr + j * d.idxSize)) d.idxSize else []))

/-! ### Tables that an instruction reads (R124, R586) -/

/-- The blocks of some ranges. -/
def rangeBlocks (rs : List (Nat × Nat)) : List Nat := (rs.flatMap (fun r => blocksOf r.1 r.2)).dedup

/-- The scratchpad bytes of column masks that bank inputs apply (R130). -/
def maskBlocks (c : Nat) (ds : List SDesc) : List Nat :=
  ds.flatMap (fun d => if d.kind = 2 && d.maskEn then blocksOf (scratchAddr c d.maskAddr) 16 else [])

/-- Ranges of core `c`'s scratchpad as device addresses; one that reaches outside it is not read. -/
def padRanges (c : Nat) (rs : List (Nat × Nat)) : List (Nat × Nat) :=
  (rs.filter (fun r => decide (r.1 + r.2 ≤ scratchSize))).map (fun r => (scratchAddr c r.1, r.2))

/-- The first of the tables that has a poisoned block (R586). -/
def poisonedTable (s : State) (rs : List (Nat × Nat)) : Option Nat :=
  (rs.find? (fun r => rangePoisoned s r.1 r.2)).map (·.1)

/-! ### Counts -/

/-- What operations and conversions of one instruction count (Tables 2.8 and 5.14). -/
structure Cnt where
  ovf : Nat := 0
  flush : Nat := 0
  gen : Nat := 0
  nf : Nat := 0
  oob : Nat := 0
  drop : Nat := 0
  inexact : Nat := 0
  deriving DecidableEq, Repr

/-- Two counts added. -/
def Cnt.add (a b : Cnt) : Cnt :=
  ⟨a.ovf + b.ovf, a.flush + b.flush, a.gen + b.gen, a.nf + b.nf, a.oob + b.oob, a.drop + b.drop, a.inexact + b.inexact⟩

/-- The counts of a conversion. -/
def Conv.cnt (c : Conv) : Cnt := { ovf := b2n c.ovf, flush := b2n c.flush, nf := b2n c.nf }

/-- The counts of an instruction added to its core's counters. -/
def addCnt (s : State) (c : Nat) (n : Cnt) : State :=
  let s := countBy s (coreReg c coreOvfCount) n.ovf
  let s := countBy s (coreReg c coreFlushCount) n.flush
  let s := countBy s (coreReg c coreNanGenCount) n.gen
  let s := countBy s (coreReg c coreNfConvCount) n.nf
  let s := countBy s (coreReg c coreGatherOob) n.oob
  let s := countBy s (coreReg c coreLaccDrop) n.drop
  countBy s (coreReg c coreSliceInexact) n.inexact

/-- What the conversions of an output feed (R60, R67, R395). -/
structure Stat where
  max : Option Int := none
  ovf : Nat := 0
  vanish : Nat := 0
  n : Nat := 0
  nonfinite : Bool := false
  deriving DecidableEq, Repr

/-- Two of them joined. -/
def Stat.add (a b : Stat) : Stat := ⟨maxOpt a.max b.max, a.ovf + b.ovf, a.vanish + b.vanish, a.n + b.n, a.nonfinite || b.nonfinite⟩

/-- A stat as a side entry. -/
def Stat.side (a : Stat) : SideEntry := ⟨a.max, min a.ovf 0xFFFFFFFF, min a.vanish 0xFFFFFFFF, min a.n 0xFFFFFFFF⟩

/-- The counts of a tensor in bell `n` raised (R60, R67). -/
def addTensor (s : State) (n tensor : Nat) (a : Stat) : State :=
  let old := (s.tensors.find? (fun t => t.bell == n && t.tensor == tensor)).getD ⟨n, tensor, 0, 0, 0, none⟩
  { s with tensors := s.tensors.filter (fun t => !(t.bell == n && t.tensor == tensor)) ++
      [{ old with overflow := old.overflow + a.ovf, vanish := old.vanish + a.vanish, count := old.count + a.n, max := maxOpt old.max a.max }] }

/-- What an output of step work of bell `n` feeds: the tensor's counts, the bucket slot's side entry, NONFINITE, SEG_MISS (R65, R67, R133,
R395, R588). -/
def feedStat (s : State) (n : Nat) (h : Half) (d : SDesc) (a : Stat) : State :=
  let e := scaleEntry h d.scaleA
  let used := d.scaleEn && scaleUsed e
  let s := if used && a.n != 0 then addTensor s n e.tensor a else s
  if d.fmt = 0xB then
    let s := if a.nonfinite then modInst s n d.bucket (fun i => { i with nonfinite := true }) else s
    if d.scaleEn then
      match (bucketOf s n d.bucket).bind (fun b => if b.valid then b.segs.findIdx? (fun g => g.tensor == e.tensor) else none) with
      | some k => if used then modInst s n d.bucket (fun i => { i with entries := modAt i.entries k (fun x => x.join a.side) }) else s
      | none => countBy s (redReg redSegMiss) a.n
    else s
  else s

/-- The history maximum of the tensor of scale entry `e` over the last L of its bells before bell `n` (R60). -/
def historyMax (s : State) (h : Half) (e n : Nat) : Option Int :=
  match s.history.find? (fun x => x.tensor == (scaleEntry h e).tensor) with
  | none => none
  | some x =>
    (((x.maxima.filter (fun m => decide (m.1 < n))).take (scaleEntry h e).len).map (fun m => some m.2)).foldl maxOpt none

/-- The norm check of a bucket slot's segment fed by scale entry `e`, as its conversion completes in unit `unit` of core `c` (R512). -/
def normCheck (s : State) (k : DescKey) (c unit bucket e : Nat) : State :=
  match stepBellOf k with
  | none => s
  | some n =>
    let bound := bits (intSetting s n setIntIntCtrl) 23 20
    if bound = 0 then s
    else
      let h := settingsOf s n
      let seg := (bucketOf s n bucket).bind (fun b => b.segs.findIdx? (fun g => g.tensor == (scaleEntry h e).tensor))
      let own := (seg.bind (fun i => (instanceOf s n bucket).bind (fun x => x.entries[i]?))).bind SideEntry.max
      match own, historyMax s h e n with
      | some m, some hm =>
        if hm + bound < m then
          stepFault (count s (intReg intNormExc)) n k.place 8 c unit 0 (some (List.range (bits (setting h setMbCount) 10 0)))
        else s
      | _, _ => s

/-! ### Writing (R130, R133, R152) -/

/-- How an instruction converts its outputs: the settings, job, bell and rounding of R55 and R133. -/
structure Ctx where
  h : Half
  job : Nat
  bell : Nat
  rnd : Nat
  deriving DecidableEq, Repr

/-- A position of an output stream: its number, its value, and whether it is masked (R130). -/
structure OutPos where
  j : Nat
  val : Val
  masked : Bool
  deriving DecidableEq, Repr

/-- What an output stream has written and counted. -/
structure Written where
  puts : List Put := []
  cnt : Cnt := {}
  stat : Stat := {}
  deriving DecidableEq, Repr

/-- Two of them joined. -/
def Written.add (a b : Written) : Written := ⟨a.puts ++ b.puts, a.cnt.add b.cnt, a.stat.add b.stat⟩

/-- The rounding of an output's element `j` (R53, R55, R133). -/
def Ctx.rounding (x : Ctx) (s : State) (c : Nat) (d : SDesc) (j : Nat) : Rnd :=
  if x.rnd = 1 then
    .sr (srRandom x.job (if d.scaleEn then (scaleEntry x.h d.scaleA).tensor else d.tensor) x.bell (d.index s c j))
  else .rne

/-- The scale exponent of an output (R133). -/
def SDesc.outExp (d : SDesc) (h : Half) : Int := if d.scaleEn then scaleExp h d.scaleA else 0

/-- What one converted element feeds: `x` is the value received. -/
def convStat (x : Fnum) (c : Conv) (sq : Bool) : Stat :=
  { max := stepMax x, ovf := b2n (x.isFin && c.ovf), vanish := b2n c.flush, n := 1, nonfinite := sq && !x.isFin }

/-- `bs` put at a signed scratchpad offset. -/
def putsAt (c : Nat) (a : Int) (bs : List Byte) (bad : Bool) : List Put := bs.zipIdx.map (fun e => (scratchAddr c (a.toNat + e.2), e.1, bad))

/-- The bytes of a converted element, with its conversion. -/
def SDesc.encode (d : SDesc) (x : Ctx) (s : State) (c j : Nat) (v : VVal) : List Byte × Conv × Stat :=
  if d.kind = 3 then (v.toRec.bytes, { enc := 0 }, {})
  else
    let y := v.toNum
    let r := convert d.fmt (y.shift (-(d.outExp x.h))) (x.rounding s c d j)
    let w := if d.wide then unsigned 64 (signed 32 r.enc) else r.enc
    (leBytes d.size w, r, convStat y r (d.fmt == 0xB))

/-- An element of an output outside the MX formats written (R130, R133); a scattered element outside the scratchpad is counted (R128)
and has been converted all the same, so that it feeds the conversion counts (DESIGN CHOICE, log entry 49). At a masked position it is counted
where MASK_EN = 0 would write +0 there, and not where MASK_EN = 1 leaves it unwritten (DESIGN CHOICE, log entry 57). -/
def writeElem (s : State) (c : Nat) (d : SDesc) (x : Ctx) (p : OutPos) : Written :=
  if p.masked && d.maskEn then {}
  else
    let a := d.place s c p.j
    let tbad := d.kind == 1 && padPoisoned s c (d.indexAddr + d.own p.j * d.idxSize) d.idxSize
    let out := d.kind == 1 && !inPad a d.size
    if p.masked then
      if out then { cnt := { oob := 1 } } else { puts := putsAt c a (List.replicate d.size 0) tbad }
    else
      let r := d.encode x s c p.j p.val.v
      { puts := if out then [] else putsAt c a r.1 (p.val.bad || tbad)
        cnt := { r.2.1.cnt with oob := b2n out }
        stat := r.2.2 }

/-- Elements packed into the bytes of an MX block. -/
def packBlock (fmt : Nat) (es : List Nat) : List Byte :=
  leBytes (4 * elemBits fmt) (es.zipIdx.foldl (fun acc e => acc + e.1 <<< (elemBits fmt * e.2)) 0)

/-- The positions whose elements have bits in byte `i` of a packed MX block. -/
def sharingByte (fmt i : Nat) (ps : List OutPos) : List OutPos :=
  ((ps.zipIdx).filter (fun e => decide (elemBits fmt * e.2 < 8 * i + 8) && decide (8 * i < elemBits fmt * e.2 + elemBits fmt))).map (·.1)

/-- The bytes of a mixed MX block that hold a kept element. A byte that a masked element shares is written with that element's bits as
stored, and stays poisoned where they are (R130, R152, R173); `sbad` says that the stored scale byte is poisoned. -/
def mixedPuts (full : State) (c : Nat) (d : SDesc) (a : Int) (bs : List Byte) (ps : List OutPos) (sbad : Bool) : List Put :=
  (List.range d.span).flatMap (fun i =>
    let qs := sharingByte d.fmt i ps
    if qs.all OutPos.masked then []
    else putsAt c (a + i) [byteAt bs i]
      (sbad || qs.any (fun p => !p.masked && p.val.bad) || (qs.any OutPos.masked && padPoisoned full c (a + i) 1)))

/-- A block of 32 positions of an MX output written (R38, R39, R127, R130, R152). `full` holds every write before this block's. A NaN kept
under a stored scale in MXFP6 or MXFP4, which have no NaN, is written as a free encoding and counted as a non-finite conversion (DESIGN
CHOICE, log entry 49). -/
def writeBlock (s full : State) (c : Nat) (d : SDesc) (x : Ctx) (ps : List OutPos) : Written :=
  let j := (ps.head?.map OutPos.j).getD 0
  let a := d.place s c j
  let sa := d.scalePlace j
  let some_ := ps.any OutPos.masked
  let vals := ps.map (fun p => if p.masked then Fnum.zero else p.val.v.toNum)
  let scaled := vals.map (fun v => v.shift (-(d.outExp x.h)))
  let bad := ps.any (fun p => !p.masked && p.val.bad)
  let sum (cs : List Conv) : Written :=
    ((ps.zip (vals.zip cs)).filter (fun e => !e.1.masked)).foldl
      (fun w e => w.add { cnt := e.2.2.cnt, stat := convStat e.2.1 e.2.2 false }) {}
  if d.maskEn && ps.all OutPos.masked then {}
  else if d.maskEn && some_ then
    let stored := (padBytes full c sa 1).headD 0
    let old := leNat (padBytes full c a d.span)
    let one (e : OutPos × Fnum) : Conv :=
      if stored = 0xFF then { enc := 0 }
      else if e.2.isNan && d.fmt != 6 then { enc := Config.openValue [7, d.fmt, stored.toNat] % 2 ^ elemBits d.fmt, nf := true }
      else
        match ffmt d.fmt, e.2 with
        | some f, .inf neg => { enc := f.pack neg f.largest.1 f.largest.2, ovf := true, nf := true }
        | some f, v => f.convert (v.shift (127 - (stored.toNat : Int))) (x.rounding s c d e.1.j)
        | none, _ => { enc := 0 }
    let cs := (ps.zip scaled).map one
    let es := (ps.zip cs).zipIdx.map (fun e =>
      if e.1.1.masked then (old >>> (elemBits d.fmt * e.2)) % 2 ^ elemBits d.fmt else e.1.2.enc)
    { sum cs with puts := mixedPuts full c d a (packBlock d.fmt es) ps (padPoisoned full c sa 1) }
  else
    let r := mxEncode d.fmt scaled (fun i => x.rounding s c d (j + i))
    { sum r.2 with puts := putsAt c a (packBlock d.fmt (r.2.map Conv.enc)) bad ++ putsAt c sa [BitVec.ofNat 8 r.1] bad }

/-- The positions of a group written to an output. -/
def writeGroup (s full : State) (c : Nat) (d : SDesc) (x : Ctx) (ps : List OutPos) : Written :=
  if d.mx then
    (chunks 32 ps.length ps).foldl (fun w b => w.add (writeBlock s (putBytes full w.puts) c d x b)) {}
  else ps.foldl (fun w p => w.add (writeElem s c d x p)) {}

/-- The posted constant of index `i` (R123). -/
def postedConst (h : Half) (i : Nat) : Nat := setting h (0x8000 + 4 * (i % 4096))

/-- The job id an instruction's stochastic rounding uses (R55). -/
def srJob (h : Half) (sl : Slot) (p : Prog) : Nat :=
  if sl = .step ∨ p.key.src = .replay then setting h setJobId else setting h setSideJobId

/-- The tensor counts and norm check of an output apply (R588): step work's bell. -/
def feedOut (s : State) (k : DescKey) (h : Half) (d : SDesc) (a : Stat) : State :=
  match stepBellOf k with
  | some n => feedStat s n h d a
  | none => s

/-- What the later instructions of a slot see: the outstanding writes of its earlier ones, with the marks and origins they leave (R138). -/
def withWrites (s : State) (ops : List FlowOp) (sl : Slot) : State :=
  (ops.filter (fun o => o.slot == sl)).foldl (fun s o => inheritOrigin (putBytes s o.writes) o.writes o.origin) s

/-- The poisoned blocks among those an instruction reads as its slot sees them in `v`, each acted on once. -/
def viewReads (s v : State) (k : DescKey) (job c unit : Nat) (blocks : List Nat) : State :=
  ((blocks.filter (fun b => poisoned v (64 * b))).dedup).foldl (fun s b => poisonRead s k job c unit 0 (some (64 * b)) (originOf v (64 * b))) s

end Sys2Proof.Machine
end

