-- ==== Sys2Proof/Machine/Tile.lean ====
section
/-! DEFINITION. The matrix arrays: MX instructions, operands, issue, the column sum and its rounding, banks, and the spot audit
(R71 to R95, R504 to R506, R586, R587). -/

namespace Sys2Proof.Machine

/-! ### MX instruction fields (Table 3.2) -/

/-- OP. -/
def mxOp (w : Nat) : Nat := bits w 127 124
/-- FMT_W. -/
def mxFmtW (w : Nat) : Nat := bits w 123 120
/-- FMT_A. -/
def mxFmtA (w : Nat) : Nat := bits w 119 116
/-- ACC. -/
def mxAcc (w : Nat) : Bool := bit w 115
/-- BANK. -/
def mxBank (w : Nat) : Nat := bits w 114 114
/-- REL. -/
def mxRel (w : Nat) : Bool := bit w 113
/-- WT. -/
def mxWt (w : Nat) : Bool := bit w 112
/-- AT. -/
def mxAt (w : Nat) : Bool := bit w 111
/-- The weight tile's first byte in scratchpad. -/
def mxWeight (w : Nat) : Nat := 512 * bits w 110 95
/-- The first byte of array `a`'s activation block (R77). -/
def mxAct (w a : Nat) : Nat := 512 * (bits w 94 79 + a * bits w 78 67)
/-- The first byte of the scale area (R78). -/
def mxScale (w : Nat) : Nat := 512 * bits w 66 51

/-- The wait of an MX instruction is satisfied (R73, R284). -/
def mxWait (s : State) (c w : Nat) : Bool := !bit w 50 || waitMet s c (bits w 49 44) (bits w 43 28)

/-- The weight and activation formats form a pair of Table 3.1 (R72). -/
def pairAllowed (fw fa : Nat) : Bool :=
  ([4, 5, 6, 7, 8].contains fw && [4, 5, 6, 7, 8].contains fa) ||
  (fw == fa && [9, 0xA, 2, 3].contains fw)

/-- The contraction length of a tile (Table 3.1). -/
def tileK (fmt : Nat) : Nat := if fmt = 9 then 256 else 128

/-- Scale blocks along the contraction (R78). -/
def scaleBlocks (fmt : Nat) : Nat := tileK fmt / 32

/-- Bytes of a weight tile or of one activation block: 128 × K elements (R76, R77). -/
def tileBytes (fmt : Nat) : Nat := 128 * tileK fmt * elemBits fmt / 8

/-- Bytes of the scale area an instruction reads (R78). -/
def scaleBytes (w : Nat) : Nat :=
  let nb := 128 * scaleBlocks (mxFmtW w)
  (if isMx (mxFmtW w) then nb else 0) + (if isMx (mxFmtA w) then 4 * nb else 0)

/-- The invalidity of an MX instruction, as its lowest cause code (R74, R75, Table 3.6). -/
def mxCause (w : Nat) : Option Nat :=
  if 2 ≤ mxOp w then some 1
  else if mxOp w = 0 then (if bits w 7 0 = 0 then none else some 4)
  else if !pairAllowed (mxFmtW w) (mxFmtA w) then some 1
  else if scratchSize < mxWeight w + tileBytes (mxFmtW w)
      || (List.range 4).any (fun a => decide (scratchSize < mxAct w a + tileBytes (mxFmtA w)))
      || ((isMx (mxFmtW w) || isMx (mxFmtA w)) && decide (scratchSize < mxScale w + scaleBytes w)) then some 2
  else if (mxWt w || mxAt w) && (isMx (mxFmtW w) || isMx (mxFmtA w)) then some 3
  else if bits w 7 0 ≠ 0 then some 4
  else none

/-! ### Banks (R86, R87, R289) -/

/-- Bank `b` of a core. -/
def bankOf (k : Core) (b : Nat) : Bank := if b = 0 then k.bank0 else k.bank1

/-- A core with bank `b` changed. -/
def modBank (b : Nat) (f : Bank → Bank) (k : Core) : Core :=
  if b = 0 then { k with bank0 := f k.bank0 } else { k with bank1 := f k.bank1 }

/-- A TILE of a slot that names this bank need not wait for its credit (R87, R289). -/
def bankReady (b : Bank) (sl : Slot) : Bool :=
  match b.state with
  | .free => true
  | .opened => !b.closing && b.owner == some sl
  | .released => false

/-- The MX_BANKS code of a bank's state (Table 3.6). -/
def bankCode : BankState → Nat
  | .free => 0
  | .opened => 1
  | .released => 2

/-- The slot's next MX instruction could issue now (R26, R80, R87, R505). -/
def mxCanIssue (s : State) (c : Nat) (sl : Slot) : Bool :=
  match (progOf s c .mx sl).bind (fun p => (nextIndex p).map (fun i => (p, i))) with
  | none => false
  | some (p, i) =>
    let w := headWord s c .mx p i
    let k := coreAt s c
    !headPoisoned s c .mx p i && (mxCause w).isNone && mxWait s c w &&
    (mxOp w == 0 || (k.loading.isNone && !(k.audit.any (·.running)) && bankReady (bankOf k (mxBank w)) sl))

/-- It is this slot's turn: the step slot's always, the side-street slot's under R288 and R319. -/
def mxTurn (s : State) (c : Nat) (sl : Slot) : Bool :=
  sl == .step || sideAllowed s (coreAt s c).mx (mxCanIssue s c .step)

/-- An MX SYNC issues and signals (R73, R80). -/
def mxSyncEffect (s : State) (c : Nat) (sl : Slot) : State :=
  match headOf s c .mx sl with
  | (s, none) => s
  | (s, some (p, i, w)) =>
    match mxCause w with
    | some cause => haltInvalid s c .mx sl i cause
    | none =>
      if mxOp w = 0 && mxWait s c w && mxTurn s c sl then
        instrDone (signalIf (advance s c .mx sl) (bit w 27) (bits w 26 21) (bits w 20 15)) p.key c
      else s

/-! ### Operands (R76 to R78, R95, R587) -/

/-- The blocks of `len` bytes of core `c`'s scratchpad from byte `x`. -/
def padBlocks (c x len : Nat) : List Nat := blocksOf (scratchAddr c x) len

/-- Bytes of core `c`'s scratchpad. -/
def padRead (s : State) (c x len : Nat) : List Byte := readMem s.mem (scratchAddr c x) len

/-- Where array `a`'s activation scales begin (R78). -/
def actScale (w a : Nat) : Nat :=
  let nb := 128 * scaleBlocks (mxFmtW w)
  mxScale w + (if isMx (mxFmtW w) then nb else 0) + a * nb

/-- Bytes of one activation line: a row where AT = 0, a k where AT = 1 (R77). -/
def actLine (w : Nat) : Nat := (if mxAt w then 128 else tileK (mxFmtA w)) * elemBits (mxFmtA w) / 8

/-- Bytes of weight scales (R78). -/
def weightScales (w : Nat) : Nat := if isMx (mxFmtW w) then 128 * scaleBlocks (mxFmtW w) else 0

/-- Clocks a line of activations takes to read: two in BF16 and FP16 (R82, R587). -/
def lineClocks (w : Nat) : Nat := if elemBits (mxFmtA w) = 16 then 2 else 1

/-- Clocks of a pass or of a transpose fill (R81, R82). -/
def passClocks (w : Nat) : Nat := 128 * lineClocks w

/-- Clocks over which a TILE's load reads: weights at 128 B, weight scales at 8 B a clock, and the transpose fill (R81, R587). -/
def loadClocks (w : Nat) : Nat :=
  max (max ((tileBytes (mxFmtW w) + 127) / 128) ((weightScales w + 7) / 8)) (if mxAt w then passClocks w else 0)

/-- The read of `len` bytes of the scratchpad from byte `x` by a TILE: what it meets, and the mark the bytes carry (R166, R508, R587). Weights,
which all four arrays take, are read as array 0's in ARG1 (R511; DESIGN CHOICE, log entry 55). -/
def tileRead (s : State) (c : Nat) (op : TileOp) (array x len : Nat) : State × TileOp × List Byte × Option MarkOrigin :=
  let s := strike s (padBlocks c x len)
  let bad := (padBlocks c x len).filter (fun b => poisoned s (64 * b))
  let o := originOfBlocks s bad
  let s := poisonReads s op.key op.job c 0 array (bad.filter (fun b => !op.met.contains b))
  (s, { op with met := op.met ++ bad.filter (fun b => !op.met.contains b) }, padRead s c x len, o)

/-- The rows whose elements lie in a poisoned block of `len` bytes from byte `x` of line `k` of array `a`'s activation block (R95). -/
def rowsFed (s : State) (c w a k x len : Nat) : List Nat :=
  let eb := elemBits (mxFmtA w) / 8
  let bad := (padBlocks c x len).filter (fun b => poisoned s (64 * b))
  if bad.isEmpty then []
  else (List.range 128).filter (fun m => (padBlocks c (mxAct w a + k * actLine w + m * eb) eb).any bad.contains)

/-- Activation clock `j` of array `a`: the line's bytes of that clock, with a row's scale bytes in its first clock (R587). Where a line takes two
clocks, its lower half is read in the first (DESIGN CHOICE: R587 names no half, log entry 16). -/
def actClock (c j : Nat) (r : State × TileOp) (a : Nat) : State × TileOp :=
  let w := r.2.word
  let len := actLine w / lineClocks w
  let line := j / lineClocks w
  let x := mxAct w a + j * len
  let q := tileRead r.1 c r.2 a x len
  let s := q.1
  let op := { q.2.1 with acts := modAt q.2.1.acts a (· ++ q.2.2.1) }
  let rows := if mxAt w then rowsFed s c w a line x len else [line]
  let mark (op : TileOp) (o : Option MarkOrigin) (rows : List Nat) : TileOp :=
    match o with
    | some o => { op with poisonRows := op.poisonRows ++ rows.map (fun m => (a, m, o)) }
    | none => op
  let op := mark op q.2.2.2 rows
  if isMx (mxFmtA w) && j % lineClocks w == 0 then
    let n := scaleBlocks (mxFmtA w)
    let q := tileRead s c op a (actScale w a + line * n) n
    (q.1, mark { q.2.1 with aScales := modAt q.2.1.aScales a (· ++ q.2.2.1) } q.2.2.2 [line])
  else (s, op)

/-- One clock of a TILE's weight load, and of its transpose fill where AT = 1 (R81, R587). -/
def loadClock (c : Nat) (r : State × TileOp) : State × TileOp :=
  let w := r.2.word
  let j := r.2.loadClk
  let n := min 128 (tileBytes (mxFmtW w) - 128 * j)
  let m := min 8 (weightScales w - 8 * j)
  let q := tileRead r.1 c r.2 0 (mxWeight w + 128 * j) n
  let op := { q.2.1 with weights := q.2.1.weights ++ q.2.2.1, poisonAll := joinMark q.2.1.poisonAll q.2.2.2 }
  let q := tileRead q.1 c op 0 (mxScale w + 8 * j) m
  let op := { q.2.1 with wScales := q.2.1.wScales ++ q.2.2.1, poisonAll := joinMark q.2.1.poisonAll q.2.2.2, loadClk := j + 1 }
  if mxAt w && decide (j < passClocks w) then (List.range 4).foldl (actClock c j) (q.1, op) else (q.1, op)

/-- One clock of a TILE's pass: with AT = 0 it reads activations (R587). -/
def passClock (c : Nat) (r : State × TileOp) : State × TileOp :=
  let j := r.2.passClk
  let q := if mxAt r.2.word then r else (List.range 4).foldl (actClock c j) r
  (q.1, { q.2 with passClk := j + 1 })

/-- The clocks of a TILE's load that have not been read yet, read. -/
def loadRest (c : Nat) (r : State × TileOp) : State × TileOp :=
  (List.range (loadClocks r.2.word - r.2.loadClk)).foldl (fun r _ => loadClock c r) r

/-- The clocks of a TILE's pass that have not been read yet, read. -/
def passRest (c : Nat) (r : State × TileOp) : State × TileOp :=
  (List.range (passClocks r.2.word - r.2.passClk)).foldl (fun r _ => passClock c r) r

/-- A TILE without what it has read, as an audit that takes the arrays leaves it (R506). -/
def TileOp.unread (op : TileOp) : TileOp :=
  { op with loadClk := 0, weights := [], wScales := [], acts := [[], [], [], []], aScales := [[], [], [], []], poisonAll := none, poisonRows := [] }

/-- One arithmetic clock of core `c`'s arrays: a load that runs and the pass read the bytes of that clock (R587). A running audit holds the
weight path (R505). -/
def arrayClock (s : State) (c : Nat) : State :=
  let k := coreAt s c
  let s := match k.loading with
    | some op =>
      if k.audit.any (·.running) || decide (loadClocks op.word ≤ op.loadClk) then s
      else let r := loadClock c (s, op); modCore r.1 c (fun k => { k with loading := some r.2 })
    | none => s
  match k.pass with
  | some op =>
    if passClocks op.word ≤ op.passClk then s
    else let r := passClock c (s, op); modCore r.1 c (fun k => { k with pass := some r.2 })
  | none => s

/-- One arithmetic clock of the module with no command waiting: its time base advances, packets wait for credits, and every core's arrays
read the bytes of that clock (log entry 1). -/
def idleClock (s : State) : State := (List.range 64).foldl arrayClock { stallClocks s 1 with now := s.now + 1 }

/-- A core's arrays have bytes still to read. -/
def arraysRead (k : Core) : Bool :=
  (k.loading.any (fun op => decide (op.loadClk < loadClocks op.word)) && !k.audit.any (·.running)) ||
  k.pass.any (fun op => decide (op.passClk < passClocks op.word))

/-- Clocks pass, at most `k` and no more than the arrays have bytes to read in. -/
def readClocks : Nat → State → State
  | 0, s => s
  | k + 1, s =>
    if s.cores.any arraysRead then readClocks k ((List.range 64).foldl arrayClock { s with now := s.now + 1 }) else s

/-- The clocks up to time `t` pass, as they do with no command waiting: in each the arrays read its bytes and packets wait for credits (R587,
Table 12.9). No load and no pass is as long as 8,192 clocks. -/
def advanceTo (s : State) (t : Nat) : State :=
  let s := readClocks (min (t - s.now) 8192) (stallClocks s (t - s.now))
  { s with now := max s.now t }

/-- The array that the next step TILE of bell `n` would be audited on (R504). -/
def auditPick (s : State) (k : Core) (n : Nat) : Option Nat :=
  let lg := bits (intSetting s n setIntIntCtrl) 27 24
  let c := ((k.tileCount.find? (fun e => e.1 == n)).map (·.2)).getD 0
  if lg < 15 ∧ c % 2 ^ lg = 2 ^ lg - 1 then some ((c >>> lg) % 4) else none

/-- One more step TILE of bell `n` counted (R504); counts of bells no longer held are dropped. -/
def countTile (n : Nat) (k : Core) : Core :=
  let c := ((k.tileCount.find? (fun e => e.1 == n)).map (·.2)).getD 0
  { k with tileCount := (k.tileCount.filter (fun e => e.1 != n && decide (n < e.1 + 6))) ++ [(n, c + 1)] }

/-- A TILE issues: it spends the bank's credit where free, closes it where REL = 1, and its weight load begins, in this clock where a pass
runs (R80, R81, R87, R587). -/
def tileIssueEffect (s : State) (c : Nat) (sl : Slot) : State :=
  match headOf s c .mx sl with
  | (s, none) => s
  | (s, some (p, i, w)) =>
    match mxCause w with
    | some cause => haltInvalid s c .mx sl i cause
    | none =>
      if mxOp w = 1 && mxCanIssue s c sl && mxTurn s c sl then
        let bell := slotBell s sl p
        let pick := if sl = .step then auditPick s (coreAt s c) bell else none
        let busy := (coreAt s c).audit.isSome || ((coreAt s c).pass.any (fun o => o.auditArray.isSome))
        let s := if pick.isSome && busy then count s (intReg intAuditSkip) else s
        let op : TileOp := {
          word := w, slot := sl, key := p.key, job := p.job, bell := bell, index := i, auditArray := if busy then none else pick }
        let r := if (coreAt s c).pass.isSome then loadClock c (s, op) else (s, op)
        let s := modCore r.1 c (fun k =>
          let k := modBank (mxBank w) (fun b => { b with
            state := .opened
            owner := (if b.state = .free then some sl else b.owner)
            closing := (b.closing || mxRel w) }) k
          let k := if sl = .step then countTile bell k else k
          { k with loading := some r.2 })
        advance s c .mx sl
      else s

/-! ### The column sum (R89 to R92) -/

/-- Element `j` of a line of packed elements. -/
def packed (fmt line j : Nat) : Nat := (line >>> (elemBits fmt * j)) % 2 ^ elemBits fmt

/-- The lines of a block of bytes as little-endian numbers. -/
def linesOf (n : Nat) (bs : List Byte) : List Nat := (chunks n bs.length bs).map leNat

/-- Column `n` of the weight tile: its cells along k, with their block scales (R37, R76, R78). -/
def weightColumn (op : TileOp) (lines : List Nat) (n : Nat) : List Fnum :=
  let f := mxFmtW op.word
  (List.range (tileK f)).map (fun k =>
    let e := if mxWt op.word then packed f (lines.getD n 0) k else packed f (lines.getD k 0) n
    if isMx f then mxValue f (byteAt op.wScales (k / 32 * 128 + n)).toNat e else decodeElem f e)

/-- Row `m` of array `a`'s activations along k (R37, R77, R78). -/
def actRow (op : TileOp) (a : Nat) (lines : List Nat) (m : Nat) : List Fnum :=
  let f := mxFmtA op.word
  let nb := scaleBlocks f
  (List.range (tileK f)).map (fun k =>
    let e := if mxAt op.word then packed f (lines.getD k 0) m else packed f (lines.getD m 0) k
    if isMx f then mxValue f (byteAt (op.aScales.getD a []) (m * nb + k / 32)).toNat e else decodeElem f e)

/-- A column sum: its value, the products of which a part was discarded, and whether it is a NaN from operands without one. -/
structure ColSum where
  val : Fnum
  drops : Nat
  gen : Bool
  deriving DecidableEq, Repr

/-- The exact column sum of a row of products, each placed at 2^(P − 95) and above, the rest of it discarded toward zero
(R89, R91, R92). Of a column that holds a NaN or infinite product nothing is counted as discarded: R89 gives it no position P (DESIGN
CHOICE, log entry 49). -/
def columnSum (ws xs : List Fnum) : ColSum :=
  let ps := ws.zipWith Fnum.mul xs
  let noNan := !(ws.any Fnum.isNan || xs.any Fnum.isNan)
  if ps.any Fnum.isNan || (ps.contains (.inf false) && ps.contains (.inf true)) then ⟨.nan, 0, noNan⟩
  else if ps.contains (.inf false) then ⟨.inf false, 0, false⟩
  else if ps.contains (.inf true) then ⟨.inf true, 0, false⟩
  else
    let nz := ps.filter (fun p => !p.isZero)
    match nz with
    | [] => ⟨.fin (ps.all Fnum.neg?) 0 0, 0, false⟩
    | p :: rest =>
      let base := rest.foldl (fun a q => max a q.log2) p.log2 - 95
      let place (q : Fnum) : Int × Nat :=
        match q with
        | .fin neg m e =>
          let v := if base ≤ e then m <<< (e - base).toNat else m >>> (base - e).toNat
          let d := if base ≤ e then 0 else if m % 2 ^ (base - e).toNat = 0 then 0 else 1
          (if neg then -(v : Int) else (v : Int), d)
        | _ => (0, 0)
      let r := nz.foldl (fun (acc : Int × Nat) q => let x := place q; (acc.1 + x.1, acc.2 + x.2)) (0, 0)
      ⟨.fin (decide (r.1 < 0)) r.1.natAbs base, r.2, false⟩

/-- A bank word combined with a column sum, with a single rounding (R88, R90, R91): the word and what it counts (overflow, flush,
NaN creation). A NaN that the column makes is not counted where ACC = 1 and the bank word is a NaN already, which is then taken as an
operand (DESIGN CHOICE on R91, log entry 57). -/
def combine (fmt : Nat) (acc : Bool) (old : Word) (c : ColSum) : Word × Nat × Nat × Nat :=
  if fmt = 0xA then
    let v := (if acc then old.toInt else 0) + c.val.toInt
    let r := max (-(2 ^ 31)) (min (2 ^ 31 - 1) v)
    (BitVec.ofInt 32 r, if v = r then 0 else 1, 0, 0)
  else
    let o := fp32.decode old.toNat
    let x := if acc then o.add c.val else c.val
    let e := fp32.convert x .rne
    let gen := x.isNan && (c.gen || !c.val.isNan) && !(acc && o.isNan)
    (BitVec.ofNat 32 e.enc, if x.isFin && e.ovf then 1 else 0, if e.flush then 1 else 0, b2n gen)

/-- The results of a pass: the new words of the bank, and the counts of COLSUM_DROP, overflow, flush and NaN creation. -/
structure PassResult where
  words : Sparse Word
  drops : Nat
  ovf : Nat
  flush : Nat
  gen : Nat
  deriving DecidableEq, Repr

/-- The pass of a TILE over a bank's prior words (R86, R88). -/
def runPass (op : TileOp) (old : Sparse Word) : PassResult :=
  let w := op.word
  let wl := linesOf ((if mxWt w then tileK (mxFmtW w) else 128) * elemBits (mxFmtW w) / 8) op.weights
  let cols := (List.range 128).map (weightColumn op wl)
  let cells := (List.range 4).flatMap (fun a =>
    let al := linesOf (actLine w) (op.acts.getD a [])
    (List.range 128).flatMap (fun m =>
      let row := actRow op a al m
      cols.zipIdx.map (fun col =>
        let i := a * 16384 + m * 128 + col.2
        let c := columnSum col.1 row
        (i, c.drops, combine (mxFmtW w) (mxAcc w) (sget 0 old i) c))))
  { words := cells.filterMap (fun x => if x.2.2.1 = 0 then none else some (x.1, x.2.2.1))
    drops := (cells.map (·.2.1)).sum, ovf := (cells.map (·.2.2.2.1)).sum
    flush := (cells.map (·.2.2.2.2.1)).sum, gen := (cells.map (·.2.2.2.2.2)).sum }

/-- The column sums of array `a` rounded as under ACC = 0 (R504). -/
def keptSums (op : TileOp) (a : Nat) : List Word :=
  let w := op.word
  let wl := linesOf ((if mxWt w then tileK (mxFmtW w) else 128) * elemBits (mxFmtW w) / 8) op.weights
  let cols := (List.range 128).map (weightColumn op wl)
  let al := linesOf (actLine w) (op.acts.getD a [])
  (List.range 128).flatMap (fun m => cols.map (fun col => (combine (mxFmtW w) false 0 (columnSum col (actRow op a al m))).1))

/-! ### Pass and completion (R82, R83, R93 to R95) -/

/-- A handover or a FLIP of bell `n` waits on an audit (R506). -/
def auditPending (s : State) (n : Nat) : Bool := s.cores.any (fun k => k.audit.any (fun a => a.bell == n))

/-- A handover or flip waits on the audits of bell `n`. -/
def auditAwaited (s : State) (n : Nat) : Bool := s.handWait.any (fun e => e.2 == n) || s.flipWait.any (fun e => e.2.1 == n)

/-- An audit holds the arrays, or takes them before the next pass because something waits on it (R505, R506). -/
def auditHolds (s : State) (k : Core) : Bool := k.audit.any (fun a => a.running || auditAwaited s a.bell)

/-- The pass of the loaded TILE starts once the previous pass has ended and no audit holds the arrays or is awaited: its load is complete, its
first clock reads, and a selected TILE becomes the core's pending audit (R82, R504 to R506, R587). -/
def passStartEffect (s : State) (c : Nat) : State :=
  let k := coreAt s c
  match k.loading with
  | none => s
  | some op =>
    if k.pass.isSome || auditHolds s k then s
    else
      let r := passClock c (loadRest c (s, op))
      let audit := match op.auditArray with
        | some a => if k.audit.isNone then some { bell := op.bell, array := a, op := r.2, kept := [], running := false : Audit } else k.audit
        | none => k.audit
      modCore r.1 c (fun k => { k with loading := none, pass := some r.2, audit := audit })

/-- The audit of TILE `op`, where it is the pending one, with the operands it has read and the column sums kept (R504). -/
def auditCopy (op : TileOp) (a : Audit) : Audit :=
  if a.op.index = op.index ∧ a.op.key = op.key ∧ a.kept = [] then { a with op := op, kept := keptSums op a.array } else a

/-- The pass ends: the scratchpad reads are finished, failed checks are counted and reported, and then RSIG_EN signals (R83, R93, R94,
R500). `up.check` names the array of each failed check. -/
def passEndEffect (s : State) (c : Nat) (up : Upset) : State :=
  match (coreAt s c).pass with
  | none => s
  | some op =>
    let r := passRest c (s, op)
    let op := r.2
    let bad := up.check.filter (· < 4)
    let s := countBy r.1 (coreReg c coreMxResidue) bad.length
    let s := checksFailed s op.key (bad.map (fun a => ⟨1, op.bell, c, 0, a, mxBank op.word, op.index, none⟩))
    let s := modCore s c (fun k => { k with pass := none, drain := k.drain ++ [op], audit := k.audit.map (auditCopy op) })
    signalIf s (bit op.word 14) c (bits op.word 13 8)

/-- The row of aligned 64-bit word `w` of a bank, as array and row. -/
def bankRow (w : Nat) : Nat × Nat := (w / 8192, w % 8192 / 64)

/-- Bank `b` of core `c` read: wrong bits are corrected, or the words stay as read, their row is poisoned and the error is recorded (R95,
R166). -/
def strikeBank (s : State) (c b : Nat) : State :=
  if s.flaws.isEmpty then s
  else
    let mine := s.flaws.filter (fun f => match f.place with | .bank c' b' _ => c' == c && b' == b | _ => false)
    let ws := (mine.filterMap (fun f => match f.place with | .bank _ _ w => some w | _ => none)).dedup
    let s := ws.foldl (fun s w =>
      let fs := flawsAt s (.bank c b w)
      if wrongBits fs ≤ 1 then s
      else
        let o : MarkOrigin := .own (bellNum s) (coreSource c)
        let s := modCore s c (modBank b (fun k =>
          let bs := (leBytes 4 (sget 0 k.words (2 * w)).toNat ++ leBytes 4 (sget 0 k.words (2 * w + 1)).toNat).map BitVec.toNat
          let n := leNat ((applyFlaws fs bs).map (BitVec.ofNat 8))
          { k with
            words := sput 0 (sput 0 k.words (2 * w) (BitVec.ofNat 32 n)) (2 * w + 1) (BitVec.ofNat 32 (n / 2 ^ 32))
            poison := k.poison.filter (fun r => (r.1, r.2.1) != bankRow w) ++ [((bankRow w).1, (bankRow w).2, o)] }))
        submitEvent s 0x2002 (coreSource c) 0 (leBytes 8 0)) s
    clearFlaws s (fun p => match p with | .bank c' b' _ => c' == c && b' == b | _ => false)

/-- A bank's SRAM rewritten whole: what was wrong there is gone. -/
def freshBank (s : State) (c b : Nat) : State := clearFlaws s (fun p => match p with | .bank c' b' _ => c' == c && b' == b | _ => false)

/-- The poison marks of a bank's rows after a pass (R95). -/
def passMarks (op : TileOp) (old : List (Nat × Nat × MarkOrigin)) : List (Nat × Nat × MarkOrigin) :=
  let rows := (List.range 4).flatMap (fun a => (List.range 128).map (fun m => (a, m)))
  let among (ms : List (Nat × Nat × MarkOrigin)) (r : Nat × Nat) : Option MarkOrigin :=
    (ms.filter (fun x => x.1 == r.1 && x.2.1 == r.2)).foldl (fun o x => joinMark o (some x.2.2)) none
  rows.filterMap (fun r =>
    (joinMark (joinMark op.poisonAll (among op.poisonRows r)) (if mxAcc op.word then among old r else none)).map (fun o => (r.1, r.2, o)))

/-- The bank is complete: an accumulating pass has read what it held, the results are written, then SIG_EN and REL (R83, R88, R95, R508). -/
def bankCompleteEffect (s : State) (c : Nat) : State :=
  match (coreAt s c).drain with
  | [] => s
  | op :: rest =>
    let w := op.word
    let s := if mxAcc w then strikeBank s c (mxBank w) else freshBank s c (mxBank w)
    let b := bankOf (coreAt s c) (mxBank w)
    let s := if mxAcc w then poisonRows s op.key op.job c 0 b.poison else s
    let r := runPass op b.words
    let s := countBy s (coreReg c coreColsumDrop) r.drops
    let s := countBy s (coreReg c coreOvfCount) r.ovf
    let s := countBy s (coreReg c coreFlushCount) r.flush
    let s := countBy s (coreReg c coreNanGenCount) r.gen
    let s := modCore s c (fun k => modBank (mxBank w) (fun b => { b with
      words := r.words, poison := passMarks op b.poison, state := if mxRel w then .released else b.state }) { k with drain := rest })
    instrDone (signalIf s (bit w 27) (bits w 26 21) (bits w 20 15)) op.key c

/-! ### The spot audit (R505, R506) -/

/-- A pending audit takes the arrays: when they are idle, or, where something waits on it, once no pass runs (R505, R506). A weight load that had begun is repeated after it. -/
def auditStartEffect (s : State) (c : Nat) : State :=
  let k := coreAt s c
  match k.audit with
  | none => s
  | some a =>
    let idle := k.loading.isNone && !mxCanIssue s c .step && !(sideAllowed s k.mx (mxCanIssue s c .step) && mxCanIssue s c .side)
    if !a.running && k.pass.isNone && (idle || auditAwaited s a.bell) then
      modCore s c (fun k => { k with audit := some { a with running := true }, loading := k.loading.map TileOp.unread })
    else s

/-- The audit ends: counted, and a difference opens a case with cause 0x04 (R505, R511, Table 18.5). -/
def auditEndEffect (s : State) (c : Nat) (differs : Bool) : State :=
  match (coreAt s c).audit with
  | some a =>
    if a.running then
      let s := count s (intReg intAuditsRun)
      let s := modCore s c (fun k => { k with audit := none })
      if differs then
        let s := count s (intReg intAuditFail)
        let s := raiseFlag s 9 (intReg intIntEvent) 29
        let s := submitEvent s 0x5002 (coreSource c) 5 (leBytes 8 a.bell)
        checkFailed s a.op.key ⟨4, a.bell, c, 0, a.array, mxBank a.op.word, a.op.index, none⟩
      else s
    else s
  | none => s

/-! ### The commands -/

/-- A command of core `c`'s units takes effect while the package runs; otherwise its event does not occur (log entry 6). -/
def coreEvent (s : State) (c : Nat) (t : State) : Host.Outcome State Fault Refusal :=
  .next (if live s && okCore c then t else s)

/-- MX_SYNC (R73, R80). -/
def execMxSync (core : Nat) (slot : Slot) (up : Upset) (s : State) : Host.Outcome State Fault Refusal :=
  coreEvent s core (mxSyncEffect (plant s up) core slot)

/-- MX_TILE_ISSUE (R80, R81). -/
def execMxTileIssue (core : Nat) (slot : Slot) (up : Upset) (s : State) : Host.Outcome State Fault Refusal :=
  coreEvent s core (tileIssueEffect (plant s up) core slot)

/-- TILE_PASS_START (R82). -/
def execTilePassStart (core : Nat) (up : Upset) (s : State) : Host.Outcome State Fault Refusal :=
  coreEvent s core (passStartEffect (plant s up) core)

/-- TILE_PASS_END (R83). -/
def execTilePassEnd (core : Nat) (s : State) (up : Upset := {}) : Host.Outcome State Fault Refusal :=
  coreEvent s core (passEndEffect (plant s up) core up)

/-- TILE_BANK_COMPLETE (R83). -/
def execTileBankComplete (core : Nat) (up : Upset) (s : State) : Host.Outcome State Fault Refusal :=
  coreEvent s core (bankCompleteEffect (plant s up) core)

/-- AUDIT_START (R505). -/
def execAuditStart (core : Nat) (s : State) : Host.Outcome State Fault Refusal :=
  coreEvent s core (auditStartEffect s core)

end Sys2Proof.Machine
end

