-- ==== Sys2Proof/Machine/Vector.lean ====
section
/-! DEFINITION. The vector engine: VX instructions, recipes and their operations, the long accumulator, sliced FP64, issue, and the order in
which one instruction's groups read and write (R121 to R143, R152, R153). -/

namespace Sys2Proof.Machine

/-! ### Instruction fields (Table 5.1) -/

/-- OP. -/
def vxOp (w : Nat) : Nat := bits w 255 252
/-- RCP. -/
def vxRcp (w : Nat) : Nat := bits w 251 244
/-- The stream-table index of input `i`. -/
def vxIn (w i : Nat) : Nat := (w >>> (238 - 6 * i)) % 64
/-- The stream-table index of output `o`. -/
def vxOut (w o : Nat) : Nat := (w >>> (214 - 6 * o)) % 64
/-- IN_EN bit `i`. -/
def vxInEn (w i : Nat) : Bool := bit w (204 + i)
/-- OUT_EN bit `o`. -/
def vxOutEn (w o : Nat) : Bool := bit w (202 + o)
/-- RND. -/
def vxRnd (w : Nat) : Nat := bits w 201 200
/-- IMMn. -/
def vxImm (w n : Nat) : Nat := (w >>> (168 - 32 * n)) % 2 ^ 32
/-- IMM_P bit n. -/
def vxImmP (w n : Nat) : Bool := bit w (58 + n)

/-- The wait of a VX instruction is satisfied (R73, R284). -/
def vxWait (s : State) (c w : Nat) : Bool := !bit w 103 || waitMet s c (bits w 102 97) (bits w 96 81)

/-- The enabled inputs of an instruction. -/
def vxInputs (w : Nat) : List Nat := (List.range 4).filter (vxInEn w)

/-- The enabled outputs of an instruction. -/
def vxOutputs (w : Nat) : List Nat := (List.range 2).filter (vxOutEn w)

/-! ### Recipes (R134, Tables 5.3 to 5.5) -/

/-- A recipe slot. -/
structure RSlot where
  opc : Nat
  fmt : Nat
  sa : Nat
  sb : Nat
  sc : Nat
  out : Nat
  mod : Nat
  deriving DecidableEq, Repr

/-- A recipe slot from its 32 bits (Table 5.3). -/
def RSlot.ofNat (w : Nat) : RSlot :=
  ⟨bits w 31 26, bits w 25 22, bits w 21 17, bits w 16 12, bits w 11 7, bits w 6 5, bits w 4 0⟩

/-- The byte offset of recipe `i` (R124). -/
def recipeAt (s : State) (c i : Nat) : Nat := 512 * fld s (coreReg c coreVxRcpBase) 15 0 + 32 * i

/-- The eight slots of recipe `i` (R124). -/
def recipe (s : State) (c i : Nat) : List RSlot :=
  (chunks 4 8 (readMem s.mem (scratchAddr c (recipeAt s c i)) 32)).map (fun b => RSlot.ofNat (leNat b))

/-- How many source fields an operation uses (R134); none for a reserved code. -/
def arity (opc mod : Nat) : Option Nat :=
  if opc = 0 then some 0
  else if opc = 0x0A then some (if mod = 7 then 1 else 2)
  else if [0x01, 0x07, 0x0C, 0x0D, 0x0F, 0x10, 0x11, 0x12, 0x13, 0x14, 0x18, 0x19, 0x1A, 0x1B, 0x20, 0x22].contains opc then some 1
  else if [0x02, 0x03, 0x04, 0x06, 0x08, 0x09, 0x0E, 0x24].contains opc then some 2
  else if [0x05, 0x0B, 0x1C, 0x21, 0x25].contains opc then some 3
  else none

/-- The sources a slot uses (R134). -/
def RSlot.sources (r : RSlot) : List Nat := [r.sa, r.sb, r.sc].take ((arity r.opc r.mod).getD 0)

/-- A format in which Table 5.5 or R136 does not allow the operation. -/
def badFormat (opc fmt : Nat) : Bool :=
  if [0x10, 0x11, 0x12, 0x18, 0x19, 0x1A, 0x1B].contains opc then fmt == 0
  else if opc = 0x1C then fmt != 1
  else if opc = 0x22 then decide (1 < fmt)
  else if opc = 0x24 ∨ opc = 0x25 then fmt != 0
  else false

/-- The causes of slot `k` of a recipe (R134, R135, R140). -/
def slotCauses (rs : List RSlot) (w k : Nat) (r : RSlot) : List Nat :=
  if r.opc = 0 then []
  else
    (if (arity r.opc r.mod).isNone ∨ 3 < r.fmt ∨ (r.mod ≠ 0 ∧ r.opc ≠ 0x0A ∧ r.opc ≠ 0x25) ∨ (r.opc = 0x0A ∧ 7 < r.mod) then [1] else []) ++
    (if badFormat r.opc r.fmt then [2] else []) ++
    (if r.sources.any (fun x =>
        decide (18 ≤ x) || (decide (4 ≤ x) && decide (x ≤ 11) && (decide (k ≤ x - 4) || (rs[x - 4]?).all (fun q => q.opc == 0))) ||
        (decide (x < 4) && !vxInEn w x)) then [2] else [])

/-- A recipe whose slots are all NOP: a conversion alone (R134). -/
def convAlone (rs : List RSlot) : Bool := rs.all (fun r => r.opc == 0)

/-- The input whose element output `o` of a conversion alone receives (R134). -/
def aloneInput (w o : Nat) : Nat := if vxInEn w o then o else 0

/-- An enabled output that receives nothing (R134, R140). -/
def outputUnfed (rs : List RSlot) (w o : Nat) : Bool :=
  if convAlone rs then !vxInEn w (aloneInput w o) else !rs.any (fun r => r.opc != 0 && bit r.out o)

/-- The cause codes that the instruction word alone gives (R123, R140). A reserved RND of a RECIPE has cause 0x1 (DESIGN CHOICE,
log entry 49). -/
def vxWordCauses (w : Nat) : List Nat :=
  (if 2 ≤ vxOp w then [1] else []) ++
  (if vxOp w = 1 ∧ 2 ≤ vxRnd w then [1] else []) ++
  (if bits w 57 0 ≠ 0 ∨ (vxOp w = 1 ∧ (List.range 3).any (fun n => vxImmP w n && vxImm w n / 4096 != 0)) then [8] else [])

/-- Streams of an instruction disagree on their number of elements (R126). -/
def disagree (ds : List SDesc) : Bool :=
  match (ds.map SDesc.n).filter (· != 1) with
  | [] => false
  | n :: ns => ns.any (· != n)

/-- The enabled streams of an instruction: inputs and outputs with their numbers. -/
def vxIns (s : State) (c w : Nat) : List (Nat × SDesc) := (vxInputs w).map (fun i => (i, streamDesc s c (vxIn w i)))

/-- The enabled output streams of an instruction. -/
def vxOuts (s : State) (c w : Nat) : List (Nat × SDesc) := (vxOutputs w).map (fun o => (o, streamDesc s c (vxOut w o)))

/-- The cause codes that descriptors, recipe and index tables give (R140); a table that lies outside the scratchpad has cause 0x4. -/
def vxTableCauses (s : State) (c w : Nat) : List Nat :=
  let places := ((vxInputs w).map (fun i => stabAt s c (vxIn w i))) ++ ((vxOutputs w).map (fun o => stabAt s c (vxOut w o)))
  if places.any (fun a => decide (scratchSize < a + 64)) || decide (scratchSize < recipeAt s c (vxRcp w) + 32) then [4]
  else
    let rs := recipe s c (vxRcp w)
    (rs.zipIdx.flatMap (fun e => slotCauses rs w e.2 e.1)) ++
    ((vxOutputs w).flatMap (fun o => if outputUnfed rs w o then [2] else [])) ++
    (if disagree (((vxIns s c w) ++ (vxOuts s c w)).map (·.2)) then [3] else []) ++
    ((vxIns s c w).flatMap (fun d => d.2.causes false)) ++ ((vxOuts s c w).flatMap (fun d => d.2.causes true))

/-- The invalidity of a VX instruction: of its word alone until its wait holds, of the tables too from then on (R140). -/
def vxCause (s : State) (c w : Nat) : Option Nat :=
  if vxOp w = 1 && vxWait s c w then lowest (vxWordCauses w ++ vxTableCauses s c w) else lowest (vxWordCauses w)

/-- The addresses and lengths of the descriptors and of the recipe that the instruction reads (R124). -/
def vxTables (s : State) (c w : Nat) : List (Nat × Nat) :=
  padRanges c ([(recipeAt s c (vxRcp w), 32)] ++ ((vxInputs w).map (fun i => (stabAt s c (vxIn w i), 64))) ++
    ((vxOutputs w).map (fun o => (stabAt s c (vxOut w o), 64))))

/-- The address of a poisoned descriptor or recipe that the instruction reads (R586). -/
def vxControl (s : State) (c w : Nat) : Option Nat := poisonedTable s (vxTables s c w)

/-! ### Operations (R131, R135, R136, Table 5.5) -/

/-- What a slot yields, with its counts. -/
structure SlotRes where
  v : VVal
  cnt : Cnt := {}
  deriving DecidableEq, Repr

/-- An exact result rounded once to a slot's format; `args` are the operands (R69, R131). -/
def roundTo (f : FFmt) (x : Fnum) (args : List Fnum) : SlotRes :=
  let r := f.convert x .rne
  { v := .num (f.decode r.enc)
    cnt := { ovf := b2n (x.isFin && r.ovf), flush := b2n r.flush, gen := b2n (x.isNan && !args.any Fnum.isNan) } }

/-- A value truncated toward zero; none for NaN and infinities. -/
def Fnum.trunc (x : Fnum) : Option Int :=
  match x with
  | .fin n m e =>
    let v : Int := if 0 ≤ e then (if 256 < e ∧ m ≠ 0 then 2 ^ 256 else (m : Int) * 2 ^ e.toNat) else ((m / 2 ^ (-e).toNat : Nat) : Int)
    some (if n then -v else v)
  | _ => none

/-- A value that is an integer. -/
def Fnum.toInt? (x : Fnum) : Option Int :=
  match x with
  | .fin _ m e => if 0 ≤ e ∨ m % 2 ^ (-e).toNat = 0 then x.trunc else none
  | _ => none

/-- CMP (Table 5.5). -/
def cmpOp (mod : Nat) (a b : Fnum) : Bool :=
  match mod with
  | 0 => a.eqv b
  | 1 => !a.isNan && !b.isNan && !a.eqv b
  | 2 => a.lt b
  | 3 => a.lt b || a.eqv b
  | 4 => b.lt a
  | 5 => b.lt a || a.eqv b
  | 6 => a.isNan || b.isNan
  | _ => !a.isNan && !a.isFin

/-- LOGB (Table 5.5). -/
def logb (a : Fnum) : Fnum :=
  match a with
  | .nan => .nan
  | .inf _ => .inf false
  | .fin _ m _ => if m = 0 then .inf true else .ofInt a.log2

/-- SCALB (Table 5.5). -/
def scalb (a b : Fnum) : Fnum :=
  match b with
  | .nan => .nan
  | .inf n => a.shift (if n then -2200 else 2200)
  | _ => a.shift (max (-2200) (min 2200 (b.trunc.getD 0)))

/-- The steps of SMXY and of SUMEXP's terms: each exact result rounded to a format, overflow and flush counted at most once. -/
def expOf (f : FFmt) (x m : Fnum) : Res :=
  let d := toFmt f (x.sub m) [x, m]
  let e := toFmt f d.val.exp [d.val]
  { val := e.val, ovf := min 1 (d.ovf + e.ovf), flush := min 1 (d.flush + e.flush), gen := d.gen + e.gen }

/-- SMXY (R149). -/
def smxy (x m s : Fnum) : Res :=
  if m.isNan then { val := .nan }
  else
    match m with
    | .inf true => { val := .zero }
    | .inf false => if x = .inf false then toFp32 s.recip [s] else { val := .zero }
    | _ =>
      let e := expOf fp32 x m
      let q := toFp32 (e.val.div s) [e.val, s]
      { val := q.val, ovf := min 1 (e.ovf + q.ovf), flush := min 1 (e.flush + q.flush), gen := min 1 (e.gen + q.gen) }

/-! ### The long accumulator and slices (R141, R143) -/

/-- The bound of Σ. -/
def sigmaMax : Int := 2 ^ 191 - 1

/-- LACC_INIT; an anchor that is no 16-bit number is a free one (log entry 4). -/
def laccInit (a : Fnum) : LRec :=
  let t := a.trunc
  let ok := match t with | some v => decide (-(32768 : Int) ≤ v) && decide (v < 32768) | none => false
  { sigma := 0, anchor := if ok then t.getD 0 else signed 16 (Config.openValue (2 :: a.key)), nan := false, pinf := false, ninf := false,
    ovf := false }

/-- A significand after an addition: saturated at the bound, with OVF. -/
def LRec.settle (r : LRec) (sum : Int) : LRec :=
  if sigmaMax < sum then { r with sigma := sigmaMax, ovf := true }
  else if sum < -sigmaMax then { r with sigma := -sigmaMax, ovf := true }
  else { r with sigma := sum }

/-- LACC_ADD and whether a part of the addend was discarded; an infinite c gives a free record (log entry 4). -/
def laccAdd (r : LRec) (b c : Fnum) : LRec × Bool :=
  if b.isNan || c.isNan then ({ r with nan := true }, false)
  else
    match b with
    | .inf n => (if n then { r with ninf := true } else { r with pinf := true }, false)
    | .fin n m e =>
      match c.trunc with
      | none => (freeRec (3 :: r.key ++ b.key ++ c.key), false)
      | some k =>
        let sh := e + k - r.anchor
        let big := m != 0 && decide (200 < sh + m.log2)
        let v : Nat := if big then 2 ^ 200 else if 0 ≤ sh then m * 2 ^ sh.toNat else if -sh < 4096 then m / 2 ^ (-sh).toNat else 0
        let drop := !big && decide (sh < 0) && m != 0 && (decide (4096 ≤ -sh) || m % 2 ^ (-sh).toNat != 0)
        (r.settle (r.sigma + (if n then -(v : Int) else v)), drop)
    | .nan => (r, false)

/-- LACC_READ in a format. -/
def laccRead (f : FFmt) (r : LRec) : SlotRes :=
  if r.nan then { v := .num .nan }
  else if r.pinf && r.ninf then { v := .num .nan, cnt := { gen := 1 } }
  else if r.pinf then { v := .num (.inf false) }
  else if r.ninf then { v := .num (.inf true) }
  else if r.ovf then { v := .num (.inf (decide (r.sigma < 0))), cnt := { ovf := 1 } }
  else roundTo f (.scaled r.sigma r.anchor) []

/-- The slices of n, slice 0 last in the list, by the loop of R143. -/
def sliceLoop : Nat → Int → List Int
  | 0, _ => []
  | 1, n => [n]
  | k + 1, n => let t := (n + 128) % 256 - 128; t :: sliceLoop k ((n - t) / 256)

/-- Slice `i` of `s` slices of n. -/
def sliceOf (s i : Nat) (n : Int) : Int := (sliceLoop s n).getD (s - 1 - i) 0

/-- n of R143, with whether it was rounded. -/
def sliceInt (x : Fnum) (e : Int) (s : Nat) : Int × Bool :=
  match x with
  | .fin neg m f =>
    let sh := f + (8 * s : Nat) - 2 - e
    let r := roundInt m (max (-5000) sh) .rne
    (if neg then -(r : Int) else r, decide (sh < 0) && m % 2 ^ (-sh).toNat != 0)
  | _ => (0, false)

/-- A slice count that the rule speaks of. -/
def sliceCount (x : Fnum) : Option Nat := (x.toInt?).bind (fun v => if 1 ≤ v ∧ v ≤ 32 then some v.toNat else none)

/-- SEXP (R143); a count that is no slice count gives a free value (log entry 4). For a = 0 the result is −1,075 whatever S is, a NaN too,
although R47 has a NaN operand give NaN (DESIGN CHOICE, log entry 57). -/
def sexp (a b : Fnum) : SlotRes :=
  match a with
  | .fin _ m e =>
    if m = 0 then { v := .num (.ofInt (-1075)) }
    else if b.isNan then { v := .num .nan }
    else
      match sliceCount b with
      | none => { v := .num (freeVal fp64 (4 :: a.key ++ b.key)) }
      | some s =>
        let k := a.log2
        let top (neg : Bool) : Int := sliceOf s 0 (sliceInt (.fin neg m e) k s).1
        { v := .num (.ofInt (if top false = 128 ∨ top true = 128 then k + 1 else k)) }
  | _ => { v := .num .nan, cnt := { gen := b2n (!a.isNan && !b.isNan) } }

/-- SLICE (R131, R143); operands the rule does not speak of give a free value (log entry 4). Slots that round the same element each count it
in SLICE_INEXACT (DESIGN CHOICE, log entry 49). -/
def sliceOp (i : Nat) (x e s : Fnum) : SlotRes :=
  let free : SlotRes := { v := .num (freeVal fp64 (5 :: (i : Int) :: x.key ++ e.key ++ s.key)) }
  if e.isNan then { v := .num .zero }
  else if x.isNan || s.isNan then { v := .num .nan }
  else
    match e.toInt?, sliceCount s with
    | some ev, some n =>
      if i < n ∧ x.isFin then
        let r := sliceInt x (max (-4000) (min 4000 ev)) n
        let q := roundTo fp64 (.ofInt (sliceOf n i r.1)) []
        { q with cnt := { q.cnt with inexact := b2n r.2 } }
      else free
    | _, _ => free

/-- The slot format a FMT code names. -/
def slotFmt (fmt : Nat) : FFmt := if fmt = 0 then fp64 else if fmt = 1 then fp32 else if fmt = 2 then bf16 else fp16

/-- One slot's operation on its operands. -/
def slotOp (r : RSlot) (args : List VVal) : SlotRes :=
  let f := slotFmt r.fmt
  let a := args.getD 0 (.num .zero)
  let x := a.toNum
  let y := (args.getD 1 (.num .zero)).toNum
  let z := (args.getD 2 (.num .zero)).toNum
  match r.opc with
  | 0x01 => roundTo f x [x]
  | 0x02 => roundTo f (x.add y) [x, y]
  | 0x03 => roundTo f (x.sub y) [x, y]
  | 0x04 => roundTo f (x.mul y) [x, y]
  | 0x05 => roundTo f (x.fma y z) [x, y, z]
  | 0x06 => roundTo f (x.div y) [x, y]
  | 0x07 => roundTo f x.sqrt [x]
  | 0x08 => roundTo f (x.minimum y) [x, y]
  | 0x09 => roundTo f (x.maximum y) [x, y]
  | 0x0A => { v := .num (if cmpOp r.mod x y then .ofInt 1 else .zero) }
  | 0x0B => if z.isZero || z.isNan then roundTo f y [y] else roundTo f x [x]
  | 0x0C => roundTo f x.abs [x]
  | 0x0D => roundTo f x.negate [x]
  | 0x0E => roundTo f (scalb x y) [x, y]
  | 0x0F => roundTo f (logb x) [x]
  | 0x10 => roundTo f x.exp2 [x]
  | 0x11 => roundTo f x.exp [x]
  | 0x12 => roundTo f x.logTwo [x]
  | 0x13 => roundTo f x.recip [x]
  | 0x14 => roundTo f x.rsqrt [x]
  | 0x18 => roundTo f x.tanh [x]
  | 0x19 => roundTo f x.gelu [x]
  | 0x1A => roundTo f x.silu [x]
  | 0x1B => roundTo f x.softplus [x]
  | 0x1C => let q := smxy x y z; { v := .num q.val, cnt := { ovf := q.ovf, flush := q.flush, gen := q.gen } }
  | 0x20 => { v := .lacc (laccInit x) }
  | 0x21 => let q := laccAdd a.toRec y z; { v := .lacc q.1, cnt := { drop := b2n q.2 } }
  | 0x22 => laccRead f a.toRec
  | 0x24 => sexp x y
  | _ => sliceOp r.mod x y z

/-! ### A position, a group, an instruction (R121, R137, R152) -/

/-- The value a source code names (Table 5.4). -/
def sourceVal (ins : List (Nat × Val)) (res : List Val) (imms : List Fnum) (j x : Nat) : Val :=
  if x < 4 then ((ins.find? (fun e => e.1 == x)).map (·.2)).getD ⟨.num .zero, false⟩
  else if x < 12 then res.getD (x - 4) ⟨.num .zero, false⟩
  else if x < 15 then ⟨.num (imms.getD (x - 12) .zero), false⟩
  else if x = 15 then ⟨.num .zero, false⟩
  else if x = 16 then ⟨.num (.ofInt 1), false⟩
  else ⟨.num (.ofInt j), false⟩

/-- Slot `k` has an effect: it is no NOP, and it names an output or a later slot reads it (R134). -/
def slotActs (rs : List RSlot) (k : Nat) : Bool :=
  match rs[k]? with
  | some r => r.opc != 0 && (r.out != 0 || (rs.drop (k + 1)).any (fun q => q.opc != 0 && q.sources.contains (4 + k)))
  | none => false

/-- The results of a recipe's slots at position `j`, in order, with what the slots that have an effect count. -/
def runSlots (rs : List RSlot) (ins : List (Nat × Val)) (imms : List Fnum) (j : Nat) : List Val × Cnt :=
  rs.zipIdx.foldl (fun acc e =>
    if e.1.opc = 0 then (acc.1 ++ [⟨.num .zero, false⟩], acc.2)
    else
      let args := e.1.sources.map (sourceVal ins acc.1 imms j)
      let r := slotOp e.1 (args.map Val.v)
      (acc.1 ++ [⟨r.v, args.any Val.bad⟩], if slotActs rs e.2 then acc.2.add r.cnt else acc.2)) ([], {})

/-- The value that output `o` receives (R134). -/
def outValue (rs : List RSlot) (ins : List (Nat × Val)) (res : List Val) (w o : Nat) : Val :=
  if convAlone rs then ((ins.find? (fun e => e.1 == aloneInput w o)).map (·.2)).getD ⟨.num .zero, false⟩
  else
    match findLast (List.range rs.length) (fun k => (rs[k]?).any (fun r => r.opc != 0 && bit r.out o)) with
    | some k => res.getD k ⟨.num .zero, false⟩
    | none => ⟨.num .zero, false⟩

/-- Elements per clock of a slot (Table 5.7). -/
def slotRate (r : RSlot) : Nat :=
  let col := min r.fmt 2
  if r.opc ≤ 0x0F ∧ r.opc ≠ 0x06 ∧ r.opc ≠ 0x07 then (if col = 0 then 128 else if col = 1 then 512 else 1024)
  else if [0x06, 0x07, 0x13, 0x14].contains r.opc then (if col = 0 then 32 else if col = 1 then 128 else 256)
  else if [0x10, 0x11, 0x12, 0x18, 0x19, 0x1A, 0x1B, 0x1C].contains r.opc then (if col = 2 then 256 else 128)
  else if r.opc = 0x24 ∨ r.opc = 0x25 then 128
  else 64

/-- Elements per clock of an input of a conversion alone (R139); of LACC records, which R139 does not list, 128 (DESIGN CHOICE, log entry 17). -/
def inputRate (d : SDesc) : Nat :=
  if d.kind = 3 ∨ (d.kind != 2 ∧ d.size = 8) then 128 else if d.kind = 2 ∨ (!d.mx ∧ d.size = 4) then 512 else 1024

/-- The group size G of an instruction (R137, R139). -/
def groupSize (rs : List RSlot) (ins : List (Nat × SDesc)) : Nat :=
  let bank := if ins.any (fun d => d.2.kind == 2) then 512 else 1024
  if convAlone rs then ins.foldl (fun g d => min g (inputRate d.2)) bank
  else (rs.filter (fun r => r.opc != 0)).foldl (fun g r => min g (slotRate r)) bank

/-- The column masks of bank inputs that apply one (R111, R130), with whether a mask lies in a poisoned block: that poisons every output of the
instruction, as each position draws on it (DESIGN CHOICE on R152, log entry 57). -/
def masksOf (s : State) (c : Nat) (ins : List (Nat × SDesc)) : List Nat × Bool :=
  let ms := ins.filter (fun d => d.2.kind == 2 && d.2.maskEn)
  (ms.map (fun d => leNat (readMem s.mem (scratchAddr c d.2.maskAddr) 16)), ms.any (fun d => rangePoisoned s (scratchAddr c d.2.maskAddr) 16))

/-- Everything fixed while an instruction runs. -/
structure VxRun where
  c : Nat
  w : Nat
  rs : List RSlot
  ins : List (Nat × SDesc)
  outs : List (Nat × SDesc)
  imms : List Fnum
  masks : List Nat
  maskBad : Bool
  x : Ctx
  n : Nat
  g : Nat
  deriving DecidableEq, Repr

/-- How far an instruction has run: `vis` is what reads see, `full` holds every write so far, `wait` the writes of groups not yet seen, newest
first, `outs` what each output has written and counted, `cnt` what reads and slots count. -/
structure VxAcc where
  vis : State
  full : State
  wait : List (List Put)
  puts : List Put
  outs : List Stat
  cnt : Cnt

/-- The elements of the inputs at position `j` (R126: a stream of one element is read once, with `once`). -/
def readInputs (r : VxRun) (s : State) (once : List (Nat × Val × Bool)) (j : Nat) : List (Nat × Val × Bool) :=
  r.ins.map (fun d =>
    if d.2.n = 1 ∧ j ≠ 0 then (once.find? (fun e => e.1 == d.1)).getD (d.1, ⟨.num .zero, false⟩, false)
    else (d.1, readElem s r.c r.x.h d.2 j))

/-- Group `g` read, computed and written (R121, R130, R137). -/
def runGroup (r : VxRun) (once : List (Nat × Val × Bool)) (a : VxAcc) (g : Nat) : VxAcc :=
  let a := if g < 33 then a else { a with vis := putBytes a.vis (a.wait.getD 32 []), wait := a.wait.take 32 }
  let js := (List.range (min r.g (r.n - g * r.g))).map (· + g * r.g)
  let rows := js.map (fun j =>
    let ins := readInputs r a.vis once j
    let vals := ins.map (fun e => (e.1, e.2.1))
    let res := runSlots r.rs vals r.imms j
    let oob := (ins.filter (fun e => e.2.2 && (j == 0 || !(r.ins.any (fun d => d.1 == e.1 && d.2.n == 1))))).length
    (j, vals, res, oob))
  let cnt := rows.foldl (fun n row => n.add (row.2.2.1.2.add { oob := row.2.2.2 })) {}
  let ws := r.outs.map (fun d =>
    writeGroup a.vis a.full r.c d.2 r.x (rows.map (fun row =>
      let v := outValue r.rs row.2.1 row.2.2.1.1 r.w d.1
      { j := row.1, val := { v with bad := v.bad || r.maskBad }, masked := r.masks.any (fun m => !bit m (row.1 % 128)) })))
  let puts := ws.flatMap Written.puts
  { vis := a.vis
    full := putBytes a.full puts
    wait := puts :: a.wait
    puts := a.puts ++ puts
    outs := (a.outs.zip ws).map (fun e => e.1.add e.2.stat)
    cnt := ws.foldl (fun n w => n.add w.cnt) (a.cnt.add cnt) }

/-- An instruction run over all its groups (R137). -/
def runVx (r : VxRun) (s : State) : VxAcc :=
  let once := r.ins.map (fun d => (d.1, readElem s r.c r.x.h d.2 0))
  (List.range ((r.n + r.g - 1) / r.g)).foldl (runGroup r once)
    { vis := s, full := s, wait := [], puts := [], outs := r.outs.map (fun _ => {}), cnt := {} }

/-! ### Issue (R26, R138, R139) -/

/-- The unit's read path is free and no earlier writes of the same slot that overlap these extents are outstanding (R138). -/
def flowReady (ops : List FlowOp) (sl : Slot) (ins : List Extent) : Bool :=
  !ops.any FlowOp.reading && !ops.any (fun o => o.slot == sl && overlaps o.outs ins)

/-- The input extents of a VX instruction. -/
def vxInExtents (s : State) (c w : Nat) : List Extent := (vxIns s c w).flatMap (fun d => d.2.extents)

/-- What the next VX instruction of a slot sees: the writes of the slot's earlier ones are in place (R138). -/
def vxView (s : State) (c : Nat) (sl : Slot) : State := withWrites s (coreAt s c).vxOps sl

/-- The slot's next VX instruction could issue now. -/
def vxCanIssue (s : State) (c : Nat) (sl : Slot) : Bool :=
  match (progOf s c .vx sl).bind (fun p => (nextIndex p).map (fun i => (p, i))) with
  | none => false
  | some (p, i) =>
    let w := headWord s c .vx p i
    let v := vxView s c sl
    !headPoisoned s c .vx p i && (vxCause v c w).isNone && vxWait s c w &&
    (vxOp w == 0 || ((vxControl v c w).isNone && flowReady (coreAt s c).vxOps sl (vxInExtents v c w)))

/-- It is this slot's turn (R288, R319). -/
def vxTurn (s : State) (c : Nat) (sl : Slot) : Bool :=
  sl == .step || sideAllowed s (coreAt s c).vx (vxCanIssue s c .step)

/-- A VX SYNC issues and signals (R73, R122). Another instruction at the head is judged by its word alone (R140). -/
def vxSyncEffect (s : State) (c : Nat) (sl : Slot) : State :=
  match headOf s c .vx sl with
  | (s, none) => s
  | (s, some (p, i, w)) =>
    match lowest (vxWordCauses w) with
    | some cause => haltInvalid s c .vx sl i cause
    | none =>
      if vxOp w = 0 && vxWait s c w && vxTurn s c sl then
        instrDone (signalIf (advance s c .vx sl) (bit w 80) (bits w 79 74) (bits w 73 68)) p.key c
      else s

/-- The immediates as a slot sees them (R123). -/
def vxImms (h : Half) (w : Nat) : List Fnum :=
  (List.range 3).map (fun n => fp32.decode (if vxImmP w n then postedConst h (vxImm w n) else vxImm w n))

/-- The binary exponent of a finite non-zero value: that of its leading bit. -/
def binExp : Fnum → Option Int
  | .fin n m e => if m = 0 then none else some (Fnum.fin n m e).log2
  | _ => none

/-- The exponent spread of a segment of FP64 words: the largest minus the smallest binary exponent of its non-zero elements (R98). A NaN or
infinite element has none. -/
def segSpread (seg : List Nat) : Int :=
  let es := seg.filterMap (fun x => binExp (fp64.decode x))
  es.foldl max (es.headD 0) - es.foldl min (es.headD 0)

/-- The result uses a segment whose spread is beyond 8S − 53 (R98). -/
def Sliced.beyond (r : Sliced) : Bool := r.segs.any (fun g => decide (8 * (r.slices : Int) - 53 < segSpread g))

/-- SLICE_SPREAD counts the FP64 LACC_READ results of the instruction that use a segment beyond the bound, once each (R98). Which sliced
product a result belongs to no instruction says, so the command tells it (log entry 8). -/
def countSpread (s : State) (c n : Nat) (rs : List RSlot) (spread : List Sliced) : State :=
  countBy s (coreReg c coreSliceSpread) ((((spread.filter Sliced.beyond).map (·.result)).dedup).filter (fun x =>
    decide (x / 8 < n) && slotActs rs (x % 8) && (rs[x % 8]?).any (fun r => r.opc == 0x22 && r.fmt == 0))).length

/-- The poisoned rows of the banks that streams of an instruction read. -/
def bankRows (k : Core) (ds : List SDesc) : List (Nat × Nat × MarkOrigin) :=
  (((ds.filter (fun d => d.kind == 2)).map SDesc.bank).dedup).flatMap (fun b => (bankOf k b).poison)

/-- The errors that an instruction's streams meet: in the blocks they read and in the banks (R95, R166). -/
def strikeStreams (s : State) (c : Nat) (ds : List SDesc) (blocks : List Nat) : State :=
  (((ds.filter (fun d => d.kind == 2)).map SDesc.bank).dedup).foldl (fun s b => strikeBank s c b) (strike s blocks)

/-- A RECIPE issues: it reads its tables and streams, and its results wait for their writes to complete (R121 to R139, R152, R153). -/
def vxRecipeEffect (s : State) (c : Nat) (sl : Slot) (up : Upset) : State :=
  match headOf s c .vx sl with
  | (s, none) => s
  | (s, some (p, i, w)) =>
    match lowest (vxWordCauses w) with
    | some cause => haltInvalid s c .vx sl i cause
    | none =>
    if !(vxOp w == 1 && vxWait s c w && vxTurn s c sl) then s
    else
    let s := strike s (rangeBlocks (vxTables s c w))
    let v := vxView s c sl
    match vxControl v c w with
    | some a => haltPoisoned s c .vx sl a
    | none =>
    match vxCause v c w with
    | some cause => haltInvalid s c .vx sl i cause
    | none =>
      if flowReady (coreAt s c).vxOps sl (vxInExtents v c w) then
        let h := slotSettings s sl p
        let ins := vxIns v c w
        let outs := vxOuts v c w
        let rs := recipe v c (vxRcp w)
        let blocks := ins.flatMap (fun d => d.2.blocks v c) ++ maskBlocks c (ins.map (·.2))
        let s := strikeStreams s c (ins.map (·.2)) blocks
        let v := vxView s c sl
        let n := ((ins ++ outs).map (fun d => d.2.n)).foldl max 1
        let ms := masksOf v c ins
        let run : VxRun := {
          c := c, w := w, rs := rs, ins := ins, outs := outs, imms := vxImms h w, masks := ms.1, maskBad := ms.2
          x := { h := h, job := srJob h sl p, bell := slotBell s sl p, rnd := vxRnd w }
          n := n, g := groupSize rs ins }
        let r := runVx run v
        let rows := bankRows (coreAt s c) (ins.map (·.2))
        let op : FlowOp := {
          slot := sl, key := p.key, word := w, bell := slotBell s sl p, reading := true, writing := true, writes := r.puts
          outs := outs.flatMap (fun d => d.2.extents)
          origin := originAmong v blocks rows
          retBanks := (ins.filter (fun d => d.2.kind == 2 && d.2.ret)).map (fun d => d.2.bank)
          normCheck := (outs.filter (fun d => d.2.fmt == 0xB && d.2.scaleEn)).map (fun d => (d.2.bucket, d.2.scaleA)) }
        let s := addCnt s c r.cnt
        let s := (outs.zip r.outs).foldl (fun s e => feedOut s p.key h e.1.2 e.2) s
        let s := countSpread s c n rs up.spread
        let s := viewReads s v p.key p.job c 1 blocks
        let s := poisonRows s p.key p.job c 1 rows
        let s := countBy s (coreReg c coreVxResidue) up.check.length
        let s := checksFailed s p.key (up.check.map (fun _ => ⟨2, slotBell s sl p, c, 1, 0, 0, i, none⟩))
        advance (modCore s c (fun k => { k with vxOps := k.vxOps ++ [op] })) c .vx sl
      else s

/-- The credits of banks that RET streams name return where the bank is RELEASED (R87, R129). -/
def returnBanks (s : State) (c : Nat) (bs : List Nat) : State :=
  bs.foldl (fun s b => modCore s c (modBank b (fun k => if k.state = .released then { k with state := .free, closing := false, owner := none } else k))) s

/-- The reads of the instruction on the read path end: RET and RSIG_EN take effect (R129, R139). -/
def vxReadsEffect (s : State) (c : Nat) : State :=
  match (coreAt s c).vxOps.find? FlowOp.reading with
  | none => s
  | some o =>
    let s := modCore s c (fun k => { k with vxOps := modWhere k.vxOps FlowOp.reading (fun o => { o with reading := false }) })
    signalIf (returnBanks s c o.retBanks) (bit o.word 67) c (bits o.word 66 61)

/-- The normal end of an instruction of unit `unit`: its writes land, its norm checks are made, and it has completed (R139, R227, R512). -/
def flowDone (s : State) (c unit : Nat) (o : FlowOp) : State :=
  let s := inheritOrigin (putBytes s o.writes) o.writes o.origin
  instrDone (o.normCheck.foldl (fun s e => normCheck s o.key c unit e.1 e.2) s) o.key c

/-- The last write of the oldest instruction past its reads completes, and SIG_EN signals (R139). -/
def vxWritesEffect (s : State) (c : Nat) : State :=
  match (coreAt s c).vxOps.find? (fun o => !o.reading) with
  | none => s
  | some o =>
    let s := modCore s c (fun k => { k with vxOps := k.vxOps.erase o })
    signalIf (flowDone s c 1 o) (bit o.word 80) (bits o.word 79 74) (bits o.word 73 68)

/-! ### The commands -/

/-- VX_SYNC (R122). -/
def execVxSync (core : Nat) (slot : Slot) (up : Upset) (s : State) : Host.Outcome State Fault Refusal :=
  coreEvent s core (vxSyncEffect (plant s up) core slot)

/-- VX_RECIPE_ISSUE (R121, R140). -/
def execVxRecipeIssue (core : Nat) (slot : Slot) (up : Upset) (s : State) : Host.Outcome State Fault Refusal :=
  coreEvent s core (vxRecipeEffect (plant s up) core slot up)

/-- VX_READS_END (R139). -/
def execVxReadsEnd (core : Nat) (s : State) : Host.Outcome State Fault Refusal :=
  coreEvent s core (vxReadsEffect s core)

/-- VX_WRITES_COMPLETE (R139). -/
def execVxWritesComplete (core : Nat) (s : State) : Host.Outcome State Fault Refusal :=
  coreEvent s core (vxWritesEffect s core)

end Sys2Proof.Machine
end

