-- ==== Sys2Proof/Machine/Reducer.lean ====
section
/-! DEFINITION. The row reducer: RX instructions, the row folds and their fixed tree, TOPK, SQADD, issue and results (R144 to R150, R152, R153,
R415). -/

namespace Sys2Proof.Machine

/-! ### Instruction fields (Table 5.9) -/

/-- OP. -/
def rxOp (w : Nat) : Nat := bits w 127 124
/-- ROP (Table 5.10). -/
def rxRop (w : Nat) : Nat := bits w 123 120
/-- B_EN. -/
def rxBEn (w : Nat) : Bool := bit w 95
/-- MSK_EN. -/
def rxMskEn (w : Nat) : Bool := bit w 94
/-- The row length L. -/
def rxLen (w : Nat) : Nat := bits w 93 78 + 1
/-- k of TOPK. -/
def rxTop (w : Nat) : Nat := 16 * 2 ^ bits w 77 76

/-- The wait of an RX instruction is satisfied (R73, R284). -/
def rxWait (s : State) (c w : Nat) : Bool := !bit w 71 || waitMet s c (bits w 70 65) (bits w 64 49)

/-- The stream-table indices of the enabled streams: row data, second stream, mask, result. -/
def rxIndices (w : Nat) : List Nat :=
  [bits w 119 114] ++ (if rxBEn w then [bits w 113 108] else []) ++ (if rxMskEn w then [bits w 107 102] else []) ++ [bits w 101 96]

/-- SRC_A. -/
def rxA (s : State) (c w : Nat) : SDesc := streamDesc s c (bits w 119 114)
/-- SRC_B. -/
def rxB (s : State) (c w : Nat) : SDesc := streamDesc s c (bits w 113 108)
/-- MSK. -/
def rxM (s : State) (c w : Nat) : SDesc := streamDesc s c (bits w 107 102)
/-- DST. -/
def rxD (s : State) (c w : Nat) : SDesc := streamDesc s c (bits w 101 96)

/-- The input streams that are read. -/
def rxIns (s : State) (c w : Nat) : List SDesc :=
  [rxA s c w] ++ (if rxBEn w then [rxB s c w] else []) ++ (if rxMskEn w then [rxM s c w] else [])

/-- The cause codes of the instruction word alone (R140). SUMEXP, DOT and SQADD without B_EN have cause 0x2, as an operation that names an
input not enabled (DESIGN CHOICE, log entry 49). -/
def rxWordCauses (w : Nat) : List Nat :=
  (if 2 ≤ rxOp w ∨ (rxOp w = 1 ∧ 0xA ≤ rxRop w) then [1] else []) ++
  (if rxOp w = 1 ∧ (rxRop w = 2 ∨ rxRop w = 4 ∨ rxRop w = 8) ∧ !rxBEn w then [2] else []) ++
  (if bits w 75 72 ≠ 0 ∨ bits w 28 0 ≠ 0 then [8] else []) ++
  (if rxOp w = 1 ∧ rxRop w = 9 ∧ rxLen w ≠ 4096 then [9] else [])

/-- A stream holds `n` elements, or one (R126). -/
def holds (d : SDesc) (n : Nat) : Bool := d.n == n || d.n == 1

/-- The streams hold other numbers of elements than the reduction takes (R126, R145). -/
def rxDisagree (s : State) (c w : Nat) : Bool :=
  let a := rxA s c w
  let rop := rxRop w
  if rop = 8 then disagree (rxIns s c w ++ [rxD s c w])
  else
    let n := 128 * rxLen w
    a.n != n || (rxBEn w && !holds (rxB s c w) (if rop = 2 ∨ rop = 3 then 128 else n)) ||
    (rxMskEn w && !holds (rxM s c w) n) || !holds (rxD s c w) (if rop = 9 then 128 * rxTop w else 128)

/-- The cause codes that the descriptors give (R140, R145). -/
def rxTableCauses (s : State) (c w : Nat) : List Nat :=
  if (rxIndices w).any (fun i => decide (scratchSize < stabAt s c i + 64)) then [4]
  else
    (if rxDisagree s c w then [3] else []) ++
    ((rxIns s c w).flatMap (fun d => d.causes false)) ++ (rxD s c w).causes true

/-- The invalidity of an RX instruction (R140). -/
def rxCause (s : State) (c w : Nat) : Option Nat :=
  if rxOp w = 1 && rxWait s c w then lowest (rxWordCauses w ++ rxTableCauses s c w) else lowest (rxWordCauses w)

/-- The addresses and lengths of the descriptors that the instruction reads (R124). -/
def rxTables (s : State) (c w : Nat) : List (Nat × Nat) := padRanges c ((rxIndices w).map (fun i => (stabAt s c i, 64)))

/-- The address of a poisoned descriptor that the instruction reads (R586). -/
def rxControl (s : State) (c w : Nat) : Option Nat := poisonedTable s (rxTables s c w)

/-! ### Folds (R146) -/

/-- An operation of the accumulation format with what it counts. -/
abbrev FoldOp := Fnum → Fnum → Fnum × Cnt

/-- A rounded result as a fold's. -/
def rounded (f : FFmt) (x : Fnum) (args : List Fnum) : Fnum × Cnt :=
  let r := roundTo f x args
  (r.v.toNum, r.cnt)

/-- Addition in an accumulation format. -/
def addIn (f : FFmt) : FoldOp := fun x y => rounded f (x.add y) [x, y]

/-- The maximum, which rounds nothing. -/
def maxIn : FoldOp := fun x y => (x.maximum y, {})

/-- Two results combined by a fold's operation. -/
def foldPair (op : FoldOp) (x y : Fnum × Cnt) : Fnum × Cnt :=
  let r := op x.1 y.1
  (r.1, (x.2.add y.2).add r.2)

/-- The tree over eight terms (R146). -/
def foldEight (op : FoldOp) (neutral : Fnum) (ts : List Fnum) : Fnum × Cnt :=
  let t (i : Nat) : Fnum × Cnt := (ts.getD i neutral, {})
  foldPair op (foldPair op (foldPair op (t 0) (t 1)) (foldPair op (t 2) (t 3)))
    (foldPair op (foldPair op (t 4) (t 5)) (foldPair op (t 6) (t 7)))

/-- The fold of a row's terms (R146). -/
def foldRow (op : FoldOp) (neutral : Fnum) (ts : List Fnum) : Fnum × Cnt :=
  match (chunks 8 (ts.length / 8 + 1) ts).map (foldEight op neutral) with
  | [] => (neutral, {})
  | x :: xs => xs.foldl (foldPair op) x

/-! ### Rows -/

/-- An entry of a row: its position, its value, and the second stream's value there. -/
structure Entry where
  p : Nat
  a : Fnum
  b : Fnum
  deriving DecidableEq, Repr

/-- −0, the neutral term of sums. -/
def negZero : Fnum := .fin true 0 0

/-- Terms of a row with the neutral value at masked positions (R146). -/
def termsOf (len : Nat) (es : List Entry) (neutral : Fnum) (f : Entry → Fnum × Cnt) : List Fnum × Cnt :=
  let ts := es.map (fun e => (e.p, f e))
  ((List.range len).map (fun p => match ts.find? (fun t => t.1 == p) with | some t => t.2.1 | none => neutral),
   ts.foldl (fun c t => c.add t.2.2) {})

/-- A fold over the terms of a row, counting both. -/
def foldTerms (len : Nat) (es : List Entry) (op : FoldOp) (neutral : Fnum) (f : Entry → Fnum × Cnt) : Fnum × Cnt :=
  let t := termsOf len es neutral f
  let r := foldRow op neutral t.1
  (r.1, t.2.add r.2)

/-- Two values are the same, −0 apart from +0. -/
def sameValue (x y : Fnum) : Bool := x.eqv y && x.neg? == y.neg?

/-- ARGMAX of a row (Table 5.10). -/
def argmax (es : List Entry) : Int :=
  match es.find? (fun e => e.a.isNan) with
  | some e => e.p
  | none =>
    match es with
    | [] => -1
    | e :: rest =>
      let m := rest.foldl (fun a x => a.maximum x.a) e.a
      ((es.find? (fun x => sameValue x.a m)).map (fun x => (x.p : Int))).getD (-1)

/-- `x` ranks above `y` by magnitude, NaN above +∞, ties to the lower position (R147). -/
def ranksAbove (x y : Entry) : Bool :=
  if x.a.isNan then !y.a.isNan || decide (x.p < y.p)
  else if y.a.isNan then false
  else y.a.abs.lt x.a.abs || (!x.a.abs.lt y.a.abs && decide (x.p < y.p))

/-- The first `k` positions of TOPK, ascending, filled with −1 (R147). -/
def topk (k : Nat) (es : List Entry) : List Int :=
  let ps := (es.filter (fun e => decide ((es.filter (fun q => ranksAbove q e)).length < k))).map (fun e => (e.p : Int))
  ps ++ List.replicate (k - ps.length) (-1)

/-- What one row gives: its results in order, what it counts, and whether MASKED_ROWS counts it. -/
structure RowRes where
  vals : List Fnum
  cnt : Cnt := {}
  masked : Bool := false
  deriving DecidableEq, Repr

/-- A row folded (Table 5.10, R145 to R150). `acc` is the accumulation format, `out` the format DST receives, `b` the row's value of
SUMEXP and SUMSQ. A MAX row counts in MASKED_ROWS by its result, one whose finite maximum overflows FP32 to −∞ too (R150; DESIGN CHOICE,
log entry 57). -/
def reduceRow (rop len k : Nat) (acc out : FFmt) (bEn : Bool) (es : List Entry) (b : Fnum) : RowRes :=
  let give (r : Fnum × Cnt) : RowRes :=
    let q := roundTo out r.1 [r.1]
    { vals := [q.v.toNum], cnt := r.2.add q.cnt }
  match rop with
  | 0 =>
    let r := give (foldTerms len es maxIn (.inf true) (fun e => (e.a, {})))
    { r with masked := r.vals == [.inf true] }
  | 1 => give (foldTerms len es (addIn acc) negZero (fun e => (e.a, {})))
  | 2 =>
    if b.isNan then { vals := [.nan] }
    else
      match b with
      | .inf true => { vals := [.zero] }
      | .inf false => { vals := [.ofInt (es.filter (fun e => e.a == .inf false)).length] }
      | _ => give (foldTerms len es (addIn acc) negZero (fun e =>
          let t := expOf acc e.a b
          (t.val, { ovf := t.ovf, flush := t.flush, gen := t.gen })))
  | 3 => give (foldTerms len es (addIn acc) negZero (fun e =>
      let d := if bEn then rounded acc (e.a.sub b) [e.a, b] else (e.a, {})
      let q := rounded acc (d.1.mul d.1) [d.1]
      (q.1, d.2.add q.2)))
  | 4 => give (foldTerms len es (addIn acc) negZero (fun e => rounded acc (e.a.mul e.b) [e.a, e.b]))
  | 5 => { vals := [.ofInt (argmax es)] }
  | 6 => { vals := [.ofInt (es.filter (fun e => !e.a.isZero)).length] }
  | 7 => give (foldTerms len es maxIn .zero (fun e => (e.a.abs, {})))
  | _ => { vals := (topk k es).map Fnum.ofInt }

/-! ### A REDUCE -/

/-- The raw bits of element `j` of a stream. R144 gives a mask one byte per position; a mask stream of a wider format is read at the width
of its elements, and any non-zero bits mask the position (DESIGN CHOICE, log entry 49). -/
def rawElem (s : State) (c : Nat) (d : SDesc) (j : Nat) : Nat :=
  if d.kind = 2 then (sget 0 (if d.bank = 0 then (coreAt s c).bank0 else (coreAt s c).bank1).words j).toNat
  else
    let a := d.place s c j
    if d.kind = 1 ∧ !inPad a d.size then 0
    else if d.mx then (leNat (padBytes s c a d.span) >>> (elemBits d.fmt * (d.at0 j % 32))) % 2 ^ elemBits d.fmt
    else leNat (padBytes s c a d.size)

/-- A bank input's column mask masks position `j` (R130). -/
def colMasked (cols : List Nat) (j : Nat) : Bool := cols.any (fun m => !bit m (j % 128))

/-- Position `j` of an instruction is masked: by MSK, or by a bank input's column mask (R130, R144). -/
def rxMasked (s : State) (c w : Nat) (cols : List Nat) (j : Nat) : Bool :=
  (rxMskEn w && rawElem s c (rxM s c w) j != 0) || colMasked cols j

/-- What a REDUCE writes and counts; `spill` the rows counted in MASKED_ROWS. -/
structure RxOut where
  out : Written
  cnt : Cnt
  masked : Nat
  deriving DecidableEq, Repr

/-- What reads of a stream outside the scratchpad count (R128): a stream of one element is read once. -/
def oobOf (d : SDesc) (outside : List Bool) : Cnt :=
  let n := (outside.filter id).length
  { oob := if d.n = 1 then min 1 n else n }

/-- A read that has not been made. -/
def noRead : Val × Bool := (⟨.num .zero, false⟩, false)

/-- Element `j` of the mask stream as read, where the instruction has one. -/
def readMask (s : State) (c w : Nat) (x : Ctx) (j : Nat) : Val × Bool :=
  if rxMskEn w then readElem s c x.h (rxM s c w) j else noRead

/-- A REDUCE other than SQADD over its 128 rows (R145). An RX instruction has no RND field, and DST converts to nearest even (DESIGN
CHOICE, log entry 49). -/
def reduceRows (s : State) (c w : Nat) (x : Ctx) (cols : List Nat) (colBad : Bool) : RxOut :=
  let a := rxA s c w
  let b := rxB s c w
  let d := rxD s c w
  let len := rxLen w
  let rop := rxRop w
  let perRow := rop = 2 ∨ rop = 3
  let wide := a.fmt = 0 ∨ (rxBEn w ∧ b.fmt = 0)
  let acc := if wide then fp64 else fp32
  let out := if a.fmt = 0 then fp64 else fp32
  let rows := (List.range 128).map (fun r =>
    let js := (List.range len).map (fun p => (p, r * len + p))
    let live := js.filter (fun q => !rxMasked s c w cols q.2)
    let rd := live.map (fun q =>
      (q, readElem s c x.h a q.2, if rxBEn w && !perRow then readElem s c x.h b q.2 else noRead))
    let br := if rxBEn w && perRow then readElem s c x.h b r else noRead
    let mk := js.map (fun q => readMask s c w x q.2)
    let es := rd.map (fun e => (⟨e.1.1, e.2.1.1.v.toNum, e.2.2.1.v.toNum⟩ : Entry))
    let res := reduceRow rop len (rxTop w) acc out (rxBEn w) es br.1.v.toNum
    let bad := rd.any (fun e => e.2.1.1.bad || e.2.2.1.bad) || br.1.bad || mk.any (fun m => m.1.bad) || colBad
    (res, bad, rd.map (fun e => e.2.1.2), br.2 :: rd.map (fun e => e.2.2.2), mk.map (·.2)))
  let ps := rows.flatMap (fun q => q.1.vals.map (fun v => (v, q.2.1)))
  let o := writeGroup s s c d x (ps.zipIdx.map (fun e => { j := e.2, val := ⟨.num e.1.1, e.1.2⟩, masked := false }))
  let oob := ((oobOf a (rows.flatMap (fun q => q.2.2.1))).add (oobOf b (rows.flatMap (fun q => q.2.2.2.1)))).add
    (oobOf (rxM s c w) (rows.flatMap (fun q => q.2.2.2.2)))
  { out := o, cnt := (rows.foldl (fun n q => n.add q.1.cnt) o.cnt).add oob, masked := (rows.filter (fun q => q.1.masked)).length }

/-- The 48-bit sum of two words (R41, R414). -/
def sqSum (x y : Nat) : Int := signed 48 (unsigned 48 ((x : Int) + y))

/-- A word of an SQ32 source as 48 bits. -/
def sqWord (d : SDesc) (raw : Nat) : Nat := if d.wide then raw % 2 ^ 48 else unsigned 48 (signed 32 raw)

/-- The sum of SQADD at a position, from the raw words of its sources; a source that is no SQ32 gives a free sum (log entry 4). -/
def sqValue (s : State) (c : Nat) (a b : SDesc) (j : Nat) : Int :=
  let x := rawElem s c a (a.own j)
  let y := rawElem s c b (b.own j)
  if a.fmt = 0xB ∧ b.fmt = 0xB then sqSum (sqWord a x) (sqWord b y)
  else signed 48 (Config.openValue [6, a.fmt, b.fmt, b2n a.wide, b2n b.wide, x, y])

/-- SQADD (Table 5.10, R415): sums of raw words over all positions, those too that MSK marks; only a bank input's column mask leaves a position
out (R130). A DST that is not SQ32 takes the integer sum converted to its format to nearest even (DESIGN CHOICE, log entry 57). -/
def sqAdd (s : State) (c w : Nat) (x : Ctx) (cols : List Nat) (colBad : Bool) : RxOut :=
  let a := rxA s c w
  let b := rxB s c w
  let d := rxD s c w
  let n := ([a, b, d].map SDesc.n).foldl max 1
  let rows := (List.range n).map (fun j =>
    let masked := colMasked cols j
    let v := sqValue s c a b j
    let ra := readElem s c x.h a j
    let rb := readElem s c x.h b j
    let mk := readMask s c w x j
    let bad := ra.1.bad || rb.1.bad || colBad
    let lim : Int := 2 ^ 31 - 1
    let cut := max (-lim) (min lim v)
    let o : Written :=
      if d.fmt = 0xB then
        let at_ := d.place s c j
        let off := d.kind == 1 && !inPad at_ d.size
        { puts := if off || (masked && d.maskEn) then [] else
            putsAt c at_ (if masked then List.replicate d.size 0 else leBytes d.size (if d.wide then unsigned 64 v else unsigned 32 cut)) bad
          cnt := { ovf := b2n (!masked && !d.wide && cut != v), oob := b2n off } }
      else if d.mx then {}
      else writeElem s c d x { j := j, val := ⟨.num (.ofInt v), bad⟩, masked := masked }
    (o, ra.2, rb.2, mk.2, ({ j := j, val := ⟨.num (.ofInt v), bad⟩, masked := masked } : OutPos)))
  let o := if d.mx then writeGroup s s c d x (rows.map (fun r => r.2.2.2.2)) else rows.foldl (fun acc r => acc.add r.1) {}
  let oob := ((oobOf a (rows.map (fun r => r.2.1))).add (oobOf b (rows.map (fun r => r.2.2.1)))).add (oobOf (rxM s c w) (rows.map (fun r => r.2.2.2.1)))
  { out := o, cnt := o.cnt.add oob, masked := 0 }

/-! ### Issue and completion -/

/-- The input extents of an RX instruction. -/
def rxInExtents (s : State) (c w : Nat) : List Extent := (rxIns s c w).flatMap SDesc.extents

/-- What the next RX instruction of a slot sees: the writes of the slot's earlier ones are in place (R138). -/
def rxView (s : State) (c : Nat) (sl : Slot) : State := withWrites s (coreAt s c).rxOps sl

/-- The slot's next RX instruction could issue now. -/
def rxCanIssue (s : State) (c : Nat) (sl : Slot) : Bool :=
  match (progOf s c .rx sl).bind (fun p => (nextIndex p).map (fun i => (p, i))) with
  | none => false
  | some (p, i) =>
    let w := headWord s c .rx p i
    let v := rxView s c sl
    !headPoisoned s c .rx p i && (rxCause v c w).isNone && rxWait s c w &&
    (rxOp w == 0 || ((rxControl v c w).isNone && flowReady (coreAt s c).rxOps sl (rxInExtents v c w)))

/-- It is this slot's turn (R288, R319). -/
def rxTurn (s : State) (c : Nat) (sl : Slot) : Bool :=
  sl == .step || sideAllowed s (coreAt s c).rx (rxCanIssue s c .step)

/-- An RX SYNC issues and signals (R73, R144). Another instruction at the head is judged by its word alone (R140). -/
def rxSyncEffect (s : State) (c : Nat) (sl : Slot) : State :=
  match headOf s c .rx sl with
  | (s, none) => s
  | (s, some (p, i, w)) =>
    match lowest (rxWordCauses w) with
    | some cause => haltInvalid s c .rx sl i cause
    | none =>
      if rxOp w = 0 && rxWait s c w && rxTurn s c sl then
        instrDone (signalIf (advance s c .rx sl) (bit w 48) (bits w 47 42) (bits w 41 36)) p.key c
      else s

/-- A REDUCE issues: it reads its descriptors and streams and folds its rows (R144 to R150, R152, R153). -/
def rxReduceEffect (s : State) (c : Nat) (sl : Slot) (up : Upset) : State :=
  match headOf s c .rx sl with
  | (s, none) => s
  | (s, some (p, i, w)) =>
    match lowest (rxWordCauses w) with
    | some cause => haltInvalid s c .rx sl i cause
    | none =>
    if !(rxOp w == 1 && rxWait s c w && rxTurn s c sl) then s
    else
    let s := strike s (rangeBlocks (rxTables s c w))
    let v := rxView s c sl
    match rxControl v c w with
    | some a => haltPoisoned s c .rx sl a
    | none =>
    match rxCause v c w with
    | some cause => haltInvalid s c .rx sl i cause
    | none =>
      if flowReady (coreAt s c).rxOps sl (rxInExtents v c w) then
        let h := slotSettings s sl p
        let ins := rxIns v c w
        let d := rxD v c w
        let blocks := ins.flatMap (fun e => e.blocks v c) ++ maskBlocks c ins
        let s := strikeStreams s c ins blocks
        let v := rxView s c sl
        let ms := masksOf v c (ins.map (fun e => (0, e)))
        let x : Ctx := { h := h, job := srJob h sl p, bell := slotBell s sl p, rnd := 0 }
        let r := if rxRop w = 8 then sqAdd v c w x ms.1 ms.2 else reduceRows v c w x ms.1 ms.2
        let rows := bankRows (coreAt s c) ins
        let op : FlowOp := {
          slot := sl, key := p.key, word := w, bell := slotBell s sl p, reading := true, writing := true, writes := r.out.puts
          outs := d.extents
          origin := originAmong v blocks rows
          retBanks := (ins.filter (fun e => e.kind == 2 && e.ret)).map SDesc.bank
          normCheck := if d.fmt = 0xB ∧ d.scaleEn ∧ rxRop w ≠ 8 then [(d.bucket, d.scaleA)] else [] }
        let s := countBy (addCnt s c r.cnt) (coreReg c coreMaskedRows) r.masked
        let s := if rxRop w = 8 && d.fmt == 0xB then s else feedOut s p.key h d r.out.stat
        let s := viewReads s v p.key p.job c 2 blocks
        let s := poisonRows s p.key p.job c 2 rows
        let s := countBy s (coreReg c coreRxResidue) up.check.length
        let s := checksFailed s p.key (up.check.map (fun _ => ⟨3, slotBell s sl p, c, 2, 0, 0, i, none⟩))
        advance (modCore s c (fun k => { k with rxOps := k.rxOps ++ [op] })) c .rx sl
      else s

/-- The reads of the instruction on the read path end: RET and RSIG_EN take effect (R144). -/
def rxReadsEffect (s : State) (c : Nat) : State :=
  match (coreAt s c).rxOps.find? FlowOp.reading with
  | none => s
  | some o =>
    let s := modCore s c (fun k => { k with rxOps := modWhere k.rxOps FlowOp.reading (fun o => { o with reading := false }) })
    signalIf (returnBanks s c o.retBanks) (bit o.word 35) c (bits o.word 34 29)

/-- The results of the oldest instruction past its reads are written, and SIG_EN signals (R147). -/
def rxWritesEffect (s : State) (c : Nat) : State :=
  match (coreAt s c).rxOps.find? (fun o => !o.reading) with
  | none => s
  | some o =>
    let s := modCore s c (fun k => { k with rxOps := k.rxOps.erase o })
    signalIf (flowDone s c 2 o) (bit o.word 48) (bits o.word 47 42) (bits o.word 41 36)

/-! ### The commands -/

/-- RX_SYNC (R144). -/
def execRxSync (core : Nat) (slot : Slot) (up : Upset) (s : State) : Host.Outcome State Fault Refusal :=
  coreEvent s core (rxSyncEffect (plant s up) core slot)

/-- RX_REDUCE (R145). -/
def execRxReduce (core : Nat) (slot : Slot) (up : Upset) (s : State) : Host.Outcome State Fault Refusal :=
  coreEvent s core (rxReduceEffect (plant s up) core slot up)

/-- RX_READS_END (R144). -/
def execRxReadsEnd (core : Nat) (s : State) : Host.Outcome State Fault Refusal :=
  coreEvent s core (rxReadsEffect s core)

/-- RX_WRITES_COMPLETE (R147). -/
def execRxWritesComplete (core : Nat) (s : State) : Host.Outcome State Fault Refusal :=
  coreEvent s core (rxWritesEffect s core)

end Sys2Proof.Machine
end

