-- ==== Sys2Proof/Machine/Shards.lean ====
section
/-! DEFINITION. Shard headers and their commit words, COMMIT_PORT, the undo walk, the barn watch and the difference stream (R322 to R346, R506,
R513). -/

namespace Sys2Proof.Machine

/-! ### Headers (Tables 11.1 to 11.3) -/

/-- A shard header as read. -/
structure Shard where
  at_ : Nat
  commit : Nat
  land : Nat
  id : Nat
  layer : Nat
  rule : Nat
  cfmt : Nat
  flags : Nat
  words : Nat
  peer : Nat
  slot0 : Nat
  slot1 : Nat
  grad : Nat
  deriving DecidableEq, Repr

/-- The header at a device address. -/
def shardAt (s : State) (a : Nat) : Shard :=
  let b := readMem s.mem a 64
  { at_ := a, commit := leAt b 0 8, land := leAt b 8 8, id := leAt b 16 4, layer := leAt b 20 2, rule := leAt b 22 1 % 16,
    cfmt := leAt b 22 1 / 16, flags := leAt b 23 1, words := leAt b 24 4, peer := leAt b 28 4, slot0 := leAt b 32 8, slot1 := leAt b 40 8,
    grad := leAt b 48 8 }

/-- BARN: moments at a barn host. -/
def Shard.barn (h : Shard) : Bool := bit h.flags 0
/-- MIRROR: a header on a barn host. -/
def Shard.mirror (h : Shard) : Bool := bit h.flags 1
/-- DIFF: the shard feeds the difference stream. -/
def Shard.diff (h : Shard) : Bool := bit h.flags 2
/-- ACTIVE: the slot of the newest version. -/
def Shard.active (h : Shard) : Bool := bit h.commit 63
/-- UNDONE. -/
def Shard.undone (h : Shard) : Bool := bit h.commit 62
/-- FLIP_BELL. -/
def Shard.flipBell (h : Shard) : Nat := h.commit % 2 ^ 48
/-- SEQ. -/
def Shard.seq (h : Shard) : Nat := bits h.land 63 48
/-- LAND_BELL. -/
def Shard.landBell (h : Shard) : Nat := h.land % 2 ^ 48

/-- The slot in force for bell `m` (R325). -/
def Shard.inForce (h : Shard) (m : Nat) : Bool :=
  if !h.undone && decide ((h.flipBell + 2 ^ 48 - m % 2 ^ 48) % 2 ^ 48 < 2 ^ 47) then !h.active else h.active

/-- The address of directory entry `i` (R323). -/
def entryAt (s : State) (i : Nat) : Nat := rd64 s (glbReg glbShardDirLo) + 8 * i

/-- The device address of directory entry `i`'s header. -/
def dirEntry (s : State) (i : Nat) : Nat :=
  let a := entryAt s i
  if memoryRange a 8 then leNat (readMem s.mem a 8) else 0

/-- The errors that reading directory entry `i` and its header meets (R166, R172). -/
def meetShard (s : State) (i : Nat) : State :=
  let s := meetMem s (entryAt s i) 8
  meetMem s (dirEntry s i) 64

/-- SHARD_DIR_COUNT. -/
def dirCount (s : State) : Nat := fld s (glbReg glbShardDirCount) 14 0

/-- A header as R323 places it: aligned to 64 B (log entry 33), in a region of type 0x1 on the owner, 0x4 on a barn host. -/
def headerInRegion (s : State) (h : Shard) : Bool :=
  let t := some (if h.mirror then 4 else 1)
  h.at_ % 64 == 0 && decide (h.at_ + 64 ≤ hbmTop) && regionType s h.at_ == t && regionType s (h.at_ + 63) == t

/-- The header has no reserved RULE or CFMT and no set RSVD bit (R329). -/
def headerGood (h : Shard) : Bool :=
  decide (h.rule ≤ 3) && ([1, 2, 4, 5].contains h.cfmt || (h.mirror && h.cfmt == 0)) && decide (h.flags < 8) && bits h.commit 61 48 == 0

/-- REQ_BELL of the record in a mirror's request area (R328). -/
def reqBell (s : State) (h : Shard) : Nat :=
  if memoryRange (h.grad + 8) 8 then leNat (readMem s.mem (h.grad + 8) 8) % 2 ^ 48 else 0

/-- The errors that reading the record in a mirror's request area meets. -/
def meetRequest (s : State) (h : Shard) : State := if h.mirror then meetMem s h.grad 16 else s

/-- The commit word and LAND of a header written as one access (R327). -/
def putCommit (s : State) (h : Shard) (active undone : Bool) (flipBell : Nat) : State :=
  let commit := b2n active * 2 ^ 63 + b2n undone * 2 ^ 62 + flipBell % 2 ^ 48
  let land := (h.seq + 1) % 65536 * 2 ^ 48 + bellNum s % 2 ^ 48
  storeRange s h.at_ (leBytes 8 commit ++ leBytes 8 land) false

/-- A difference record formed where DIFF and DS_CTRL.EN are 1 (R327, R335). -/
def formDiff (s : State) (i type : Nat) (h : Shard) (flipBell : Nat) : State :=
  if h.diff && flag s (glbReg glbDsCtrl) 31 then
    { s with diffs := s.diffs ++ [{ index := i, type := type, header := h.at_, seq := (h.seq + 1) % 65536, flipBell := flipBell % 2 ^ 48,
                                    landBell := bellNum s % 2 ^ 48, stalled := false }] }
  else s

/-- The flips that stand without that of entry `i` for bell `n`. -/
def dropFlip (s : State) (i n : Nat) : State :=
  { s with market := { s.market with flips := s.market.flips.filter (fun f => !(f.1 == i && f.2.1 == n % 2 ^ 48)) } }

/-- A flip of entry `i` for bell `n` stands, landed in this bell (R327, R330). -/
def noteFlip (s : State) (i n : Nat) : State :=
  let s := dropFlip s i n
  { s with market := { s.market with flips := s.market.flips ++ [(i, n % 2 ^ 48, bellNum s % 2 ^ 48)] } }

/-- A flip of directory entry `i` for bell `n` (R327). -/
def flipShard (s : State) (i : Nat) (h : Shard) (n : Nat) : State :=
  let s := noteFlip (putCommit s h (!h.active) false n) i n
  let s := count s (glbReg glbFlips)
  let s := formDiff s i 1 h n
  { s with watch := s.watch.filter (fun w => w.index != i) }

/-- A reversal of directory entry `i` (R335). -/
def reverseShard (s : State) (i : Nat) (h : Shard) : State :=
  formDiff (count (dropFlip (putCommit s h (!h.active) true h.flipBell) i h.flipBell) (glbReg glbUndos)) i 2 h h.flipBell

/-! ### COMMIT_PORT (R327 to R329, R339, R340) -/

/-- A FLIP of entry `i` for bell `n` refused (R513, Table 18.5). -/
def refuseFlip (s : State) (src i n : Nat) : State :=
  let s := raiseFlag (count s (intReg intFlipsRefused)) 9 (intReg intIntEvent) 28
  submitEvent s 0x5004 src 0 (leBytes 2 i ++ [0, 0] ++ leBytes 8 n)

/-- The bell of a FLIP or a MARK by work of bell `n`: on a mirror that of its request (R328, R340). -/
def portBell (s : State) (n : Nat) (h : Shard) : Nat := if h.mirror then reqBell s h else n

/-- The UPDATE in a mirror's request area is refused: it has not been applied, and the mirror's ACTIVE is not its READ_SLOT (R339). The module
judges a request when COMMIT_PORT takes the mirror's FLIP for it (DESIGN CHOICE, log entry 52). -/
def requestRefused (s : State) (h : Shard) : Bool :=
  let b := readMem s.mem h.grad 2
  h.mirror && memoryRange h.grad 16 && leAt b 0 1 == 1 && (h.flipBell != reqBell s h || h.undone) && h.active != bit (leAt b 1 1) 0

/-- FLIP of entry `i` by work of bell `n` (R328): refused with its barn request (R339) or after a fault in update work (R513), held while an
audit of the bell is pending (R506). -/
def portFlip (s : State) (src i n : Nat) (h : Shard) : State :=
  let n := portBell s n h
  if requestRefused s h then count s (glbReg glbBarnMismatch)
  else if s.integrity.updateFault.contains n then refuseFlip s src i n
  else if auditPending s n then { s with flipWait := s.flipWait ++ [(i, n, src)] }
  else flipShard s i h n

/-- MARK of entry `i` by work of bell `n` (R340). An entry already marked for the bell stays the one it is (DESIGN CHOICE, log entry 52). -/
def portMark (s : State) (i n : Nat) (h : Shard) : State :=
  let n := portBell s n h
  if 256 ≤ s.watch.length then count s (glbReg glbBarnWatchFull)
  else if s.watch.any (fun w => w.index == i && w.bell == n) then s
  else { s with watch := s.watch ++ [{ index := i, bell := n, reported := false }] }

/-- REVERT of a mirror (R339). -/
def portRevert (s : State) (i : Nat) (h : Shard) : State :=
  if h.mirror && h.flipBell == reqBell s h && !h.undone then reverseShard s i h else count s (glbReg glbUndoRefused)

/-- A write of `val` to COMMIT_PORT by `src`, for work of bell `n` (R327 to R329). -/
def portWrite (s : State) (src n val : Nat) : State :=
  let i := bits val 13 0
  if bits val 29 14 != 0 || bits val 31 30 == 3 || decide (dirCount s ≤ i) then count s (glbReg glbPortErr)
  else
    let s := meetShard s i
    let h := shardAt s (dirEntry s i)
    if !headerInRegion s h || !headerGood h then count s (glbReg glbPortErr)
    else
      let s := meetRequest s h
      if bits val 31 30 = 0 then portFlip s src i n h
      else if bits val 31 30 = 1 then portMark s i n h
      else portRevert s i h

/-- The FLIPs that waited for audits of their bells, in order, once none is pending (R506, R513). -/
def releaseFlips (s : State) : State :=
  let go := s.flipWait.filter (fun e => !auditPending s e.2.1)
  go.foldl (fun s e =>
      if s.integrity.updateFault.contains e.2.1 then refuseFlip s e.2.2 e.1 e.2.1
      else
        let s := meetShard s e.1
        flipShard s e.1 (shardAt s (dirEntry s e.1)) e.2.1)
    { s with flipWait := s.flipWait.filter (fun e => auditPending s e.2.1) }

/-! ### The undo walk (R335, R336) -/

/-- The walk over the directory for bell `n`: each header is reversed, counted as refused or left. -/
def undoWalk (s : State) (n : Nat) : State :=
  (List.range (dirCount s)).foldl (fun s i =>
    let s := meetShard s i
    let h := shardAt s (dirEntry s i)
    if !headerInRegion s h || h.flipBell != n then s
    else if !h.undone && h.landBell == bellNum s % 2 ^ 48 then reverseShard s i h
    else count s (glbReg glbUndoRefused)) s

/-- UNDO_CTRL.GO: the walk, BUSY until its end, and the report's event and flag (R335, R336). -/
def undoGoEffect (s : State) : State :=
  if flag s (glbReg glbUndoCtrl) 30 then count s (glbReg glbUndoRefused)
  else
    let n := rd64 s (glbReg glbUndoBellLo) % 2 ^ 48
    let s := setFlag (undoWalk s n) (glbReg glbUndoCtrl) 30 true
    let b := bellNum s
    let s := reportEvent s b 0xA 0 0 n
    if n = b % 2 ^ 48 then modReport s b (fun r => { r with undone := true }) else s

/-! ### The barn watch (R340) -/

/-- Bell `a` is below `b`, compared modulo 2⁴⁸ (Table 11.2). -/
def bellBelow (a b : Nat) : Bool := decide (2 ^ 47 ≤ (a % 2 ^ 48 + 2 ^ 48 - b % 2 ^ 48) % 2 ^ 48)

/-- At edge `m`, entries of earlier bells not yet reported are reported once. -/
def barnEdge (s : State) (m : Nat) : State :=
  let due (w : Watch) : Bool := !w.reported && bellBelow w.bell m
  let s := (s.watch.filter due).foldl (fun s w =>
    let s := meetShard s w.index
    let h := shardAt s (dirEntry s w.index)
    let s := modReport s m (fun r => { r with barnStalls := r.barnStalls + 1 })
    count (reportEvent s m 6 0x10 h.peer h.id) (glbReg glbBarnStallCount)) s
  { s with watch := modWhere s.watch due (fun w => { w with reported := true }) }

/-! ### The difference stream (R343, R344) -/

/-- The region of the difference-stream buffer, base and units of 64 B. -/
def diffRegion (s : State) : Option (Nat × Nat) :=
  (firstIdx 16 (fun i => flag s (regionReg i regionCtrl) 31 && fld s (regionReg i regionCtrl) 3 0 == 5)).map (fun i =>
    (rd64 s (regionReg i regionBaseLo), rd64 s (regionReg i regionSizeLo) / 64))

/-- Bytes of an FP32 part in a slot (R324). -/
def partBytes (words : Nat) : Nat := 64 * ((words + 15) / 16)

/-- The FP32 parts that a record of the header carries, as (bit, offset in the slot) in the order W, M, V (Tables 11.3, 11.7a). -/
def diffParts (h : Shard) : List (Nat × Nat) :=
  let moments := h.mirror || !h.barn
  let m := moments && decide (2 ≤ h.rule)
  let v := moments && h.rule == 3
  (if h.mirror then [] else [(0, 0)]) ++ (if m then [(1, partBytes h.words)] else []) ++ (if v then [(2, 2 * partBytes h.words)] else [])

/-- Bytes of a part's payload: words filled up to a multiple of 4,096. -/
def payloadBytes (words : Nat) : Nat := 16384 * ((words + 4095) / 4096)

/-- A part's payload from address `at_` on: slot 0 XOR slot 1, with zero words after it; a byte from a poisoned block of either slot is
marked (R173). -/
def diffPayload (s : State) (h : Shard) (off at_ : Nat) : List Put :=
  let n := 4 * h.words
  let xs := (readMem s.mem (h.slot0 + off) n).zipWith (· ^^^ ·) (readMem s.mem (h.slot1 + off) n)
  (padTo (payloadBytes h.words) xs).zipIdx.map (fun e =>
    (at_ + e.2, e.1, decide (e.2 < n) && (poisoned s (h.slot0 + off + e.2) || poisoned s (h.slot1 + off + e.2))))

/-- The 64 bytes of a record header (Table 11.7a). -/
def diffHeader (type parts seq id flipBell landBell words units crc : Nat) : List Byte :=
  padTo 64 (leBytes 1 type ++ leBytes 1 parts ++ leBytes 2 seq ++ leBytes 4 id ++ leBytes 8 flipBell ++ leBytes 8 landBell ++
    leBytes 4 words ++ leBytes 4 units ++ leBytes 4 crc)

/-- Units of 64 B from DS_WPTR up to DS_RPTR in a buffer of `size`: DS_WPTR may advance by fewer (R344). -/
def diffRoom (s : State) (size : Nat) : Nat :=
  let wp := rd s (glbReg glbDsWptr)
  let rp := rd s (glbReg glbDsRptr)
  if rp = wp then size else (rp + size - wp) % size

/-- A PAD record where one of `len` units does not fit before the end of the buffer and the space allows the PAD: the writer goes on at
offset 0 (R343, R344). -/
def padDiff (s : State) (base size len : Nat) : State :=
  let wp := rd s (glbReg glbDsWptr)
  if wp + len ≤ size ∨ diffRoom s size ≤ size - wp then s
  else wr (storeRange s (base + 64 * wp) (diffHeader 0 0 0 0 0 0 0 (size - wp) 0) false) (glbReg glbDsWptr) 0

/-- The record `d` written at DS_WPTR: payload before header, then DS_WPTR (R343). -/
def putDiff (s : State) (d : DiffRec) (h : Shard) (base size len : Nat) : State :=
  let wp := rd s (glbReg glbDsWptr)
  let parts := diffParts h
  let n := 4 * h.words
  let s := parts.foldl (fun s p => strike s (blocksOf (h.slot0 + p.2) n ++ blocksOf (h.slot1 + p.2) n)) s
  let payload := parts.zipIdx.flatMap (fun p => diffPayload s h p.1.2 (base + 64 * wp + 64 + payloadBytes h.words * p.2))
  let s := putBytes s payload
  let head := diffHeader d.type ((parts.map (fun p => 2 ^ p.1)).sum) d.seq h.id d.flipBell d.landBell h.words len (crc32c (payload.map (·.2.1)))
  wr (storeRange s (base + 64 * wp) head false) (glbReg glbDsWptr) ((wp + len) % size)

/-- The oldest record is written where the space below DS_RPTR allows, after a PAD record where it would wrap; else its wait is counted once
(R343, R344). -/
def diffWriteEffect (s : State) : State :=
  match s.diffs, diffRegion s with
  | d :: rest, some (base, size) =>
    let s := meetMem s d.header 64
    let h := shardAt s d.header
    let len := 1 + (diffParts h).length * (payloadBytes h.words / 64)
    let s := padDiff s base size len
    if rd s (glbReg glbDsWptr) + len ≤ size ∧ len < diffRoom s size then putDiff { s with diffs := rest } d h base size len
    else if d.stalled then s
    else count { s with diffs := { d with stalled := true } :: rest } (glbReg glbDsStall)
  | _, _ => s

/-! ### The commands -/

/-- The bell of a port or handover write by a unit: that of the slot's program, or the local bell (R328, R396). -/
def writerBell (s : State) (who : Requester) (u : CoreUnit) (sl : Slot) : Nat :=
  match who with
  | .host => bellNum s
  | .core c => ((progOf s c u sl).map Prog.bell).getD (bellNum s)

/-- A COMMIT_PORT write with operation `op`. -/
def portCommand (s : State) (who : Requester) (sl : Slot) (u : CoreUnit) (op index : Nat) : State :=
  if live s && mayAsk s who then portWrite s (sourceOf who) (writerBell s who u sl) (op * 2 ^ 30 + index) else s

/-- FLIP (R327). -/
def execFlip (who : Requester) (slot : Slot) (unit : CoreUnit) (index : Nat) (s : State) : Host.Outcome State Fault Refusal :=
  .next (portCommand s who slot unit 0 index)

/-- MARK (R340). -/
def execMark (who : Requester) (slot : Slot) (unit : CoreUnit) (index : Nat) (s : State) : Host.Outcome State Fault Refusal :=
  .next (portCommand s who slot unit 1 index)

/-- REVERT (R339). -/
def execRevert (who : Requester) (slot : Slot) (unit : CoreUnit) (index : Nat) (s : State) : Host.Outcome State Fault Refusal :=
  .next (portCommand s who slot unit 2 index)

/-- DIFF_RECORD_WRITE (R343). -/
def execDiffRecordWrite (s : State) : Host.Outcome State Fault Refusal := .next (if live s then diffWriteEffect s else s)

/-- UNDO_GO (R335). -/
def execUndoGo (who : Requester) (s : State) : Host.Outcome State Fault Refusal := .next (if live s && mayAsk s who then undoGoEffect s else s)

/-- UNDO_WALK_END (R335): BUSY returns to 0. -/
def execUndoWalkEnd (s : State) : Host.Outcome State Fault Refusal :=
  .next (if live s then setFlag s (glbReg glbUndoCtrl) 30 false else s)

end Sys2Proof.Machine
end

