-- ==== Sys2Proof/Machine/Dma.lean ====
section
/-! DEFINITION. The DMA channels: descriptors and their checks, bursts, reshaping, encryption in flight, abort, retry, resume and the end of
a descriptor (R186 to R213, R485 to R490). -/

namespace Sys2Proof.Machine

/-! ### Descriptors (Table 7.1) -/

/-- A pattern: address, strides and counts (R192). -/
structure Pattern where
  addr : Nat
  s0 : Int
  s1 : Int
  s2 : Int
  c0 : Nat
  c1 : Nat
  c2 : Nat
  deriving DecidableEq, Repr

/-- A channel descriptor. -/
structure ChanDesc where
  ver : Nat
  op : Nat
  esize : Nat
  fields : Nat
  cipher : Nat
  slot : Nat
  sigEn : Bool
  sigTally : Nat
  sigCore : Nat
  src : Pattern
  dst : Pattern
  statusAddr : Nat
  msg : Nat
  tag : Nat
  rsvd : Bool
  deriving DecidableEq, Repr

/-- A pattern whose strides and counts stand from byte `o` on (Table 7.1). -/
def patternOf (b : List Byte) (addr o : Nat) : Pattern where
  addr := addr
  s0 := signed 48 (leAt b o 6)
  s1 := signed 48 (leAt b (o + 6) 6)
  s2 := signed 48 (leAt b (o + 12) 6)
  c0 := leAt b (o + 18) 2 + 1
  c1 := leAt b (o + 20) 2 + 1
  c2 := leAt b (o + 22) 2 + 1

/-- A descriptor from its 128 bytes. -/
def ChanDesc.ofBytes (b : List Byte) : ChanDesc where
  ver := leAt b 0 1 % 16
  op := leAt b 0 1 / 16
  esize := leAt b 1 1 % 8
  fields := bits (leAt b 1 1) 6 3 + 1
  cipher := leAt b 2 1 % 4
  slot := leAt b 2 1 / 4
  sigEn := bit (leAt b 3 1) 7
  sigTally := leAt b 3 1 % 64
  sigCore := leAt b 4 1 % 64
  src := patternOf b (leAt b 8 8) 24
  dst := patternOf b (leAt b 16 8) 48
  statusAddr := leAt b 72 8
  msg := leAt b 80 2 + 1
  tag := leAt b 84 4
  rsvd := bit (leAt b 1 1) 7 || bit (leAt b 3 1) 6 || leAt b 4 1 / 64 != 0 || leAt b 5 3 != 0 || leAt b 82 2 != 0 || leAt b 88 40 != 0

/-- The descriptor in a channel's window. -/
def chanDescOf (s : State) (c : Nat) : ChanDesc :=
  ChanDesc.ofBytes ((List.range 32).flatMap (fun i => leBytes 4 (rd s (chanReg c (chanDesc + 4 * i)))))

/-- Bytes of an element. -/
def ChanDesc.size (d : ChanDesc) : Nat := 2 ^ d.esize

/-- Elements of a pattern (R191). -/
def Pattern.n (p : Pattern) : Nat := p.c0 * p.c1 * p.c2

/-- The address of element `j` (R192). -/
def Pattern.at_ (p : Pattern) (j : Nat) : Nat :=
  unsigned 64 ((p.addr : Int) + ((j % p.c0 : Nat) : Int) * p.s0 + ((j / p.c0 % p.c1 : Nat) : Int) * p.s1 +
    ((j / (p.c0 * p.c1) : Nat) : Int) * p.s2)

/-- The lowest and highest byte of a pattern (R193). -/
def Pattern.extent (p : Pattern) (size : Nat) : Int × Int :=
  let lv (c : Nat) (t : Int) : Int := ((c : Int) - 1) * t
  ((p.addr : Int) + min 0 (lv p.c0 p.s0) + min 0 (lv p.c1 p.s1) + min 0 (lv p.c2 p.s2),
   (p.addr : Int) + max 0 (lv p.c0 p.s0) + max 0 (lv p.c1 p.s1) + max 0 (lv p.c2 p.s2) + size - 1)

/-- The pattern is contiguous (Table 7.2). -/
def Pattern.contiguous (p : Pattern) (size : Nat) : Bool := p.c1 == 1 && p.c2 == 1 && p.s0 == size

/-- A pattern aligned to the element size. -/
def Pattern.aligned (p : Pattern) (size : Nat) : Bool :=
  p.addr % size == 0 && p.s0 % size == 0 && p.s1 % size == 0 && p.s2 % size == 0

/-- Bytes of the frame of a message of `l` bytes (R485). -/
def frameLen (l : Nat) : Nat := 32 + 16 * ((l + 15) / 16) + 16

/-- Plaintext bytes of a descriptor. -/
def ChanDesc.bytes (d : ChanDesc) : Nat := d.src.n * d.size

/-- Bytes that the framed side occupies (R486). -/
def ChanDesc.framedBytes (d : ChanDesc) : Nat :=
  d.bytes / d.msg * frameLen d.msg + (if d.bytes % d.msg = 0 then 0 else frameLen (d.bytes % d.msg))

/-- The extents of source and destination, the framed side by its frames (R193, R486). -/
def ChanDesc.extents (d : ChanDesc) : (Int × Int) × (Int × Int) :=
  let framed (p : Pattern) : Int × Int := (p.addr, (p.addr : Int) + d.framedBytes - 1)
  (if d.cipher = 2 then framed d.src else d.src.extent d.size, if d.cipher = 1 then framed d.dst else d.dst.extent d.size)

/-- Source and destination overlap (R196). -/
def ChanDesc.overlapping (d : ChanDesc) : Bool :=
  let e := d.extents
  decide (e.1.1 ≤ e.2.2) && decide (e.2.1 ≤ e.1.2)

/-- The descriptor passes Table 7.2. -/
def ChanDesc.valid (d : ChanDesc) : Bool :=
  let z := d.size
  let e := d.extents
  d.ver == 1 && decide (d.op ≤ 4) && decide (d.esize ≤ 4) && d.cipher != 3 && !d.rsvd &&
  d.src.n == d.dst.n && d.src.aligned z && d.dst.aligned z && d.statusAddr % 32 == 0 &&
  (if d.op = 1 ∨ d.op = 2 then (z == 2 || z == 4 || z == 8) && decide (1 < d.fields) && d.src.n % d.fields == 0 else true) &&
  (if d.op = 3 ∨ d.op = 4 then (z == 2 || z == 4) && d.src.n % 4096 == 0 else true) &&
  oneRange e.1.1 e.1.2 && oneRange e.2.1 e.2.2 &&
  (if d.cipher = 0 then true else d.op == 0 && d.dst.contiguous z && (d.cipher == 1 || d.src.contiguous z))

/-- Elements of one burst. -/
def ChanDesc.burst (d : ChanDesc) : Nat :=
  if d.op = 0 then 4096 / d.size else if d.op = 1 ∨ d.op = 2 then 4096 / (d.fields * d.size) * d.fields else 4096

/-! ### The channel's state -/

/-- Channel `c`'s working state. -/
def chanAt (s : State) (c : Nat) : Channel := s.channels.getD c {}

/-- Channel `c` changed. -/
def modChan (s : State) (c : Nat) (f : Channel → Channel) : State := { s with channels := modAt s.channels c f }

/-- STATE.STATE: 0 IDLE, 1 RUNNING, 2 RETRY_WAIT, 3 STOPPED. -/
def chanStateOf (s : State) (c : Nat) : Nat := fld s (chanReg c chanState) 2 0

/-- STATE.STATE set. -/
def setChanState (s : State) (c v : Nat) : State := setFld s (chanReg c chanState) 2 0 v

/-- A command or window write dropped. -/
def chanDrop (s : State) (c : Nat) : State := count s (chanReg c chanCmdDrop)

/-- Key-store slot `i` of the export space. -/
def exportSlot (s : State) (i : Nat) : KeySlot := s.manage.exportSlots.getD i {}

/-- Keys may be used: the power-cycle count was read and is not all ones (R482). -/
def pcUsable (s : State) : Bool := s.recorder.pcc != 0xFFFFFF

/-- The key that CIPHER needs is available (R188, R482, R489). -/
def keyReady (s : State) (d : ChanDesc) : Bool :=
  d.cipher == 0 || (pcUsable s && (exportSlot s d.slot).filled && !(d.cipher == 1 && (exportSlot s d.slot).openOnly))

/-- The bursts in flight filled up to two, or to one where serial, sealed or opened, while none is held back (R195, R196). -/
def issueBursts (d : ChanDesc) (k : Channel) : Channel :=
  let room := if k.serial || d.cipher != 0 then 1 else 2
  (List.range room).foldl (fun k _ =>
    let next := match k.bursts.getLast? with | some b => b.first + b.count | none => k.pos
    if k.bursts.length < room ∧ next < d.src.n ∧ k.ending.isNone ∧ !k.aborting then
      { k with bursts := k.bursts ++ [⟨next, min d.burst (d.src.n - next)⟩] }
    else k) k

/-- The channel's descriptor ends with a status; its end is carried out by DMA_DESC_END (R197). -/
def chanEnd (s : State) (c status : Nat) : State :=
  setChanState (modChan s c (fun k => { k with ending := some status, bursts := [], aborting := false })) c 1

/-- The channel issues the reads there is room for; where one of them cannot be asked of the host it ends at once (R195, R207). A pattern
lies in one range, so its first address says where all of it is. -/
def chanIssue (s : State) (c : Nat) (d : ChanDesc) : State :=
  let t := modChan s c (issueBursts d)
  if inHost d.src.addr && !hostReachable s && decide ((chanAt s c).bursts.length < (chanAt t c).bursts.length) then chanEnd s c 3 else t

/-- The descriptor in the window starts or continues at the channel's position: its checks first (R188, R191). One with nothing left to
move ends with OK. -/
def chanRun (s : State) (c : Nat) : State :=
  let d := chanDescOf s c
  let s := setChanState s c 1
  if !d.valid then chanEnd s c 0x0E
  else if !keyReady s d then chanEnd s c 0x0B
  else if d.src.n ≤ (chanAt s c).pos then chanEnd s c 0
  else chanIssue s c d

/-- A descriptor starts from its first element (R187, R206). -/
def chanStart (s : State) (c : Nat) (src : Option DescKey) : State :=
  let d := chanDescOf s c
  chanRun (modChan s c (fun _ => { retryMax := fld s (chanReg c chanCtrl) 5 3, serial := d.overlapping, src := src })) c

/-- CTRL.OWNER. -/
def chanOwner (s : State) (c : Nat) : Bool := flag s (chanReg c chanCtrl) 7

/-- CTRL.GO (R186, R187). -/
def goEffect (s : State) (c : Nat) : State :=
  if chanOwner s c || (chanStateOf s c != 0 && chanStateOf s c != 3) then chanDrop s c else chanStart s c none

/-- CTRL.ABORT (R204, R205): the oldest burst in flight finishes; nothing left to move leaves nothing to abort. -/
def abortEffect (s : State) (c : Nat) : State :=
  let k := chanAt s c
  if chanStateOf s c = 1 then
    if k.ending.isSome || k.bursts.isEmpty then s
    else modChan s c (fun k => { k with aborting := true, bursts := k.bursts.take 1 })
  else if chanStateOf s c = 2 then chanEnd s c 2
  else chanDrop s c

/-- The stream position of the residue in the STATUS registers under the descriptor `d` in the window (R209). -/
def residuePos (s : State) (c : Nat) (d : ChanDesc) : Nat :=
  let idx (i : Nat) : Nat := leAt ((List.range 8).flatMap (fun k => leBytes 4 (rd s (chanReg c (chanStatus + 4 * k))))) (16 + 2 * i) 2
  (idx 0 + d.src.c0 * (idx 1 + d.src.c1 * idx 2)) * (if d.op = 2 then d.fields else 1)

/-- CTRL.RESUME: the descriptor in the window continues from the residue in the STATUS registers (R209). Under CIPHER the message that
holds the residue starts where the stopped descriptor left it; where the residue tells of another place, before it lie whole messages
(DESIGN CHOICE, log entry 50). -/
def resumeEffect (s : State) (c : Nat) : State :=
  if chanStateOf s c = 3 then
    let d := chanDescOf s c
    let pos := residuePos s c d
    chanRun (modChan s c (fun k =>
      let kept := k.plain / d.size == pos
      let m := pos * d.size / d.msg
      { k with
        ending := none, bursts := [], aborting := false, attempt := 0, pos := pos, serial := d.overlapping
        plain := if kept then k.plain else m * d.msg
        framed := if kept then k.framed else m * frameLen d.msg })) c
  else chanDrop s c

/-! ### Moving a burst (R194 to R201) -/

/-- The source positions of a burst of `n` elements from stream position `m` on: MERGE takes whole cells across the planes (R199). -/
def ChanDesc.sources (d : ChanDesc) (m n : Nat) : List Nat :=
  if d.op = 2 then
    let cells := d.src.n / d.fields
    (List.range n).map (fun i => (m + i) % d.fields * cells + (m + i) / d.fields)
  else (List.range n).map (· + m)

/-- The destination position of the `i`-th element of the stream (R194, R199). -/
def ChanDesc.target (d : ChanDesc) (i : Nat) : Nat :=
  if d.op = 1 then i % d.fields * (d.src.n / d.fields) + i / d.fields else i

/-- A block of 4,096 words turned into bit planes, or back (R200, R201). -/
def planes (split : Bool) (size : Nat) (bs : List Byte) : List Byte :=
  let w := 8 * size
  if split then
    let ws := (chunks size 4096 bs).map leNat
    (List.range w).flatMap (fun b => leBytes 512 (ws.zipIdx.foldl (fun a e => a + (e.1 >>> b % 2) <<< e.2) 0))
  else
    let ps := (chunks 512 w bs).map leNat
    (List.range 4096).flatMap (fun i => leBytes size (ps.zipIdx.foldl (fun a e => a + (e.1 >>> i % 2) <<< e.2) 0))

/-- The poisoned destination blocks of a burst counted (R198). -/
def countPoison (s : State) (c : Nat) (rs : List (Nat × List Byte × Bool)) : State :=
  let bs := ((rs.filter (fun r => r.2.2)).flatMap (fun r => blocksOf r.1 r.2.1.length)).dedup
  let new := bs.filter (fun b => !(chanAt s c).poisonBlocks.contains b)
  modChan (countBy s (chanReg c chanPoisonIn) new.length) c (fun k => { k with poisonBlocks := new.foldl setIns k.poisonBlocks })

/-- The words of a block of bit planes that destination word `e` of `size` bytes draws on: of a split, those with a bit in its bytes; of a
merge, the word of each plane that holds its bit (R200, R201). -/
def planeSources (split : Bool) (size e : Nat) : List Nat :=
  if split then ((List.range size).flatMap (fun i => (List.range 8).map (fun w => (size * e + i) % 512 * 8 + w))).dedup
  else ((List.range (8 * size)).map (fun b => (512 * b + e / 8) / size)).dedup

/-- The pieces a burst writes: destination address, bytes, mark (R173, R194, R199, R200). -/
def burstPieces (s : State) (v : HostView) (d : ChanDesc) (b : Burst) : List (Nat × List Byte × Bool) :=
  let got := (d.sources b.first b.count).map (fun j => devRead s v (d.src.at_ j) d.size)
  if d.op = 3 ∨ d.op = 4 then
    let out := planes (d.op == 3) d.size (got.flatMap Got.bytes)
    (chunks d.size 4096 out).zipIdx.map (fun e =>
      (d.dst.at_ (b.first + e.2), e.1, (planeSources (d.op == 3) d.size e.2).any (fun w => (got[w]?).any Got.bad)))
  else got.zipIdx.map (fun e => (d.dst.at_ (d.target (b.first + e.2)), e.1.bytes, e.1.bad))

/-- The origin that a burst's poisoned blocks inherit. -/
def burstOrigin (s : State) (d : ChanDesc) (b : Burst) : MarkOrigin :=
  originAmong s ((d.sources b.first b.count).flatMap (fun j => if isMemory (d.src.at_ j) then blocksOf (d.src.at_ j) d.size else [])) []

/-- A burst's pieces written and counted, with the origin of their marks. -/
def writePieces (s : State) (c : Nat) (rs : List (Nat × List Byte × Bool)) (o : MarkOrigin) : State :=
  let s := countPoison (devWrites s rs) c rs
  inheritOrigin s (rs.flatMap (fun r => if r.2.2 && isMemory r.1 then (blocksOf r.1 r.2.1.length).map (fun b => (64 * b, 0, true)) else [])) o

/-! ### Encryption in flight (R202, R203, R485 to R490) -/

/-- The messages that a core has sealed under a slot's key in this power cycle (R481). -/
def sealedCount (s : State) (slot gen core : Nat) : Nat :=
  (((s.banks.getD 4 {}).exportCounts.find? (fun e => e.1 == slot && e.2.1 == gen && e.2.2.1 == core)).map (fun e => e.2.2.2)).getD 0

/-- Bank `b` changed. -/
def modBankC (s : State) (b : Nat) (f : CipherBank → CipherBank) : State := { s with banks := modAt s.banks b f }

/-- The nonce of a message (R480, R481): bank, core, port, use, power cycles and count. -/
def nonceOf (bank core port use pc n : Nat) : Nat :=
  ((bank <<< 29 + core <<< 20 + port <<< 16 + use <<< 8) <<< 64) + (pc % 2 ^ 24) <<< 40 + n % 2 ^ 40

/-- A refusal of R482 counted. -/
def nonceOut (s : State) (b : Nat) : State := raiseFlag (count s (bankReg b ciphNonceExh)) 8 (bankReg b ciphCiphEvent) 30

/-- A message that could not be sealed or opened stops the descriptor (R203, R489). -/
def cipherStop (s : State) (c status : Nat) : State := chanEnd s c status

/-- Message number of a plaintext byte offset. -/
def ChanDesc.msgLen (d : ChanDesc) (off : Nat) : Nat := min d.msg (d.bytes - off)

/-- Bytes with the mark of each. -/
abbrev Marked := List (Byte × Bool)

/-- `len` bytes of plaintext from offset `off` on, each with the mark of its element. -/
def plainOf (s : State) (v : HostView) (d : ChanDesc) (off len : Nat) : Marked :=
  let lo := off / d.size
  let hi := (off + len + d.size - 1) / d.size
  (((List.range (hi - lo)).flatMap (fun i =>
    let g := devRead s v (d.src.at_ (lo + i)) d.size
    g.bytes.map (fun b => (b, g.bad)))).drop (off - lo * d.size)).take len

/-- Marked bytes as pieces from an address. -/
def piecesAt (a : Nat) (bs : Marked) : List (Nat × List Byte × Bool) := bs.zipIdx.map (fun e => (a + e.2, [e.1.1], e.1.2))

/-- Clean bytes. -/
def clean (bs : List Byte) : Marked := bs.map (fun b => (b, false))

/-- The channel stands behind a message of `len` plaintext and `frame` framed bytes. -/
def messageDone (s : State) (c : Nat) (d : ChanDesc) (len frame : Nat) : State :=
  modChan s c (fun k => { k with plain := k.plain + len, framed := k.framed + frame, pos := min d.src.n ((k.plain + len) / d.size) })

/-- One message sealed and its frame written (R202, R485). The core that a bank deals the message to is free (R477). `off` is the
message's first plaintext byte. A ciphertext byte carries the mark of its plaintext byte, and the tag that of them all (R173). -/
def sealMessage (s : State) (v : HostView) (c : Nat) (d : ChanDesc) (off : Nat) : State :=
  let len := d.msgLen off
  let p := plainOf s v d off len
  let key := exportSlot s d.slot
  let (r, s) := drawNat s
  let core := r % 80
  let n := sealedCount s d.slot key.gen core
  if 2 ^ 40 - 1 ≤ n then cipherStop (nonceOut s 4) c 0x0B
  else
    let nonce := nonceOf 4 core 0xF 2 s.recorder.pcc n
    let iv := beBytes 12 nonce
    let head : List Byte := [1] ++ leBytes 1 d.slot ++ leBytes 1 key.gen ++ [0] ++ leBytes 4 (len - 1) ++ iv ++ leBytes 4 d.tag ++
      List.replicate 8 0
    let sealed := gcmSeal key.key iv head (p.map (·.1))
    let pad := 16 * ((len + 15) / 16) - len
    let tagBad := p.any (·.2)
    let frame := clean head ++ sealed.1.zip (p.map (·.2)) ++ clean (List.replicate pad 0) ++ sealed.2.map (fun b => (b, tagBad))
    let s := modBankC s 4 (fun b => { b with
      exportCounts := b.exportCounts.filter (fun e => !(e.1 == d.slot && e.2.1 == key.gen && e.2.2.1 == core)) ++ [(d.slot, key.gen, core, n + 1)] })
    let s := countBy (count s (bankReg 4 ciphMsgSealed)) (bankReg 4 ciphBlocks) ((len + 15) / 16)
    let s := writePieces s c (piecesAt (d.dst.addr + (chanAt s c).framed) frame) (.other (0x5000 + c))
    messageDone s c d len frame.length

/-- One frame opened and its plaintext written; a failure poisons the message's destination range (R203, R487). A frame whose plaintext would
reach past the end of the destination fails too (DESIGN CHOICE, log entry 50). A plaintext byte carries the mark of its ciphertext byte, and
all of them that of the header, which holds the IV (R173). -/
def openMessage (s : State) (v : HostView) (c : Nat) (d : ChanDesc) (off : Nat) : State :=
  let k := chanAt s c
  let nominal := d.msgLen off
  let a := d.src.addr + k.framed
  let left := d.framedBytes - k.framed
  let h := devRead s v a 32
  let len := leAt h.bytes 4 4 + 1
  let good := decide (32 ≤ left) && leAt h.bytes 0 1 == 1 && leAt h.bytes 1 1 == d.slot && leAt h.bytes 3 1 == 0 && leAt h.bytes 24 8 == 0 &&
    decide (len ≤ d.msg) && decide (frameLen len ≤ left) && decide (off + len ≤ d.bytes)
  let fail (s : State) (n : Nat) : State :=
    let s := count s (bankReg 4 ciphTagFail)
    let s := if isMemory (d.dst.addr + off) then poisonRange s (d.dst.addr + off) n (0x5000 + c) else s
    chanEnd s c 0x0A
  if !good then fail s nominal
  else
    let body := devRead s v (a + 32) (frameLen len - 32)
    let marks := (List.range len).map (fun i => h.bad || devBad s v (a + 32 + i) 1)
    let r := gcmOpen (exportSlot s d.slot).key (slice h.bytes 8 12) h.bytes (body.bytes.take len) (slice body.bytes (16 * ((len + 15) / 16)) 16)
    let s := countBy s (bankReg 4 ciphBlocks) ((len + 15) / 16)
    let s := writePieces s c (piecesAt (d.dst.addr + off) (r.1.zip marks)) (.other (0x5000 + c))
    if r.2 then messageDone (count s (bankReg 4 ciphMsgOpened)) c d len (frameLen len) else fail s len

/-! ### Burst events -/

/-- The ranges that the oldest burst reads. -/
def burstReads (s : State) (c : Nat) (d : ChanDesc) (b : Burst) : List (Nat × Nat) :=
  if d.cipher = 2 then [(d.src.addr + (chanAt s c).framed, min (frameLen d.msg) (d.framedBytes - (chanAt s c).framed))]
  else if d.cipher = 1 then
    let off := (chanAt s c).plain
    (List.range (d.msgLen off / d.size + 1)).filterMap (fun i =>
      if (off / d.size + i) * d.size < off + d.msgLen off then some (d.src.at_ (off / d.size + i), d.size) else none)
  else (d.sources b.first b.count).map (fun j => (d.src.at_ j, d.size))

/-- A burst's reads fail in the host window (R206). -/
def burstFails (s : State) (v : HostView) (c : Nat) (d : ChanDesc) (b : Burst) : Bool :=
  (burstReads s c d b).any (fun r => match spaceOf r.1 with | .host x => (hostFails v x r.2).isSome | _ => false)

/-- A burst cannot be moved: its reads come over a link that is down, or its writes cannot be issued (R207). -/
def burstCut (s : State) (d : ChanDesc) : Bool :=
  (inHost d.src.addr && !s.power.linkUp) || (inHost d.dst.addr && !hostReachable s)

/-- A failed attempt of the oldest burst's read (R205, R206). -/
def busError (s : State) (c : Nat) : State :=
  let k := chanAt s c
  let s := count s (chanReg c chanBusErrCount)
  if k.aborting then chanEnd s c 2
  else if k.retryMax ≤ k.attempt then chanEnd s c 3
  else setChanState s c 2

/-- After a burst the channel goes on, or its descriptor ends (R204, R205). -/
def afterBurst (s : State) (c : Nat) (d : ChanDesc) : State :=
  let k := chanAt s c
  if k.ending.isSome then s
  else if k.aborting then chanEnd s c 2
  else if d.src.n ≤ k.pos then chanEnd s c 0
  else if d.cipher != 0 ∧ !keyReady s d then chanEnd s c 0x0B
  else chanIssue s c d

/-- A new failure of the oldest burst's read, before any retry of it (R206). -/
def firstError (s : State) (c : Nat) : State := busError (modChan s c (fun k => { k with attempt := 0 })) c

/-- The reads of the oldest burst have returned and it writes (R195). -/
def burstEffect (s : State) (c : Nat) (v : HostView) : State :=
  let k := chanAt s c
  match k.bursts with
  | [] => s
  | b :: rest =>
    if chanStateOf s c != 1 || k.ending.isSome then s
    else
      let d := chanDescOf s c
      if burstCut s d then chanEnd s c 3
      else if burstFails s v c d b then firstError s c
      else if !keyReady s d then chanEnd s c 0x0B
      else
        let reads := burstReads s c d b
        let s := strike (noteEp s v reads) (reads.flatMap (fun r => if isMemory r.1 then blocksOf r.1 r.2 else []))
        let s := modChan s c (fun k => { k with bursts := rest, attempt := 0 })
        let s :=
          if d.cipher = 1 then sealMessage s v c d k.plain
          else if d.cipher = 2 then openMessage s v c d k.plain
          else modChan (writePieces s c (burstPieces s v d b) (burstOrigin s d b)) c (fun k => { k with pos := b.first + b.count })
        afterBurst s c d

/-- A host-window read is answered with an error or times out (R206). -/
def busErrorEffect (s : State) (c : Nat) : State :=
  let k := chanAt s c
  match k.bursts with
  | [] => s
  | b :: _ =>
    let d := chanDescOf s c
    if chanStateOf s c = 1 ∧ k.ending.isNone ∧ (burstReads s c d b).any (fun r => inHost r.1) then firstError s c else s

/-- The retry wait ends and the failed read is repeated (R206, R207). -/
def retryEffect (s : State) (c : Nat) (v : HostView) : State :=
  let k := chanAt s c
  match k.bursts with
  | [] => s
  | b :: _ =>
    if chanStateOf s c != 2 then s
    else
      let d := chanDescOf s c
      if !hostReachable s then chanEnd s c 3
      else
        let s := count s (chanReg c chanRetryCount)
        let s := modChan s c (fun k => { k with attempt := k.attempt + 1, retries := k.retries + 1 })
        if burstFails s v c d b then busError s c else setChanState (modChan s c (fun k => { k with attempt := 0 })) c 1

/-! ### The end of a descriptor (R197, R208, R212) -/

/-- The source position of the first element not moved: in MERGE the cell's place in plane 0. -/
def ChanDesc.residueAt (d : ChanDesc) (pos : Nat) : Nat := if d.op = 2 then pos / d.fields else pos

/-- The stream position that a status record speaks of: a descriptor ended under R188 has its whole stream as residue, one refused on RESUME
too (R208). -/
def residueFrom (k : Channel) (status : Nat) : Nat := if status = 0x0E then 0 else k.pos

/-- The status record (Table 7.5). An aborted descriptor has a residue even where the burst that finished was its last, 0 bytes then (R204). -/
def statusRecord (d : ChanDesc) (k : Channel) (status seq : Nat) : List Byte :=
  let pos := residueFrom k status
  let refused := status = 0x0E ∨ (status = 0x0B ∧ k.pos = 0)
  let valid := status != 0 && (refused || status == 2 || decide (pos < d.src.n))
  let bytes := if d.esize ≤ 4 then (d.src.n - pos) * d.size else 2 ^ 64 - 1
  let j := if d.esize ≤ 4 then d.residueAt pos else 0
  leBytes 1 status ++ leBytes 1 (b2n valid + 2 * b2n (!k.poisonBlocks.isEmpty) + 4 * b2n k.serial) ++ leBytes 1 (min k.retries 255) ++ [0] ++
  leBytes 4 d.tag ++ leBytes 8 (if valid then bytes else 0) ++
  leBytes 2 (if valid then j % d.src.c0 else 0) ++ leBytes 2 (if valid then j / d.src.c0 % d.src.c1 else 0) ++
  leBytes 2 (if valid then j / (d.src.c0 * d.src.c1) else 0) ++ [0, 0] ++ leBytes 4 (min k.poisonBlocks.length 0xFFFFFFFF) ++ leBytes 4 seq

/-- The end of a descriptor carried out in order: record, mirror, signal, event, interrupt, and the ring descriptor that started it. -/
def descEndEffect (s : State) (c : Nat) : State :=
  let k := chanAt s c
  match k.ending with
  | none => s
  | some status =>
    let d := chanDescOf s c
    let seq := satAdd (rd s (chanReg c chanSeq)) 1
    let rec_ := statusRecord d k status seq
    let s := if d.statusAddr = 0 then s else devWrite s d.statusAddr rec_ false
    let s := (List.range 8).foldl (fun s i => wr s (chanReg c (chanStatus + 4 * i)) (leAt rec_ (4 * i) 4)) s
    let s := wr s (chanReg c chanSeq) seq
    let s := setFld (setChanState s c (if bit (leAt rec_ 1 1) 0 then 3 else 0)) (chanReg c chanState) 31 24 status
    let s := modChan s c (fun k => { k with ending := none, src := none })
    let s := signalIf s d.sigEn d.sigCore d.sigTally
    let s := raiseFlag s 1 (chanReg c chanEvent) (if status = 0 then 31 else 30)
    let s := if status != 0 || flag s (chanReg c chanCtrl) 6 then sendVector s (fld s (irqReg irqDmaVec + 4 * c) 7 0) else s
    match k.src with
    | some key => endDesc s key status seq 0
    | none => s

/-! ### The commands -/

/-- A command of channel `c` takes effect while the package runs. -/
def chanEvent_ (s : State) (c : Nat) (t : State) : Host.Outcome State Fault Refusal :=
  .next (if live s && okChan c then t else s)

/-- DMA_GO (R187). -/
def execDmaGo (who : Requester) (chan : Nat) (s : State) : Host.Outcome State Fault Refusal :=
  chanEvent_ s chan (if mayAsk s who then goEffect s chan else s)

/-- DMA_ABORT (R204). -/
def execDmaAbort (who : Requester) (chan : Nat) (s : State) : Host.Outcome State Fault Refusal :=
  chanEvent_ s chan (if mayAsk s who then abortEffect s chan else s)

/-- DMA_RESUME (R209). -/
def execDmaResume (who : Requester) (chan : Nat) (s : State) : Host.Outcome State Fault Refusal :=
  chanEvent_ s chan (if mayAsk s who then resumeEffect s chan else s)

/-- DMA_BURST_READ_DONE (R195). -/
def execDmaBurstReadDone (chan : Nat) (host : HostView) (up : Upset) (s : State) : Host.Outcome State Fault Refusal :=
  chanEvent_ s chan (burstEffect (plant s up) chan host)

/-- DMA_BUS_ERROR (R206): each of the three answers is a bus error. -/
def execDmaBusError (chan : Nat) (_answer : HostAnswer) (s : State) : Host.Outcome State Fault Refusal :=
  chanEvent_ s chan (busErrorEffect s chan)

/-- DMA_RETRY_TIMER (R206). -/
def execDmaRetryTimer (chan : Nat) (host : HostView) (s : State) : Host.Outcome State Fault Refusal :=
  chanEvent_ s chan (retryEffect s chan host)

/-- DMA_DESC_END (R197). -/
def execDmaDescEnd (chan : Nat) (s : State) : Host.Outcome State Fault Refusal :=
  chanEvent_ s chan (descEndEffect s chan)

end Sys2Proof.Machine
end

