-- ==== Sys2Proof/Machine/Cipher.lean ====
section
/-! DEFINITION. Link-die cipher banks: road keys and their epochs, dealing messages to cores, sealing, opening and suspension (R476 to R482, R492
to R498), and the market bells that end a grace window (R447 to R449). -/

namespace Sys2Proof.Machine

/-! ### The market policy (Table 15.1) -/

/-- A word of the market policy of a half. -/
def mktWord (h : Half) (o : Nat) : Nat := setting h (0x1400 + o)

/-- Bells per round, H. -/
def mktH (h : Half) : Nat := bits (mktWord h setMktH) 15 0

/-- Index of this site. -/
def mktSite (h : Half) : Nat := bits (mktWord h setMktMktCtrl) 25 24

/-- A policy with EN = 1 is invalid (R449). -/
def mktInvalid (h : Half) : Bool :=
  let c := mktWord h setMktMktCtrl
  bit c 31 && (mktH h == 0 || decide (2 ≤ bits c 29 28) || !bit c (18 + mktSite h))

/-- Markets are on: EN = 1 and the policy is valid (R449). -/
def mktOn (h : Half) : Bool := bit (mktWord h setMktMktCtrl) 31 && !mktInvalid h

/-- The market bell of round ROUND0. -/
def mktBase (h : Half) : Nat := mktWord h setMktBaseLo + 2 ^ 32 * mktWord h setMktBaseHi

/-- Edge `b` is a market bell (R448). -/
def isMarketBell (h : Half) (b : Nat) : Bool := mktOn h && decide (mktBase h ≤ b) && (b - mktBase h) % mktH h == 0

/-- The first market bell after `b` (R448). -/
def nextMarketBell (h : Half) (b : Nat) : Nat :=
  if b < mktBase h then mktBase h else mktBase h + ((b - mktBase h) / mktH h + 1) * mktH h

/-! ### Key policy and epochs (Table 16.5, R495, R496) -/

/-- A word of the key policy in force. -/
def keyWord (s : State) (o : Nat) : Nat := setting s.activeHalf (0x1C00 + o)

/-- Key epoch E in force. -/
def keyEpoch (s : State) : Nat := keyWord s setKeyEpoch

/-- The root slot that the key policy names. -/
def keyRoot (s : State) : KeySlot := s.manage.rootSlots.getD (bits (keyWord s setKeyKeyCtrl) 2 0) {}

/-- Road keys exist (R482, R494). -/
def roadKeysExist (s : State) : Bool := pcUsable s && bit (keyWord s setKeyKeyCtrl) 31 && (keyRoot s).filled

/-- The bell at which the grace window ends; all ones for none. -/
def graceEnd (s : State) : Nat := rd64 s (bankReg 4 ciphGraceEndLo)

/-- The grace window of the previous epoch is open. -/
def graceOpen (s : State) : Bool := graceEnd s != 2 ^ 64 - 1 && decide (bellNum s < graceEnd s)

/-- A received frame of epoch `e` may be opened (R496). -/
def epochAccepted (s : State) (e : Nat) : Bool :=
  e == keyEpoch s || e == (keyEpoch s + 1) % 2 ^ 32 || (graceOpen s && e == rd s (bankReg 4 ciphEpochPrev))

/-- The edge at which a grace window opened at edge `b` ends (R496). -/
def graceEndFrom (h : Half) (b : Nat) : Nat := if mktOn h then nextMarketBell h b + mktH h else b + 2 * mktH h

/-- Grace windows that have ended show all ones. -/
def graceEdge (s : State) (n : Nat) : State :=
  if graceEnd s != 0 && graceEnd s ≤ n then wr64 s (bankReg 4 ciphGraceEndLo) (2 ^ 64 - 1) else s

/-! ### The key table (R492 to R494) -/

/-- Cipher bank `b`. -/
def bankAt (s : State) (b : Nat) : CipherBank := s.banks.getD b {}

/-- A key-table entry is the key of this road, direction and epoch under the policy in force. -/
def RoadKey.isFor (s : State) (src dst road epoch : Nat) (k : RoadKey) : Bool :=
  k.root == (keyRoot s).key && k.job == keyWord s setKeyJobId && k.srcSite == src && k.dstSite == dst && k.road == road &&
  k.epoch == epoch

/-- The table with room for one more entry: when it is full, the first of those of the lowest epoch goes, never one of the epoch in force. -/
def keyRoom (s : State) (ks : List RoadKey) : Option (List RoadKey) :=
  if ks.length < 128 then some ks
  else
    let old := ks.filter (fun k => k.epoch != keyEpoch s)
    (old.find? (fun k => old.all (fun j => decide (k.epoch ≤ j.epoch)))).map (fun k => ks.erase k)

/-- The key of a road, direction and epoch in bank `b`, derived where the bank does not hold it. -/
def needKey (s : State) (b src dst road epoch : Nat) : Option RoadKey × State :=
  if !roadKeysExist s then (none, s)
  else
    match (bankAt s b).keys.find? (RoadKey.isFor s src dst road epoch) with
    | some k => (some k, s)
    | none =>
      match keyRoom s (bankAt s b).keys with
      | none => (none, s)
      | some ks =>
        let root := (keyRoot s).key
        let job := keyWord s setKeyJobId
        let k : RoadKey :=
          { root := root, job := job, srcSite := src, dstSite := dst, road := road, epoch := epoch,
            key := roadKey root job epoch src dst road, counts := [] }
        (some k, count (modBankC s b (fun c => { c with keys := ks ++ [k] })) (bankReg b ciphDerives))

/-- Road entry `r`. -/
def roadAt (s : State) (r : Nat) : Road := s.roads.getD r {}

/-- Partner entry `p`. -/
def partnerAt (s : State) (p : Nat) : Partner := s.partners.getD p {}

/-- The enabled roads whose port this module owns. -/
def ownRoads (s : State) : List Nat :=
  (List.range 16).filter (fun r => (roadAt s r).en && (roadAt s r).owner == ownXyz s)

/-- The bank that serves a port: that of its link die, two ports to a die (Table 16.1). -/
def bankOfPort (p : Nat) : Nat := p / 2

/-- The keys of epochs E and E + 1 for both directions of every enabled road owned here (R493). -/
def deriveRoads (s : State) : State :=
  (ownRoads s).foldl (fun s r =>
    let far := (partnerAt s (roadAt s r).partner).site
    [keyEpoch s, (keyEpoch s + 1) % 2 ^ 32].foldl (fun s e =>
      let b := bankOfPort (roadAt s r).port
      let s := (needKey s b (ownSite s) far (roadAt s r).road e).2
      (needKey s b far (ownSite s) (roadAt s r).road e).2) s) s

/-- The epoch registers and the key tables after a swap at edge `b` from half `old` (R493, R496). -/
def keySwap (s : State) (old : Half) (b : Nat) : State :=
  let e := setting old (0x1C00 + setKeyEpoch)
  let moved := setting old (0x1C00 + setKeyJobId) != keyWord s setKeyJobId ||
    bits (setting old (0x1C00 + setKeyKeyCtrl)) 2 0 != bits (keyWord s setKeyKeyCtrl) 2 0
  let s := wr s (bankReg 4 ciphEpochCur) (keyEpoch s)
  let s := if e != keyEpoch s then
      wr64 (wr s (bankReg 4 ciphEpochPrev) e) (bankReg 4 ciphGraceEndLo) (graceEndFrom s.activeHalf b)
    else s
  let s := if moved then wr64 s (bankReg 4 ciphGraceEndLo) (2 ^ 64 - 1) else s
  deriveRoads s

/-! ### Cores (R477 to R480) -/

/-- The port owner's timer in nanoseconds (Table 14.3). -/
def ownNs (s : State) : Nat := s.now * 10 / 17

/-- `bs` with `new` put in place at offset `off`. -/
def patch (bs : List Byte) (off : Nat) (new : List Byte) : List Byte := bs.take off ++ new ++ bs.drop (off + new.length)

/-- A frame that finds no key is not sent (R494). -/
def keyMiss (s : State) (b : Nat) : State := raiseFlag (count s (bankReg b ciphKeyMiss)) 8 (bankReg b ciphCiphEvent) 31

/-- A received frame that fails R423. -/
def authFail (s : State) : State := raiseFlag (count s (stlReg stlAuthFail)) 6 (stlReg stlStlEvent) 29

/-- The Stolcen header of a frame as sealed: epoch, nonce and times (Table 14.3). -/
def sealedHeader (s : State) (r : Nat) (head : List Byte) (epoch nonce : Nat) : List Byte :=
  let road := roadAt s r
  let hold := if road.farTime = 0 then 0 else ownNs s - road.farAt * 10 / 17
  patch (patch (patch head 8 (leBytes 4 epoch)) 28 (leBytes 12 nonce)) 40
    (leBytes 8 (ownNs s) ++ leBytes 8 road.farTime ++ leBytes 4 hold)

/-- A message to be sealed starts on a core of bank `b`; none when there is no key or the core's count is at its end (R482, R494). -/
def startSeal (s : State) (b core : Nat) (j : CipherJob) : Option CipherJob × State :=
  let road := roadAt s j.road
  match needKey s b (ownSite s) (partnerAt s road.partner).site road.road (keyEpoch s) with
  | (none, s) => (none, keyMiss s b)
  | (some k, s) =>
    let n := sget 0 k.counts core
    if 2 ^ 40 - 1 ≤ n then (none, nonceOut s b)
    else
      let nonce := nonceOf b core road.port 1 s.recorder.pcc n
      let head := sealedHeader s j.road (j.bytes.take 64) k.epoch nonce
      let out := gcmSeal k.key (beBytes 12 nonce) head (j.bytes.drop 64)
      let s := modBankC s b (fun c => { c with
        keys := c.keys.map (fun q => if q == k then { q with counts := sput 0 q.counts core (n + 1) } else q) })
      (some { j with core := core, ok := true, bytes := head ++ out.1 ++ out.2 }, s)

/-- A received message starts on a core of bank `b`; none when there is no key (R494). -/
def startOpen (s : State) (b core : Nat) (j : CipherJob) : Option CipherJob × State :=
  let head := j.bytes.take 64
  let body := j.bytes.drop 64
  let n := body.length - 16
  match needKey s b (leAt head 2 1) (ownSite s) (roadAt s j.road).road (leAt head 8 4) with
  | (none, s) => (none, authFail s)
  | (some k, s) =>
    let out := gcmOpen k.key (beBytes 12 (leAt head 28 12)) head (body.take n) (body.drop n)
    (some { j with core := core, ok := out.2, bytes := head ++ out.1 }, s)

/-- A message starts on a core; `false` when it is refused and the core stays free. -/
def startJob (s : State) (b core : Nat) (j : CipherJob) : Bool × State :=
  match (if j.sealing then startSeal s b core j else startOpen s b core j) with
  | (some j, s) => (true, modBankC s b (fun c => { c with running := c.running ++ [j] }))
  | (none, s) => (false, s)

/-- The cores of a link-die bank (Table 16.1). -/
def bankCores : Nat := 256

/-- A core runs a message. -/
def coreBusy (k : CipherBank) (core : Nat) : Bool := k.running.any (fun j => j.core == core)

/-- A message dealt to bank `b`: to a free core, else it waits, an ordinary one for a core with the fewest messages waiting (R477, R478). -/
def dealJob (s : State) (b : Nat) (j : CipherJob) : State :=
  let k := bankAt s b
  let free := (List.range bankCores).filter (fun c => !coreBusy k c)
  let (r, s) := drawNat s
  if !free.isEmpty then (startJob s b (free.getD (r % free.length) 0) j).2
  else if j.urgent then modBankC s b (fun k => { k with waitingJobs := k.waitingJobs ++ [{ j with core := bankCores }] })
  else
    let waits (c : Nat) : Nat := (k.waitingJobs.filter (fun w => w.core == c)).length
    let least := (List.range bankCores).filter (fun c => (List.range bankCores).all (fun d => decide (waits c ≤ waits d)))
    modBankC s b (fun k => { k with waitingJobs := k.waitingJobs ++ [{ j with core := least.getD (r % least.length) 0 }] })

/-- A core that has become free takes an urgent message that waits, resumes what it suspended last, or takes a message that waits for it
(R478, R479); a message that is refused leaves it free for the next. -/
def fillCore (b core : Nat) : Nat → State → State
  | 0, s => s
  | fuel + 1, s =>
    let k := bankAt s b
    let start (s : State) (j : CipherJob) : State :=
      let (ok, s) := startJob (modBankC s b (fun k => { k with waitingJobs := k.waitingJobs.erase j })) b core j
      if ok then s else fillCore b core fuel s
    match k.waitingJobs.find? (·.urgent) with
    | some j => start s j
    | none =>
      match k.suspended.find? (fun j => j.core == core) with
      | some j => modBankC s b (fun k => { k with suspended := k.suspended.erase j, running := k.running ++ [j] })
      | none =>
        match k.waitingJobs.find? (fun j => j.core == core) with
        | some j => start s j
        | none => s

/-- A core has finished its message, which leaves it; the core takes its next work. -/
def finishCore (s : State) (b core : Nat) : Option CipherJob × State :=
  match (bankAt s b).running.find? (fun j => j.core == core) with
  | none => (none, s)
  | some j =>
    let s := modBankC s b (fun k => { k with running := k.running.erase j })
    (some j, fillCore b core ((bankAt s b).waitingJobs.length + 1) s)

/-- The core that the bank takes for an urgent message (R478): the one of the fewest suspended contexts below 4, lowest-numbered. -/
def suspendCore (k : CipherBank) : Option CipherJob :=
  let held (c : Nat) : Nat := (k.suspended.filter (fun j => j.core == c)).length
  let cand := k.running.filter (fun j => !j.urgent && decide (held j.core < 4))
  cand.find? (fun j => cand.all (fun i => decide (held j.core < held i.core) || (held j.core == held i.core && decide (j.core ≤ i.core))))

/-- A core of bank `b` suspends its ordinary message for an urgent one that waits (R478, R479). -/
def suspendEffect (s : State) (b : Nat) : State :=
  let k := bankAt s b
  match k.waitingJobs.find? (·.urgent), suspendCore k with
  | some u, some j =>
    let s := count s (bankReg b ciphSuspends)
    let s := modBankC s b (fun k => { k with
      running := k.running.erase j, suspended := j :: k.suspended, waitingJobs := k.waitingJobs.erase u })
    let (ok, s) := startJob s b j.core u
    if ok then s else fillCore b j.core (k.waitingJobs.length + 1) s
  | _, _ => s

/-- Messages of the link-die banks dropped, keys and counters kept (R444, R498). -/
def dropJobs (s : State) : State :=
  { s with banks := s.banks.map (fun k => { k with running := [], suspended := [], waitingJobs := [] }) }

/-- URGENT_SUSPEND (R478). -/
def execUrgentSuspend (bank : Nat) (s : State) : Host.Outcome State Fault Refusal :=
  .next (if live s && decide (bank < 4) then suspendEffect s bank else s)

end Sys2Proof.Machine
end

