-- ==== Sys2Proof/Machine/Ports.lean ====
section
/-! DEFINITION. Mopin ports: training, flits, retry, credits and arbitration (R347 to R374, R584, R585). -/

namespace Sys2Proof.Machine

/-! ### Registers of a port (Table 12.9) -/

/-- PORT_STATUS.STATE set. -/
def setPortState (s : State) (p v : Nat) : State := setFld s (portReg p portPortStatus) 31 28 v

/-- PORT_CTRL.EN. -/
def portEnabled (s : State) (p : Nat) : Bool := flag s (portReg p portPortCtrl) 31

/-- PORT_CTRL.DIR. -/
def portDir (s : State) (p : Nat) : Nat := fld s (portReg p portPortCtrl) 27 25

/-- An EVENT flag of a port set. -/
def portFlag (s : State) (p b : Nat) : State := raiseFlag s 2 (portReg p portEvent) b

/-- A field that reads 0 as 1 (R354, R368, R380). -/
def atLeastOne (n : Nat) : Nat := if n = 0 then 1 else n

/-! ### Wire formats (R350, R355, R360, R376) -/

/-- The 20-byte header and the data of a transport packet (Table 12.7). -/
def packetBytes (p : Packet) : List Byte :=
  leBytes 1 p.ttype ++ leBytes 1 (b2n p.first + 2 * b2n p.last + 4 * b2n p.ackReq) ++ leBytes 1 p.data.length ++ leBytes 1 p.status ++
  leBytes 3 (coordBits p.dst) ++ leBytes 3 (coordBits p.src) ++ leBytes 2 p.tag ++ leBytes 8 p.addr ++ p.data

/-- The packet at the front of `bs`, with the POISON bits of its flit; none where LEN exceeds 224 (R376). -/
def packetOf (bs : List Byte) (poison : Nat) : Option Packet :=
  let flags := leAt bs 1 1
  let len := leAt bs 2 1
  if 224 < len then none
  else some { ttype := leAt bs 0 1, first := bit flags 0, last := bit flags 1, ackReq := bit flags 2, status := leAt bs 3 1,
              dst := coordOf (leAt bs 4 3), src := coordOf (leAt bs 7 3), tag := leAt bs 10 2, addr := leAt bs 12 8,
              data := slice bs 20 len, poison := poison }

/-- A flit's 64-bit header (Table 12.4). -/
def flitHeader (f : Flit) : Nat :=
  ((f.pkt.map Packet.poison).getD 0 % 128) <<< 17 + (f.crCount % 64) <<< 24 + (f.crVc % 8) <<< 30 + (f.ack % 4096) <<< 33 +
  (f.seq % 4096) <<< 45 + (f.cls % 2) <<< 57 + (f.vc % 4) <<< 58 + (f.ftype % 16) <<< 60

/-- Bytes 0 to 251 of a flit: its header, and its body filled with zeros (R360). -/
def flitBody (f : Flit) : List Byte := leBytes 8 (flitHeader f) ++ padTo 244 ((f.pkt.map packetBytes).getD [])

/-- The 256 bytes of a flit: header, body and their CRC-32C (R360). -/
def flitBytes (f : Flit) : List Byte := flitBody f ++ leBytes 4 (crc32c (flitBody f))

/-- A flit of header and body `bs` whose CRC-32C is correct (R360, R361). -/
def flitGood (bs : List Byte) (crc : Nat) : Bool := crc == crc32c bs

/-- What the bytes of a flit say (Table 12.4). -/
def flitOf (bs : List Byte) : Flit :=
  let h := leAt bs 0 8
  let ftype := bits h 63 60
  { ftype := ftype, vc := bits h 59 58, cls := bits h 57 57, seq := bits h 56 45, ack := bits h 44 33, crVc := bits h 32 30,
    crCount := bits h 29 24, pkt := if ftype = 0 ∨ ftype = 2 then none else packetOf (slice bs 8 244) (bits h 23 17) }

/-- The 32 bytes of a training block (Table 12.3). -/
def trainBytes (b : TrainBlock) : List Byte :=
  let d := leBytes 1 0xA5 ++ leBytes 1 (b.verMin + 16 * b.verMax) ++ leBytes 3 (coordBits b.xyz) ++ leBytes 1 b.site ++
    leBytes 1 (b.port % 8 + 8 * (b.dir % 8) + 64 * b2n b.x4ok + 128 * b2n b.refuse) ++ leBytes 1 b.lanes ++ leBytes 8 b.serial ++
    List.replicate 12 0
  d ++ leBytes 4 (crc32c d)

/-- Bytes that are a training block with a correct CRC-32C (R355). -/
def trainGood (bs : List Byte) : Bool := leAt bs 0 1 == 0xA5 && leAt bs 28 4 == crc32c (bs.take 28)

/-- What the bytes of a training block say (Table 12.3). -/
def trainOf (bs : List Byte) : TrainBlock :=
  let w := leAt bs 6 1
  { verMin := bits (leAt bs 1 1) 3 0, verMax := bits (leAt bs 1 1) 7 4, xyz := coordOf (leAt bs 2 3), site := leAt bs 5 1,
    port := bits w 2 0, dir := bits w 5 3, x4ok := bit w 6, refuse := bit w 7, lanes := leAt bs 7 1, serial := leAt bs 8 8 }

/-- The lane that carries symbol `i` of an interleaved pair: the active lanes in turn (R350, R358). -/
def symbolLane (width half i : Nat) : Nat := if width = 4 then 4 * half + i % 4 else i % 8

/-- The product in GF(2¹⁰) modulo x¹⁰ + x³ + 1, by the bits of `b` (PRESUMED: the field of IEEE 802.3's RS(544,514), log entry 54). -/
def portMul : Nat → Nat → Nat → Nat → Nat
  | 0, _, _, acc => acc
  | k + 1, a, b, acc => portMul k (if 512 ≤ a then (2 * a) ^^^ 0x409 else 2 * a) (b / 2) (if b % 2 = 1 then acc ^^^ a else acc)

/-- The generator of RS(544,514) without its leading 1, highest coefficient first: the product of x − α⁰ to x − α²⁹ (log entry 54). -/
def portGenerator : List Nat :=
  ((List.range 30).foldl (fun (g : List Nat × Nat) _ =>
    (List.zipWith (fun a b => a ^^^ portMul 10 b g.2 0) (g.1 ++ [0]) (0 :: g.1), portMul 10 g.2 2 0)) ([1], 1)).1.drop 1

/-- The 30 parity symbols of a message of 514: the remainder of its division by the generator (R350). -/
def portParity (msg : List Nat) : List Nat :=
  let g := portGenerator
  msg.foldl (fun r m =>
    let f := m ^^^ r.headD 0
    List.zipWith (fun a b => a ^^^ portMul 10 f b 0) (r.drop 1 ++ [0]) g) (List.replicate 30 0)

/-- The data symbols of a pair: the five flits and then the alignment field, ten bits at a time from the lowest of the first byte (R350; the
order is the model's, log entry 54). -/
def pairData (flits : List (List Byte)) (counter echo : Nat) : List Nat :=
  (chunks 5 257 (flits.flatten ++ leBytes 2 counter ++ leBytes 2 echo ++ [0])).flatMap (fun b =>
    (List.range 4).map (fun i => bits (leNat b) (10 * i + 9) (10 * i)))

/-- The 1,088 symbols of an interleaved pair: its two codewords take the symbols in turn (R350). -/
def pairSymbols (flits : List (List Byte)) (counter echo : Nat) : List Nat :=
  let d := pairData flits counter echo
  let half (w : Nat) : List Nat := (d.zipIdx.filter (fun e => e.2 % 2 == w)).map (·.1)
  let word (m : List Nat) : List Nat := m ++ portParity m
  (List.zipWith (fun a b => [a, b]) (word (half 0)) (word (half 1))).flatten

/-- How many symbols of codeword `w` of a pair are wrong; the two codewords take the places of the interleaved pair in turn (R350). -/
def codewordErrors (wrong : List Nat) (w : Nat) : Nat := (wrong.dedup.filter (fun i => i % 2 == w)).length

/-- A codeword with 1 to 15 wrong symbols is corrected (R350). -/
def codewordCorrected (wrong : List Nat) (w : Nat) : Bool := decide (0 < codewordErrors wrong w) && decide (codewordErrors wrong w ≤ 15)

/-- A codeword with more than 15 wrong symbols is uncorrectable (R350). -/
def codewordLost (wrong : List Nat) (w : Nat) : Bool := decide (15 < codewordErrors wrong w)

/-! ### Leaving service (R372, R373) -/

/-- The response of R372 to a packet's source. -/
def bounce (s : State) (pkt : Packet) (status : Nat) : State :=
  match responseType pkt with
  | some t => launch s none (barePacket t pkt.src (ownXyz s) pkt.tag status)
  | none => s

/-- The receive buffer of a packet that has left its input port: the credit is owed (R367). -/
def freeInput (s : State) (t : TxPkt) : State :=
  let s := if t.input < 8 then modPort s t.input (fun q => { q with owed := modAt q.owed (2 * t.vc + t.inCls) (· + 1) }) else s
  match t.core with
  | some c => returnCredit s c t.vc
  | none => s

/-- A packet dropped at port `p` because the port leaves service. -/
def dropAt (s : State) (p : Nat) (pkt : Packet) : State :=
  bounce (count (count s (portReg p portDropped)) (fabReg fabUnroutable)) pkt 0x0D

/-- The port leaves service: what it held unacknowledged or queued is dropped (R373). -/
def leaveService (s : State) (p : Nat) : State :=
  let q := portAt s p
  let s := modPort s p (fun _ => {})
  let s := { s with inbox := modWhere s.inbox (fun i => i.port == some p) (fun i => { i with port := none }) }
  let s := q.retry.foldl (fun s e => dropAt s p e.2.pkt) s
  q.txq.foldl (fun s t => dropAt (freeInput s t) p t.pkt) s

/-! ### Failing and training (R353 to R359, R584) -/

/-- The port leaves ACTIVE. -/
def linkDown (s : State) (p : Nat) : State :=
  let was := portState s p == 5
  let s := setFld s (portReg p portPortStatus) 27 24 0
  if was then portFlag s p 30 else s

/-- The port enters FAILED with a code; `rec` says that the event is recorded (Table 18.5). -/
def failPort (s : State) (p code : Nat) (rec : Bool) : State :=
  let s := linkDown s p
  let s := setFld (setPortState s p 7) (portReg p portPortStatus) 23 16 code
  let s := if rec then
      submitEvent s 0x3001 (0x3000 + p) code
        (leBytes 3 (fld s (portReg p portNbrId) 23 0) ++ leBytes 1 p ++ leBytes 8 (rd64 s (portReg p portNbrSerLo)))
    else s
  leaveService s p

/-- The torus sizes or the module's coordinates are outside the limits (R584). -/
def torusBad (s : State) : Bool :=
  decide (16384 < torusSize s 0 * torusSize s 1 * torusSize s 2) || !inTorus s (ownXyz s)

/-- Training starts at DETECT, or the port fails under R584; `src` made the request. -/
def startTraining (s : State) (src p : Nat) : State :=
  if torusBad s then
    let s := if s.torusCounted then s else logError { s with torusCounted := true } 0x0E src (rd s (fabReg fabTorusSize))
    failPort s p 0x11 false
  else
    let s := setFld (setPortState s p 1) (portReg p portPortStatus) 23 16 0
    modPort s p (fun q => { q with tries := 0 })

/-- The port enters RETRAIN; flit state is held (R365, R366). -/
def enterRetrain (s : State) (p : Nat) : State :=
  let s := setPortState (linkDown s p) p 6
  let s := count s (portReg p portRetrainCount)
  modPort s p (fun q => { q with
    tries := 0, resend := [], resendRuns := 0, nakSent := false, pairFlits := [], discard := 0 })

/-- A training attempt fails (R354). -/
def attemptFails (s : State) (p : Nat) : State :=
  let n := (portAt s p).tries + 1
  if atLeastOne (fld s (portReg p portRetrainCfg) 23 16) ≤ n then failPort s p 0x0D true
  else setPortState (modPort s p (fun q => { q with tries := n })) p 1

/-- A Mopin port's EN is set (R348, R353). -/
def enableMopin (s : State) (src p : Nat) : State := startTraining s src p

/-- A Mopin port's EN is cleared (R373). -/
def disableMopin (s : State) (p : Nat) : State :=
  let s := linkDown s p
  let s := setFld (setPortState s p 0) (portReg p portPortStatus) 23 16 0
  leaveService s p

/-- RETRAIN on a Mopin port with EN = 1: an active port retrains, a failed one starts again (Table 12.2). -/
def retrainMopin (s : State) (src p : Nat) : State :=
  if portState s p = 5 then enterRetrain s p else if portState s p = 7 then startTraining s src p else s

/-- Enabled Mopin ports other than `p` that serve direction `d` (R348). -/
def sameDirection (s : State) (p d : Nat) : Nat :=
  ((List.range 8).filter (fun q => q != p && portEnabled s q && isMopin s q && portDir s q == d)).length

/-- DETECT sees signal on at least four lanes; a port in RETRAIN goes on to EQUALISE, for which Table 12.2 names no condition (DESIGN
CHOICE: at the same event, whatever its lanes; log entry 51). -/
def detectEffect (s : State) (p lanes : Nat) : State :=
  if (portState s p = 1 ∧ 4 ≤ ((List.range 8).filter (bit lanes)).length) ∨ portState s p = 6 then setPortState s p 2 else s

/-- The training block that the port sends (R355, Table 12.3). -/
def ownBlock (s : State) (p : Nat) (refuse : Bool) : TrainBlock :=
  { verMin := 1, verMax := 1, xyz := ownXyz s, site := ownSite s, port := p, dir := portDir s p, x4ok := flag s (portReg p portPortCtrl) 24,
    refuse := refuse, lanes := (portAt s p).lanesOk, serial := rd64 s idSerialLo }

/-- The port's training block put on every lane that passed EQUALISE (R355). -/
def sendBlock (s : State) (p : Nat) (refuse : Bool) : State :=
  emit s (.trainingBlock p (portAt s p).lanesOk (trainBytes (ownBlock s p refuse)))

/-- Equalisation is complete: NEGOTIATE begins. -/
def equaliseEffect (s : State) (p lanes : Nat) : State :=
  if portState s p = 2 then
    let s := modPort s p (fun q => { q with lanesOk := lanes % 256, heard := List.replicate 8 [] })
    sendBlock (setPortState s p 3) p false
  else s

/-- The neighbour's place and direction fit the torus (R585). -/
def torusFits (s : State) (p : Nat) (b : TrainBlock) : Bool :=
  let dir := portDir s p
  if dir = 0 ∨ dir = 7 then true
  else
    let d := (dir - 1) / 2
    let plus := dir % 2 == 1
    let n := torusSize s d
    let own := ownXyz s
    let a := coordDim own d
    let c := if plus then (a + 1) % n else (a + n - 1) % n
    let want : Coord := ⟨if d = 0 then c else own.x, if d = 1 then c else own.y, if d = 2 then c else own.z⟩
    b.xyz == want && (b.dir == dirCode d (!plus) || (n == 2 && b.dir == dirCode d plus))

/-- The neighbour is the one expected (R357). -/
def expected (s : State) (p : Nat) (b : TrainBlock) : Bool :=
  coordBits b.xyz == fld s (portReg p portExpId) 23 0 && b.port == fld s (portReg p portExpId) 26 24 &&
  (!flag s (portReg p portExpId) 31 || b.serial % 2 ^ 64 == rd64 s (portReg p portExpSerLo))

/-- The width that two lane maps allow (R358): width and HALF. -/
def widthOf (both : Nat) (x4 : Bool) : Option (Nat × Nat) :=
  if both = 255 then some (8, 0)
  else if x4 ∧ both % 16 = 15 then some (4, 0)
  else if x4 ∧ both / 16 = 15 then some (4, 1)
  else none

/-- The neighbour's block taken in NEGOTIATE (R355 to R358, R585). -/
def takeTrainBlock (s : State) (p : Nat) (b : TrainBlock) : State :=
  let s := setFld (setFld s (portReg p portNbrId) 23 0 (coordBits b.xyz)) (portReg p portNbrId) 26 24 b.port
  let s := wr64 s (portReg p portNbrSerLo) (b.serial % 2 ^ 64)
  if b.refuse then failPort (portFlag s p 28) p 0x11 true
  else if 1 < b.verMin ∨ b.verMax < 1 then failPort (portFlag s p 27) p 0x0C true
  else if !expected s p b || !torusFits s p b then failPort (portFlag (sendBlock s p true) p 28) p 0x11 true
  else
    let both := (portAt s p).lanesOk &&& b.lanes
    let s := setFld (setFld s (portReg p portPortStatus) 15 8 both) (portReg p portPortStatus) 7 4 1
    match widthOf both (flag s (portReg p portPortCtrl) 24 && b.x4ok) with
    | none => attemptFails s p
    | some (w, half) =>
      let s := setPortState (setFld (setFld s (portReg p portPortStatus) 27 24 w) (portReg p portPortStatus) 3 3 half) p 4
      if w = 4 then submitEvent (portFlag s p 29) 0x3002 (0x3000 + p) 0 [BitVec.ofNat 8 half] else s

/-- A block arrives on a lane in NEGOTIATE, or one with REFUSE = 1 in CALIBRATE, where the neighbour has judged later: the second identical
one with a correct CRC on that lane is taken (R355, R357). -/
def blockEffect (s : State) (p lane : Nat) (bs : List Byte) : State :=
  if !(portState s p == 3 || (portState s p == 4 && (trainOf bs).refuse)) || !trainGood bs then s
  else if (portAt s p).heard.getD lane [] = bs then takeTrainBlock s p (trainOf bs)
  else modPort s p (fun q => { q with heard := q.heard.set lane bs })

/-- A number put in its place in a rising list. -/
def insertSorted (n : Nat) : List Nat → List Nat
  | [] => [n]
  | x :: xs => if n ≤ x then n :: x :: xs else x :: insertSorted n xs

/-- The median of an even number of values: the mean of the middle two. -/
def medianOf (xs : List Nat) : Nat :=
  let ys := xs.foldl (fun acc x => insertSorted x acc) []
  (ys.getD (ys.length / 2 - 1) 0 + ys.getD (ys.length / 2) 0) / 2

/-- The probes of CALIBRATE are in: LINK_DELAY is set and the port enters ACTIVE (R359, R366, R367, R371). -/
def calibrateEffect (s : State) (p : Nat) (probes : List Nat) : State :=
  if portState s p != 4 then s
  else
    let s := wr s (portReg p portLinkDelay) ((medianOf probes / 2 + rd s (portReg p portDelayTrim)) % 2 ^ 32)
    let s := modPort s p (fun q => if q.inService then { q with tries := 0, nakDue := true } else { inService := true, txq := q.txq })
    portFlag (setPortState s p 5) p 31

/-- A training attempt that has left DETECT runs out of time (R354). -/
def attemptTimeout (s : State) (p : Nat) : State :=
  if [2, 3, 4, 6].contains (portState s p) then attemptFails (linkDown s p) p else s

/-! ### Retry (R363 to R366) -/

/-- Every unacknowledged flit is resent from the oldest; the eighth resend in a row from one flit retrains (R364, R365). -/
def startResend (s : State) (p : Nat) : State :=
  match (portAt s p).retry with
  | [] => s
  | e :: _ =>
    let s := count s (portReg p portRetry)
    let s := modPort s p (fun q => { q with
      resend := q.retry.map (·.1)
      resendRuns := if q.resendFrom = some e.2.ord then q.resendRuns + 1 else 1
      resendFrom := some e.2.ord })
    if 8 ≤ (portAt s p).resendRuns then enterRetrain s p else s

/-- What an ACK covers leaves the retry buffer (R363). -/
def takeAck (ack : Nat) (q : Port) : Port :=
  match q.retry.findIdx? (fun e => e.1 == ack) with
  | some i =>
    let keep := q.retry.drop (i + 1)
    { q with retry := keep, resend := q.resend.filter (fun n => keep.any (fun e => e.1 == n)) }
  | none => q

/-- The ACK and the credit return that every good flit carries (R361, R367). -/
def takeHeader (s : State) (p : Nat) (f : Flit) : State :=
  modPort s p (fun q => { takeAck f.ack q with credits := modAt (takeAck f.ack q).credits f.crVc (· + f.crCount) })

/-- A flit of the expected SEQ is missing: one NAK, until it arrives or the holdoff ends (R364). -/
def wantNak (s : State) (p : Nat) : State :=
  modPort s p (fun q => if q.nakSent then q else { q with nakSent := true, nakDue := true })

/-- Bits 63:32 of a flit header (Table 12.4). -/
def flitHigh (f : Flit) : Nat := flitHeader f / 2 ^ 32

/-- A packet taken in at port `p` in class `cls`: delivered here, forwarded, or dropped with the response of R372. -/
def takePacket (s : State) (p vc cls : Nat) (pkt : Packet) : State :=
  match routeOf s pkt (some p) cls with
  | .here => deliver s pkt (some p) cls none
  | .port q c =>
    let s := enqueue s q c p none pkt
    modPort s q (fun r => { r with txq := modWhere r.txq (fun t => t.ord + 1 == s.routed) (fun t => { t with inCls := cls }) })
  | .none_ st =>
    let s := modPort s p (fun q => { q with owed := modAt q.owed (2 * vc + cls) (· + 1) })
    bounce (count s (fabReg fabUnroutable)) pkt st

/-- A flit discarded after its ACK and credits have been taken: its buffer is free at once and it is counted (R361). A body that holds no
packet of R376 is treated so too (DESIGN CHOICE, log entry 51). -/
def discardFlit (s : State) (p : Nat) (f : Flit) : State :=
  logError (modPort s p (fun q => { q with owed := modAt q.owed (2 * f.vc + f.cls) (· + 1) })) 0x0D (0x3000 + p) (flitHigh f)

/-- A DATA flit with a correct CRC (R361, R364); a NAK that is owed stays owed. -/
def dataFlit (s : State) (p : Nat) (f : Flit) : State :=
  let s := takeHeader s p f
  if f.seq != (portAt s p).seqRx then wantNak s p
  else
    let s := modPort s p (fun q => { q with seqRx := (q.seqRx + 1) % 4096, lastRx := f.seq, nakSent := false })
    match f.pkt with
    | some pkt => if f.ftype != 1 || (vcOf pkt.ttype).isNone then discardFlit s p f else takePacket s p f.vc f.cls pkt
    | none => discardFlit s p f

/-- A flit arrives at a port whose flits flow: one of a codeword pair that was lost is discarded (R350), with a bad CRC it is counted and makes a NAK due, otherwise `act` takes it where its FTYPE
is one of `mine` (R361, R364). -/
def flitArrives (s : State) (p : Nat) (bs : List Byte) (crc : Nat) (mine : Nat → Bool) (act : State → Nat → Flit → State) : State :=
  if !flowing s p then s
  else if (portAt s p).discard != 0 then modPort s p (fun q => { q with discard := q.discard - 1 })
  else if !flitGood bs crc then wantNak (count s (portReg p portCrcErr)) p
  else if mine (flitOf bs).ftype then act s p (flitOf bs)
  else s

/-- The times of `ts` within the millisecond that ends now (R365). -/
def lastMs (s : State) (ts : List Nat) : List Nat := ts.filter (fun t => decide (s.now < t + 1000 * clocksPerUs))

/-- A codeword pair arrives with the fields of its alignment field, the symbols at `wrong` of its interleaved stream in error (R350, R365); the
five flits of a pair that cannot be corrected are discarded as they come. In Ethernet mode only the counters of Table 14.7 follow it. -/
def codewordEffect (s : State) (p pairs lanes : Nat) (wrong : List Nat) : State :=
  let corrected := b2n (codewordCorrected wrong 0) + b2n (codewordCorrected wrong 1)
  let lost := b2n (codewordLost wrong 0) + b2n (codewordLost wrong 1)
  if isMopin s p then
    if portState s p != 5 then s
    else
      let s := countBy s (portReg p portFecCorr) corrected
      if lost = 0 then modPort s p (fun q => { q with pairRx := pairs, echoRx := lanes, discard := 0 })
      else
        let s := wantNak (count s (portReg p portFecUncorr)) p
        let s := modPort s p (fun q => { q with uncorr := lastMs s q.uncorr ++ [s.now], discard := 5 })
        if fld s (portReg p portRetrainCfg) 31 24 < (portAt s p).uncorr.length then enterRetrain s p else s
  else countBy (countBy s (ethReg p ethFecCorr) corrected) (ethReg p ethFecUncorr) lost

/-! ### Sending (R367 to R369, R385) -/

/-- The packets of a VC that may leave now. -/
def readyIn (s : State) (p v : Nat) : List TxPkt :=
  let q := portAt s p
  q.txq.filter (fun t => t.vc == v && hasCredit q t && !flowHeld s p t)

/-- The packet of a VC whose turn it is: inputs in turn after the last one served (R369). -/
def pickIn (s : State) (p v : Nat) : Option TxPkt :=
  let ready := readyIn s p v
  let last := (portAt s p).lastInput.getD v 8
  ((List.range 9).map (fun i => (last + 1 + i) % 9)).findSome? (fun i => ready.find? (fun t => t.input == i))

/-- VC_WEIGHT of a VC, 0 read as 1. -/
def vcWeight (s : State) (p v : Nat) : Nat := atLeastOne (fld s (portReg p portVcWeight) (8 * v + 7) (8 * v))

/-- The packet that leaves next, and the port's round-robin state: control first, then VCs 2, 1 and 0 by weight (R368). -/
def pickPacket (s : State) (p : Nat) : Option (TxPkt × Port) :=
  let q := portAt s p
  if 1024 ≤ q.retry.length then none
  else
    match pickIn s p 3 with
    | some t => some (t, q)
    | none =>
      let able := [2, 1, 0].filterMap (fun v => (pickIn s p v).map (fun t => (v, t)))
      let spend (v : Nat) (t : TxPkt) (d : List Nat) : TxPkt × Port := (t, { q with deficit := modAt d v (· - 1) })
      match able.find? (fun e => q.deficit.getD e.1 0 != 0) with
      | some (v, t) => some (spend v t q.deficit)
      | none =>
        match able with
        | (v, t) :: _ => some (spend v t ((List.range 3).map (vcWeight s p)))
        | [] => none

/-- The credit return that the next flit carries: a class that is owed any (log entry 4 where several are), up to 63. -/
def takeOwed (s : State) (p : Nat) : (Nat × Nat) × State :=
  let owing := (List.range 8).filter (fun c => (portAt s p).owed.getD c 0 != 0)
  match owing with
  | [] => ((0, 0), s)
  | [c] => owedOf s c
  | cs =>
    let (r, s) := drawNat s
    owedOf s (cs.getD (r % cs.length) 0)
where
  /-- The return of one class. -/
  owedOf (s : State) (c : Nat) : (Nat × Nat) × State :=
    let n := min 63 ((portAt s p).owed.getD c 0)
    ((c, n), modPort s p (fun q => { q with owed := modAt q.owed c (· - n) }))

/-- The lanes in use at PORT_STATUS.WIDTH and HALF (R358): the lane map that the port echoes (DESIGN CHOICE, log entry 54). -/
def lanesInUse (s : State) (p : Nat) : Nat :=
  if fld s (portReg p portPortStatus) 27 24 = 4 then (if flag s (portReg p portPortStatus) 3 then 0xF0 else 0x0F) else 0xFF

/-- The eight lanes' symbols of an interleaved pair (R350). -/
def dealt (width half : Nat) (symbols : List Nat) : List (List Nat) :=
  (List.range 8).map (fun l => (symbols.zipIdx.filter (fun e => symbolLane width half e.2 == l)).map (·.1))

/-- A flit joins the codeword pair that is being formed; the fifth completes it, and the pair goes out on the lanes (R350). -/
def joinPair (s : State) (p : Nat) (bs : List Byte) : State :=
  let q := portAt s p
  let flits := q.pairFlits ++ [bs]
  if flits.length < 5 then modPort s p (fun q => { q with pairFlits := flits })
  else
    let s := modPort s p (fun q => { q with pairFlits := [], pairTx := (q.pairTx + 1) % 65536 })
    emit s (.codewordPair p (dealt (fld s (portReg p portPortStatus) 27 24) (fld s (portReg p portPortStatus) 3 3)
      (pairSymbols flits q.pairTx (lanesInUse s p))))

/-- A flit put on the wire with the ACK and credits it carries (R361). -/
def putFlit (s : State) (p ftype vc cls seq : Nat) (pkt : Option Packet) : State :=
  let ((c, n), s) := takeOwed s p
  let bs := flitBytes
    { ftype := ftype, vc := vc, cls := cls, seq := seq, ack := (portAt s p).lastRx, crVc := c, crCount := n, pkt := pkt }
  joinPair (emit s (.flit p bs)) p bs

/-- A packet read from its link-die buffer with uncorrectable words in the granules `wrong`: they are marked (R166, R171, R362). -/
def spoil (wrong : List Nat) (pkt : Packet) : Packet :=
  { pkt with poison := pkt.poison ||| bitMap ((pkt.data.length + 31) / 32) (fun g => wrong.contains g) }

/-- Uncorrectable words met in a link-die buffer, recorded (Table 18.5); they have no device address. -/
def bufferError (s : State) (wrong : List Nat) : State := if wrong.isEmpty then s else submitEvent s 0x2002 0 0 (leBytes 8 0)

/-- A packet sent: SEQ, credit, retry buffer, and the buffer it leaves (R363, R367, R384). -/
def sendPacket (s : State) (p : Nat) (t : TxPkt) (q : Port) (wrong : List Nat) : State :=
  let seq := q.seqTx
  let pkt := spoil wrong t.pkt
  let s := modPort s p (fun _ => { q with
    seqTx := (seq + 1) % 4096
    credits := modAt q.credits (2 * t.vc + t.cls) (· - 1)
    retry := q.retry ++ [(seq, { t with pkt := pkt })]
    txq := q.txq.erase t
    lastInput := q.lastInput.set t.vc t.input })
  let s := putFlit s p 1 t.vc t.cls seq (some pkt)
  let s := count s (portReg p portFlitsTx)
  let s := if t.pkt.src = ownXyz s then s else count s (portReg p portFlitsFwd)
  freeInput s t

/-- FLIT_TRANSMIT: a due NAK, then resends, then the packet whose turn it is, else an IDLE flit. -/
def transmitEffect (s : State) (p : Nat) (wrong : List Nat) : State :=
  if !flowing s p then s
  else
    let q := portAt s p
    if q.nakDue then putFlit (modPort s p (fun q => { q with nakDue := false })) p 2 0 0 0 none
    else
      match q.resend with
      | n :: rest =>
        let mark (e : Nat × TxPkt) : Nat × TxPkt := if e.1 = n then (n, { e.2 with pkt := spoil wrong e.2.pkt }) else e
        let s := modPort s p (fun q => { q with resend := rest, retry := q.retry.map mark })
        match (portAt s p).retry.find? (fun e => e.1 == n) with
        | some e => putFlit (bufferError s wrong) p 1 e.2.vc e.2.cls n (some e.2.pkt)
        | none => s
      | [] =>
        match pickPacket s p with
        | some (t, q) => sendPacket (bufferError s wrong) p t q wrong
        | none => putFlit s p 0 0 0 0 none

/-! ### The commands -/

/-- A command of port `p` takes effect while the package runs. -/
def portEvent_ (s : State) (p : Nat) (t : State) : Host.Outcome State Fault Refusal := .next (if live s && okPort p then t else s)

/-- An event of a Mopin port. -/
def mopinEvent (s : State) (p : Nat) (t : State) : Host.Outcome State Fault Refusal := portEvent_ s p (if isMopin s p then t else s)

/-- SIGNAL_DETECT (R353). -/
def execSignalDetect (port lanes : Nat) (s : State) : Host.Outcome State Fault Refusal := mopinEvent s port (detectEffect s port lanes)

/-- EQUALISE_DONE (R353). -/
def execEqualiseDone (port lanes : Nat) (s : State) : Host.Outcome State Fault Refusal := mopinEvent s port (equaliseEffect s port lanes)

/-- TRAINING_BLOCK_RECEIVE (R355). -/
def execTrainingBlockReceive (port : Nat) (block : List Byte) (s : State) (lane : Nat := 0) : Host.Outcome State Fault Refusal :=
  mopinEvent s port (if okLane lane && okBlock block then blockEffect s port lane block else s)

/-- CALIBRATE_DONE (R359). -/
def execCalibrateDone (port : Nat) (probes : List Nat) (s : State) : Host.Outcome State Fault Refusal :=
  mopinEvent s port (if okProbes probes then calibrateEffect s port probes else s)

/-- TRAIN_ATTEMPT_TIMEOUT (R354). -/
def execTrainAttemptTimeout (port : Nat) (s : State) : Host.Outcome State Fault Refusal := mopinEvent s port (attemptTimeout s port)

/-- LANE_SIGNAL_LOSS (R365). -/
def execLaneSignalLoss (port lane : Nat) (s : State) : Host.Outcome State Fault Refusal :=
  mopinEvent s port (if okLane lane && portState s port == 5 then enterRetrain s port else s)

/-- CODEWORD_PAIR_RECEIVE (R350): it comes before the commands of its five flits. The alignment field's pair counter and lane-map echo
are kept; they have no effect that the spec names. -/
def execCodewordPairReceive (port pairs lanes : Nat) (wrong : List Nat) (s : State) : Host.Outcome State Fault Refusal :=
  portEvent_ s port (if okSymbols wrong then codewordEffect s port pairs lanes wrong else s)

/-- DATA_FLIT_RECEIVE (R364): any flit but IDLE and NAK, so that one with a reserved FTYPE is discarded as R361 gives. -/
def execDataFlitReceive (port : Nat) (flit : List Byte) (crc : Nat) (s : State) : Host.Outcome State Fault Refusal :=
  portEvent_ s port (if okFlit flit then flitArrives s port flit crc (fun t => t != 0 && t != 2) dataFlit else s)

/-- IDLE_FLIT_RECEIVE (R361). -/
def execIdleFlitReceive (port : Nat) (flit : List Byte) (crc : Nat) (s : State) : Host.Outcome State Fault Refusal :=
  portEvent_ s port (if okFlit flit then flitArrives s port flit crc (· == 0) takeHeader else s)

/-- NAK_FLIT_RECEIVE (R364). -/
def execNakFlitReceive (port : Nat) (flit : List Byte) (crc : Nat) (s : State) : Host.Outcome State Fault Refusal :=
  portEvent_ s port (if okFlit flit then flitArrives s port flit crc (· == 2) (fun s p f => startResend (takeHeader s p f) p) else s)

/-- NAK_HOLDOFF_TIMER (R364): another NAK may be sent. -/
def execNakHoldoffTimer (port : Nat) (s : State) : Host.Outcome State Fault Refusal :=
  mopinEvent s port (modPort s port (fun q => { q with nakSent := false }))

/-- RESEND_TIMEOUT (R364). -/
def execResendTimeout (port : Nat) (s : State) : Host.Outcome State Fault Refusal :=
  portEvent_ s port (if flowing s port then startResend s port else s)

/-- FLIT_TRANSMIT (R367). -/
def execFlitTransmit (port : Nat) (s : State) (wrong : List Nat := []) : Host.Outcome State Fault Refusal :=
  portEvent_ s port (transmitEffect s port wrong)

end Sys2Proof.Machine
end

