-- ==== Sys2Proof/Machine/Fabric.lean ====
section
/-! DEFINITION. Packets that other modules send into this one's memory and tallies, and their answers (R164, R169, R285, R376 to R379, R385,
R414). -/

namespace Sys2Proof.Machine

/-- The first waiting packet of type `t` that satisfies `p` and has no earlier packet of its source and VC before it (R385). -/
def nextOf (s : State) (t : Nat) (p : Packet → Bool) : Option InPkt :=
  (s.inbox.zipIdx.find? (fun e => e.1.pkt.ttype == t && p e.1.pkt &&
    !((s.inbox.take e.2).any (fun i => i.pkt.src == e.1.pkt.src && vcOf i.pkt.ttype == vcOf t)))).map (·.1)

/-- How a fabric access reaches memory (R164). -/
inductive Access where
  | write
  | read
  | barn
  deriving DecidableEq, Repr

/-- An enabled region entry admits an access to an HBM offset (R161, R164). -/
def regionAdmits (s : State) (k : Access) (h i : Nat) : Bool :=
  let c := rd s (regionReg i regionCtrl)
  let base := rd64 s (regionReg i regionBaseLo)
  bit c 31 && decide (base ≤ h) && decide (h < base + rd64 s (regionReg i regionSizeLo)) &&
  (match k with
   | .write => bit c 30
   | .read => bit c 29
   | .barn => c % 16 == 4 || c % 16 == 1)

/-- A byte of a fabric access is admitted (R164, R377). -/
def admitsByte (s : State) (k : Access) (a : Nat) : Bool :=
  match spaceOf a with
  | .hbm h => (List.range 16).any (regionAdmits s k h)
  | .scratch _ _ => flag s (fabReg fabFabCtrl) 31
  | _ => false

/-- The whole of a fabric access is admitted. -/
def admits (s : State) (k : Access) (a len : Nat) : Bool := (List.range len).all (fun i => admitsByte s k (a + i))

/-- Data byte `i` of a packet lies in a poisoned granule (R362). -/
def badByte (p : Packet) (i : Nat) : Bool := bit p.poison (i / 32)

/-- A packet's data with a mark for each granule. -/
def granules (p : Packet) : List (Nat × List Byte × Bool) :=
  (chunks 32 8 p.data).zipIdx.map (fun e => (p.addr + 32 * e.2, e.1, bit p.poison e.2))

/-- Pieces of data from another module written, with their marks and the origin of these (R173, R362, R509). -/
def storeMarked (s : State) (gs : List (Nat × List Byte × Bool)) (o : MarkOrigin) : State :=
  (gs.filter (fun g => g.2.2 && isMemory g.1)).foldl (fun s g => setOrigins s g.1 g.2.1.length o) (devWrites s gs)

/-- Where the marks of a packet arose for this module (R509). -/
def packetOrigin (i : InPkt) : MarkOrigin := .flit i.pkt.src (portSource i.port)

/-- A packet's data written at its address, with its marks (R362). -/
def fabricStore (s : State) (i : InPkt) : State := storeMarked s (granules i.pkt) (packetOrigin i)

/-- A message from another module has had a packet answered with `status`; its first packet begins a new message, its last packet makes the
acknowledgement due (R376 to R378). -/
def noteMessage (s : State) (p : Packet) (status : Nat) : State :=
  let vc := (vcOf p.ttype).getD 0
  let mine (m : InMsg) : Bool := m.src == p.src && m.vc == vc && m.tag == p.tag && !m.ready
  let old := (if p.first then none else s.inMsgs.find? mine).getD ⟨p.src, vc, p.tag, 0, false⟩
  let rest := s.inMsgs.filter (fun m => !mine m)
  let m := { old with status := if old.status = 0 then status else old.status, ready := p.last }
  if p.last && !p.ackReq then { s with inMsgs := rest } else { s with inMsgs := rest ++ [m] }

/-- A refused fabric access counted (R164). -/
def refused (s : State) : State := count s (mcReg 0 mcRemoteRefused)

/-- A WRITE or BARN_WRITE packet: written or refused whole (R377). -/
def writePacket (s : State) (k : Access) (i : InPkt) : State :=
  let p := i.pkt
  let s := consume s i
  if admits s k p.addr p.data.length then noteMessage (fabricStore s i) p 0 else noteMessage (refused s) p 0x0E

/-- The word at `a` after an addition of `x` in 48 bits, sign-extended (R414). -/
def addedWord (s : State) (a x : Nat) : List Byte := leBytes 8 (unsigned 64 (signed 48 (leNat (readMem s.mem a 8) + x)))

/-- An accepted ADD_WRITE packet: each word added, poisoned where the granule or the word's block is (R414). -/
def addWords64 (s : State) (i : InPkt) : State :=
  let p := i.pkt
  let s := meetMem s p.addr p.data.length
  (List.range (p.data.length / 8)).foldl (fun s k =>
    let a := p.addr + 8 * k
    let bad := badByte p (8 * k)
    let s := devWrite s a (addedWord s a (leAt p.data (8 * k) 8)) (bad || rangePoisoned s a 8)
    if bad then setOrigins s a 8 (packetOrigin i) else s) s

/-- An ADD_WRITE packet (R414). -/
def addPacket (s : State) (i : InPkt) : State :=
  let p := i.pkt
  let s := consume s i
  if admits s .write p.addr p.data.length then noteMessage (addWords64 s i) p 0 else noteMessage (refused s) p 0x0E

/-- The poisoned blocks among `len` bytes from `a`, with where their marks arose. -/
def marksIn (s : State) (a len : Nat) : List (Nat × MarkOrigin) :=
  ((blocksOf a len).filter (fun b => poisoned s (64 * b))).map (fun b => (b, originOf s (64 * b)))

/-- Blocks with marks have been sent to another module: poison that arose here in some bell closes that bell's case DROP (R515). -/
def poisonSent (s : State) (marked : List (Nat × MarkOrigin)) : State :=
  dropSpread (noteSent s (marked.filterMap (fun m => match m.2 with | .own n _ => some n | _ => none)))

/-- POISON bits of `len` bytes read from `a`: granule by granule. -/
def poisonBits (s : State) (a len : Nat) : Nat :=
  bitMap ((len + 31) / 32) (fun g => rangePoisoned s (a + 32 * g) (min 32 (len - 32 * g)))

/-- A READ_REQ packet answered (R379). -/
def readPacket (s : State) (i : InPkt) : State :=
  let p := i.pkt
  let s := consume s i
  let len := p.tag / 256 + 1
  let answer := barePacket 0x10 p.src (ownXyz s) p.tag 0
  if len ≤ 224 && admits s .read p.addr len then
    let s := meetMem s p.addr len
    let pkt := { answer with addr := p.addr, data := readMem s.mem p.addr len, poison := poisonBits s p.addr len }
    poisonSent (launch s none pkt) (marksIn s p.addr len)
  else launch (refused s) none { answer with status := 0x0E }

/-- The first message whose acknowledgement is due gets it (R378). -/
def ackEffect (s : State) : State :=
  match s.inMsgs.find? (·.ready) with
  | some m => launch { s with inMsgs := s.inMsgs.erase m } none (barePacket 0x11 m.src (ownXyz s) m.tag m.status)
  | none => s

/-- A TSIGNAL packet (R285, Table 12.7). -/
def tsignalPacket (s : State) (i : InPkt) : State := signalTally (consume s i) (bits i.pkt.addr 13 8) (bits i.pkt.addr 5 0)

/-- The next packet of type `t` taken by `f`, while the package runs. -/
def packetEvent (s : State) (t : Nat) (f : State → InPkt → State) : Host.Outcome State Fault Refusal :=
  .next (if live s then (match nextOf s t (fun _ => true) with | some i => f s i | none => s) else s)

/-- WRITE (R377). -/
def execWritePkt (up : Upset) (s : State) : Host.Outcome State Fault Refusal := packetEvent s 1 (fun s i => writePacket (plant s up) .write i)

/-- READ_REQ (R379). -/
def execReadReq (up : Upset) (s : State) : Host.Outcome State Fault Refusal := packetEvent s 2 (fun s i => readPacket (plant s up) i)

/-- BARN_WRITE (R164). -/
def execBarnWrite (up : Upset) (s : State) : Host.Outcome State Fault Refusal := packetEvent s 3 (fun s i => writePacket (plant s up) .barn i)

/-- ADD_WRITE (R414). -/
def execAddWrite (up : Upset) (s : State) : Host.Outcome State Fault Refusal := packetEvent s 5 (fun s i => addPacket (plant s up) i)

/-- WRITE_ACK_SEND (R378). -/
def execWriteAckSend (s : State) : Host.Outcome State Fault Refusal := .next (if live s then ackEffect s else s)

/-- TSIGNAL (R285). -/
def execTsignal (s : State) : Host.Outcome State Fault Refusal := packetEvent s 0x30 tsignalPacket

end Sys2Proof.Machine
end

