-- ==== Sys2Proof/Machine/Stolcen.lean ====
section
/-! DEFINITION. Stolcen links between sites: the table, frames, coding, the lead gateway's sending and receiving, the receive ring, roads and
windows (R417 to R446). -/

namespace Sys2Proof.Machine

/-! ### The Stolcen table (R424, R425) -/

/-- STL_CTRL.EN. -/
def stlOn (s : State) : Bool := flag s (stlReg stlStlCtrl) 31

/-- Every byte is zero. -/
def zeros (bs : List Byte) : Bool := bs.all (· == 0)

/-- A partner entry (Table 14.4). -/
def partnerOf (b : List Byte) : Partner :=
  { en := bit (leAt b 0 1) 0, site := leAt b 1 1, k := bits (leAt b 2 1) 2 0 + 1, m := bits (leAt b 2 1) 5 3,
    uk := bits (leAt b 3 1) 2 0 + 1, um := bits (leAt b 3 1) 5 3, lead := coordOf (leAt b 4 3), shardMax := leAt b 8 2 }

/-- A road entry (Table 14.5). -/
def roadOf (b : List Byte) : Road :=
  { en := bit (leAt b 0 1) 0, partner := bits (leAt b 1 1) 1 0, road := bits (leAt b 2 1) 1 0, port := bits (leAt b 3 1) 2 0,
    owner := coordOf (leAt b 4 3), mac := slice b 8 6, udp := leAt b 14 2, ip6 := slice b 16 16 }

/-- A partner entry with EN = 1 breaks R425 beside the others `ps`. -/
def partnerBad (b : List Byte) (others : List Partner) : Bool :=
  let p := partnerOf b
  decide (8 < p.k + p.m) || decide (8 < p.uk + p.um) ||
  p.shardMax % 64 != 0 || decide (p.shardMax < 64) || decide (8960 < p.shardMax) ||
  others.any (fun q => q.en && q.site == p.site) ||
  decide (1 < leAt b 0 1) || decide (63 < leAt b 2 1) || decide (63 < leAt b 3 1) || leAt b 7 1 != 0 || !zeros (b.drop 10)

/-- A road entry with EN = 1 breaks R425 beside the others; `ps` are the partners that stay enabled. -/
def roadBad (b : List Byte) (others : List Road) (ps : List Partner) : Bool :=
  let r := roadOf b
  others.any (fun q => q.en && q.partner == r.partner && (q.road == r.road || (q.owner == r.owner && q.port == r.port))) ||
  !(ps.getD r.partner {}).en ||
  decide (1 < leAt b 0 1) || decide (3 < leAt b 1 1) || decide (3 < leAt b 2 1) || decide (7 < leAt b 3 1) || leAt b 7 1 != 0 ||
  !zeros (b.drop 32)

/-- The partner entries as the table gives them, with the numbers of those disabled (R425). -/
def readPartners (bs : List (List Byte)) : List Partner × List Nat :=
  let ps := bs.map partnerOf
  let bad (i : Nat) : Bool := (ps.getD i {}).en && partnerBad (bs.getD i []) (ps.eraseIdx i)
  (ps.zipIdx.map (fun e => if bad e.2 then { e.1 with en := false } else e.1), (List.range 4).filter bad)

/-- The road entries as the table gives them, with the numbers of those disabled (R425). -/
def readRoads (bs : List (List Byte)) (ps : List Partner) : List Road × List Nat :=
  let rs := bs.map roadOf
  let bad (i : Nat) : Bool := (rs.getD i {}).en && roadBad (bs.getD i []) (rs.eraseIdx i) ps
  (rs.zipIdx.map (fun e => if bad e.2 then { e.1 with en := false } else e.1), (List.range 16).filter bad)

/-- This module is the lead gateway of partner `p`. -/
def leads (s : State) (p : Nat) : Bool := (partnerAt s p).en && (partnerAt s p).lead == ownXyz s

/-- The enabled partner of a site. -/
def partnerOfSite (s : State) (site : Nat) : Option Nat :=
  (List.range 4).find? (fun i => (partnerAt s i).en && (partnerAt s i).site == site)

/-- Partner `p`'s gateway state. -/
def gateAt (s : State) (p : Nat) : Gateway := s.gateways.getD p {}

/-- Partner `p`'s gateway state changed. -/
def modGate (s : State) (p : Nat) (f : Gateway → Gateway) : State := { s with gateways := modAt s.gateways p f }

/-- Road entry `r` changed. -/
def modRoad (s : State) (r : Nat) (f : Road → Road) : State := { s with roads := modAt s.roads r f }

/-- W of every partner at 8 ms and no estimator samples (R442, R444). -/
def clearEstimators (s : State) : State :=
  let s := (List.range 4).foldl (fun s p => wr s (stlReg stlWindow + 4 * p) 8000) s
  (List.range 16).foldl (fun s r => wr (wr s (stlReg stlRoadSrtt + 8 * r) 0) (stlReg stlRoadVar + 8 * r) 0) s

/-- A DELIVER whose message the gateway has forgotten: its acknowledgement no longer counts for one. -/
def forgetDelivery (q : FabReq) : FabReq :=
  match q.kind with
  | .deliver _ _ => { q with kind := .transport }
  | _ => q

/-- Nothing of Stolcen held: no roads, no store, no reassembly (R444). -/
def clearStolcen (s : State) : State :=
  let s := dropJobs { s with
    partners := List.replicate 4 {}, roads := List.replicate 16 {}, gateways := List.replicate 4 {}
    assemblies := s.assemblies.filter (fun a => a.op != 1 && a.op != 2 && a.op != 3)
    requests := s.requests.map forgetDelivery }
  wr s (stlReg stlRoadUp) 0

/-- STL_CTRL.EN is set: the table is read and every partner starts again (R425, R444, R493). -/
def enableStolcen (s : State) (src : Nat) : State :=
  if stlOn s then s
  else
    let a := rd64 s (stlReg stlStlTableLo)
    let s := meetMem s a 1280
    let (ps, badP) := readPartners ((List.range 4).map (fun i => readMem s.mem (a + 64 * i) 64))
    let (rs, badR) := readRoads ((List.range 16).map (fun i => readMem s.mem (a + 256 + 64 * i) 64)) ps
    let s := clearEstimators (clearStolcen (setFlag s (stlReg stlStlCtrl) 31 true))
    let s := { s with partners := ps, roads := rs }
    let s := (badP ++ badR.map (· + 4)).foldl (fun s i => logError s 0x0F src i) s
    deriveRoads s

/-- STL_CTRL.EN is cleared (R444). -/
def disableStolcen (s : State) : State :=
  if stlOn s then clearStolcen (setFlag s (stlReg stlStlCtrl) 31 false) else s

/-! ### Frames (R418 to R421) -/

/-- The port is enabled in an Ethernet mode. -/
def isEth (s : State) (p : Nat) : Bool :=
  (fld s (portReg p portPortCtrl) 29 28 == 1 || fld s (portReg p portPortCtrl) 29 28 == 2) && portEnabled s p

/-- ETH_STATUS.LINK. -/
def ethLink (s : State) (p : Nat) : Bool := flag s (ethReg p ethEthStatus) 31

/-- ENCAP: 1 is IPv6/UDP. -/
def encapOf (s : State) (p : Nat) : Bool := flag s (ethReg p ethEthCfg) 31

/-- ETHERTYPE of direct carriage. -/
def etherType (s : State) (p : Nat) : Nat := fld s (ethReg p ethEthCfg) 15 0

/-- The port's carriage is valid (R420). -/
def carriageValid (s : State) (p : Nat) : Bool :=
  let t := etherType s p
  encapOf s p || (decide (0x600 ≤ t) && t != 0x8100 && t != 0x86DD && t != 0x8808)

/-- The port's MAC address, most significant byte first on the wire. -/
def ownMac (s : State) (p : Nat) : List Byte := beBytes 6 (rd s (ethReg p ethMacLo) + 2 ^ 32 * fld s (ethReg p ethMacHi) 15 0)

/-- The port's IPv6 address in network order. -/
def ownIp6 (s : State) (p : Nat) : List Byte := (List.range 4).flatMap (fun i => leBytes 4 (rd s (ethReg p ethIp6Addr + 4 * i)))

/-- A UDP checksum's pseudo-header over IPv6. -/
def pseudoHeader (src dst : List Byte) (len : Nat) : List Byte := src ++ dst ++ beBytes 4 len ++ [0, 0, 0, 17]

/-- A UDP datagram over IPv6, with its header's checksum. -/
def udpPacket (src dst : List Byte) (sport dport : Nat) (payload : List Byte) : List Byte :=
  let len := payload.length + 8
  let head := beBytes 2 sport ++ beBytes 2 dport ++ beBytes 2 len
  let sum := 0xFFFF - onesSum (pseudoHeader src dst len ++ head ++ [0, 0] ++ payload)
  head ++ beBytes 2 (if sum = 0 then 0xFFFF else sum) ++ payload

/-- The frame that carries a Stolcen part on road `r` (Table 14.2), without its FCS. -/
def frameOf (s : State) (r : Nat) (payload : List Byte) : List Byte :=
  let road := roadAt s r
  let p := road.port
  let cfg := rd s (ethReg p ethEthCfg)
  let udp := rd s (ethReg p ethUdpCfg)
  let tag : List Byte := if bit cfg 30 then [0x81, 0x00] ++ beBytes 2 (bits cfg 27 16) else []
  road.mac ++ ownMac s p ++ tag ++
  (if encapOf s p then
    let seg := udpPacket (ownIp6 s p) road.ip6 (bits udp 15 0) road.udp payload
    beBytes 2 0x86DD ++ beBytes 4 (6 <<< 28 + bits udp 23 16 <<< 20) ++ beBytes 2 seg.length ++ [17] ++ beBytes 1 (bits udp 31 24) ++
      ownIp6 s p ++ road.ip6 ++ seg
  else beBytes 2 (etherType s p) ++ payload)

/-- A sealed frame sent on its road; a port without link or carriage sends none (R420). -/
def sendFrame (s : State) (r : Nat) (payload : List Byte) : State :=
  let p := (roadAt s r).port
  if isEth s p && ethLink s p && carriageValid s p then
    emit (count s (ethReg p ethFramesTx)) (.frame p (frameOf s r payload))
  else s

/-- A received frame with its 802.1Q tag removed: what follows the MAC addresses. -/
def afterTag (frame : List Byte) : List Byte :=
  let b := frame.drop 12
  if beNat (b.take 2) = 0x8100 then b.drop 4 else b

/-- The Stolcen part of an IPv6/UDP frame that R420 accepts. -/
def udpPayload (s : State) (p : Nat) (b : List Byte) : Option (List Byte) :=
  let ip := b.take 40
  let seg := b.drop 40
  let len := beNat (slice seg 4 2)
  let src := slice ip 8 16
  let dst := slice ip 24 16
  if ip.length = 40 ∧ (leAt ip 0 1) / 16 = 6 ∧ leAt ip 6 1 = 17 ∧ dst = ownIp6 s p ∧ 8 ≤ len ∧ len ≤ seg.length ∧
     beNat (slice ip 4 2) = len ∧ beNat (slice seg 2 2) = fld s (ethReg p ethUdpCfg) 15 0 ∧
     onesSum (pseudoHeader src dst len ++ seg.take len) = 0xFFFF
  then some ((seg.take len).drop 8) else none

/-- The Stolcen part of a frame in the carriage in force (R419, R420). -/
def carried_ (s : State) (p : Nat) (frame : List Byte) : Option (List Byte) :=
  let b := afterTag frame
  let t := beNat (b.take 2)
  let body :=
    if !carriageValid s p then none
    else if encapOf s p then (if t = 0x86DD then udpPayload s p (b.drop 2) else none)
    else (if t = etherType s p then some (b.drop 2) else none)
  match body with
  | some x => if 80 ≤ x.length then some x else none
  | none => none

/-- The road entry of a frame that arrived on port `p`: owned here, of its partner and number. -/
def roadOfFrame (s : State) (p : Nat) (head : List Byte) : Option Nat :=
  (ownRoads s).find? (fun r => (roadAt s r).port == p && (partnerAt s (roadAt s r).partner).site == leAt head 2 1 &&
    (roadAt s r).road == leAt head 4 1)

/-- A Stolcen header is of VER 1 and a known FTYPE with no RSVD bit, and fits its frame (R421, R423). -/
def frameHeadGood (part : List Byte) : Bool :=
  let t := leAt part 0 1
  (t == 0x11 || t == 0x21) && decide (leAt part 1 1 < 4) && decide (leAt part 4 1 < 4) && decide (leAt part 5 1 < 64) &&
  decide (leAt part 6 1 < 8) && leAt part 7 1 == 0 && leAt part 60 4 == 0 && leAt part 26 2 + 80 == part.length

/-- A frame dropped by the port's filter (R419, R425). -/
def filtered (s : State) (p : Nat) : State := count s (ethReg p ethFiltered)

/-- A frame that passed the port's filter: dealt to the bank, or dropped under R423. -/
def acceptFrame (s : State) (p : Nat) (part : List Byte) : State :=
  let s := count s (ethReg p ethFramesRx)
  match roadOfFrame s p part with
  | none => authFail s
  | some r =>
    if frameHeadGood part && epochAccepted s (leAt part 8 4) && roadKeysExist s then
      dealJob s (bankOfPort p)
        { core := 0, urgent := bit (leAt part 1 1) 0, sealing := false, road := r, ok := false, bytes := part, at_ := s.now }
    else authFail s

/-- A frame arrives on a port (R419, R423, R425). -/
def frameEffect (s : State) (p : Nat) (frame : List Byte) (fcsOk : Bool) : State :=
  if !(isEth s p && ethLink s p) then s
  else if !fcsOk then count s (ethReg p ethFcsErr)
  else if 9216 < frame.length + 4 then count s (ethReg p ethOversize)
  else if beNat ((afterTag frame).take 2) = 0x8808 then count s (ethReg p ethPauseDrop)
  else if frame.take 6 != ownMac s p then filtered s p
  else
    match carried_ s p frame with
    | none => filtered s p
    | some part =>
      if leAt part 3 1 != ownSite s || (partnerOfSite s (leAt part 2 1)).isNone || !(ownRoads s).any (fun r => (roadAt s r).port == p)
      then filtered s p
      else acceptFrame s p part

/-! ### Coding (R428, R429) -/

/-- The coefficient c(j, i). -/
def cauchy (j i : Nat) : Nat := gfInv codePoly ((8 + j) ^^^ i)

/-- A shard times a coefficient. -/
def scaleShard (c : Nat) (d : List Nat) : List Nat := d.map (gfMul codePoly c)

/-- The shards of a group: k data shards and m parity shards. -/
def shardsOf (k m : Nat) (group : List Byte) : List (List Byte) :=
  let len := (group.length + k - 1) / k
  let data := (List.range k).map (fun i => padTo len (slice group (i * len) len))
  let nums := data.map (fun d => d.map BitVec.toNat)
  data ++ (List.range m).map (fun j =>
    (nums.zipIdx.foldl (fun acc d => xorList acc (scaleShard (cauchy j d.2) d.1)) (List.replicate len 0)).map (BitVec.ofNat 8))

/-- A row of the equations that shards give: coefficients of the data shards, and bytes. -/
abbrev CodeRow := List Nat × List Nat

/-- The equation of shard `s`. -/
def codeRow (k s : Nat) (d : List Byte) : CodeRow :=
  ((List.range k).map (fun i => if s < k then (if i = s then 1 else 0) else cauchy (s - k) i), d.map BitVec.toNat)

/-- Column `c` eliminated from every row but one with a pivot there, which comes first. -/
def eliminate (rows : List CodeRow) (c : Nat) : List CodeRow :=
  match rows.find? (fun r => r.1.getD c 0 != 0 && (r.1.take c).all (· == 0)) with
  | none => rows
  | some p =>
    let f := gfInv codePoly (p.1.getD c 0)
    let q : CodeRow := (scaleShard f p.1, scaleShard f p.2)
    let others := (rows.erase p).map (fun r =>
      let g := r.1.getD c 0
      (xorList r.1 (scaleShard g q.1), xorList r.2 (scaleShard g q.2)))
    q :: others

/-- The data of a group from k shards with distinct indices. -/
def rebuildGroup (k : Nat) (shards : List (Nat × List Byte)) : List Byte :=
  let rows := (List.range k).foldl eliminate ((shards.take k).map (fun d => codeRow k d.1 d.2))
  (List.range k).flatMap (fun i =>
    (((rows.find? (fun r => r.1.getD i 0 == 1 && (r.1.take i).all (· == 0))).map (·.2)).getD []).map (BitVec.ofNat 8))

/-! ### Sending (R427 to R431) -/

/-- The partner's UP roads in ascending ROAD number (R430). -/
def upRoads (s : State) (p : Nat) : List Nat :=
  (List.range 4).filterMap (fun n =>
    (List.range 16).find? (fun r => (roadAt s r).en && (roadAt s r).up && (roadAt s r).partner == p && (roadAt s r).road == n))

/-- The Stolcen header that the lead gateway gives a shard; the port owner adds epoch, nonce and times (Table 14.3). -/
def shardHeader (s : State) (p road seq group ngroup msgLen k m shard len : Nat) (urgent resend : Bool) : List Byte :=
  [0x11] ++ leBytes 1 (b2n urgent + 2 * b2n resend) ++ leBytes 1 (ownSite s) ++ leBytes 1 (partnerAt s p).site ++ leBytes 1 road ++
  leBytes 1 (k - 1 + 8 * m) ++ leBytes 1 shard ++ [0] ++ leBytes 4 0 ++ leBytes 8 seq ++ leBytes 2 group ++ leBytes 2 ngroup ++
  leBytes 2 (msgLen - 1) ++ leBytes 2 len ++ List.replicate 36 0

/-- The transport address of a Stolcen operation. -/
def stlAddr (op : Nat) : Nat := op <<< 56

/-- A Stolcen message sent to a module without asking for an acknowledgement. -/
def sendStolcen (s : State) (op : Nat) (dst : Coord) (bytes : List Byte) : State :=
  let (tag, s) := takeTag s
  (messagePackets s 4 dst (stlAddr op) tag bytes false).foldl (fun s k => launch s none k) s

/-- One group of a message sent over the UP roads of its partner (R428 to R430). -/
def sendGroup (s : State) (p seq : Nat) (bytes : List Byte) (urgent : Bool) (group : Nat) (resend : Bool) : State :=
  let e := partnerAt s p
  let k := if urgent then e.uk else e.k
  let m := if urgent then e.um else e.m
  let cap := k * e.shardMax
  let ups := upRoads s p
  let shards := shardsOf k m (slice bytes (group * cap) cap)
  shards.zipIdx.foldl (fun s d =>
    let r := ups.getD ((seq + group + d.2) % ups.length) 0
    sendStolcen s 2 (roadAt s r).owner
      (shardHeader s p (roadAt s r).road seq group ((bytes.length + cap - 1) / cap - 1) bytes.length k m d.2 d.1.length urgent resend ++ d.1)) s

/-- How many groups a message has (R428). -/
def groupCount (e : Partner) (urgent : Bool) (len : Nat) : Nat :=
  let cap := (if urgent then e.uk else e.k) * e.shardMax
  (len + cap - 1) / cap

/-- A group of a stored message marked as sent now. -/
def markSent (s : State) (p seq group : Nat) (resend : Bool) : State :=
  modGate s p (fun g => { g with store := modWhere g.store (fun m => m.seq == seq) (fun m => { m with groups := modWhere m.groups (fun o => o.group == group) (fun o =>
      { o with sentAt := some s.now, resends := if resend then o.resends + 1 else o.resends }) }) })

/-- Groups of stored messages that have not been sent and may be, urgent messages first (R427, R431). -/
def unsentGroups (g : Gateway) : List (StoredMsg × Nat) :=
  let ms := g.store.filter (fun m => decide (m.seq < g.acked + 4096))
  (ms.filter (·.urgent) ++ ms.filter (fun m => !m.urgent)).flatMap (fun m =>
    (m.groups.filter (·.sentAt.isNone)).map (fun o => (m, o.group)))

/-- Whatever waits to be sent to partner `p` is sent, while a road is UP (R427, R430, R431). -/
def pumpPartner (s : State) (p : Nat) : State :=
  if (upRoads s p).isEmpty then s
  else (unsentGroups (gateAt s p)).foldl (fun s e =>
    let s := sendGroup s p e.1.seq e.1.bytes e.1.urgent e.2 false
    count (markSent s p e.1.seq e.2 false) (stlReg stlGroupsTx)) s

/-- An ACK or NAK message sent, never stored (R427, R436): CLASS, then its body. -/
def sendControl (s : State) (p cls : Nat) (body : List Byte) : State :=
  let msg := leBytes 1 cls ++ [1] ++ leBytes 1 (partnerAt s p).site ++ [0] ++ leBytes 3 0 ++ leBytes 3 (coordBits (ownXyz s)) ++
    List.replicate 6 0 ++ body
  (List.range (groupCount (partnerAt s p) true msg.length)).foldl (fun s g =>
    count (sendGroup s p 0 msg true g false) (stlReg stlGroupsTx)) s

/-- One stored group re-sent (R437). -/
def resendGroup (s : State) (p : Nat) (m : StoredMsg) (group : Nat) : State :=
  count (markSent (sendGroup s p m.seq m.bytes m.urgent group true) p m.seq group true) (stlReg stlResends)

/-! ### Roads (R440, R441) -/

/-- What a port owner tells the lead gateway of a road of another module's lead: its state, and an RTT sample (0 none) (R440, R441). The spec
gives the notice no form: it goes as RECV_SHARD with a KEEPALIVE's header (DESIGN CHOICE, log entry 51). -/
def roadNotice (s : State) (r : Nat) (up : Bool) (sample : Nat) : State :=
  let road := roadAt s r
  let e := partnerAt s road.partner
  if road.owner = ownXyz s ∧ e.lead ≠ ownXyz s then
    sendStolcen s 3 e.lead ([0x21, 0] ++ leBytes 1 e.site ++ leBytes 1 (ownSite s) ++ leBytes 1 road.road ++ List.replicate 59 0 ++
      leBytes 1 (b2n up) ++ leBytes 8 sample)
  else s

/-- A road becomes UP or DOWN, as its port owner or its lead gateway sees it. -/
def setRoadUp (s : State) (r : Nat) (up : Bool) : State :=
  let road := roadAt s r
  if !road.en || road.up == up then s
  else
    let s := modRoad s r (fun q => { q with up := up })
    let s := if leads s road.partner then setFlag s (stlReg stlRoadUp) r up else roadNotice s r up 0
    if up then (if leads s road.partner then pumpPartner s road.partner else s)
    else raiseFlag s 6 (stlReg stlStlEvent) 30

/-- A quotient whose rounding the spec does not give: down, or up by a free choice. -/
def roundFree (s : State) (num den : Nat) : Nat × State :=
  if num % den = 0 then (num / den, s)
  else (num / den + b2n (Config.freeBool s.draws), { s with draws := s.draws + 1 })

/-- An RTT sample of road `r` in nanoseconds taken into its estimator (R441). -/
def rttSample (s : State) (r x : Nat) : State :=
  let ks := stlReg stlRoadSrtt + 8 * r
  let kv := stlReg stlRoadVar + 8 * r
  let first := !(roadAt s r).sampled
  let s := modRoad s r (fun q => { q with sampled := true })
  if first then
    let (v, s) := roundFree s x 2
    wr (wr s ks x) kv v
  else
    let t := rd s ks
    let d := if x ≤ t then t - x else x - t
    let (v, s) := roundFree s (3 * rd s kv + d) 4
    let (t, s) := roundFree s (7 * t + x) 8
    wr (wr s ks t) kv v

/-- The road's port carries frames: link and carriage (R440). -/
def roadCarries (s : State) (r : Nat) : Bool :=
  let p := (roadAt s r).port
  isEth s p && ethLink s p && carriageValid s p

/-- The first authenticated frame of a millisecond that echoes a time is an RTT sample for the lead gateway's estimator (R441). -/
def takeSample (s : State) (r : Nat) (head : List Byte) (at_ : Nat) : State :=
  let rx := at_ * 10 / 17
  let echo := leAt head 48 8
  let ms := rx / 1000000
  if echo != 0 && (roadAt s r).sampleMs != some ms then
    let s := modRoad s r (fun q => { q with sampleMs := some ms })
    let x := rx - echo - leAt head 56 4
    if leads s (roadAt s r).partner then rttSample s r x else roadNotice s r (roadAt s r).up x
  else s

/-- An authenticated frame has arrived on road `r` (R440, R441). -/
def heard (s : State) (r : Nat) (head : List Byte) (at_ : Nat) : State :=
  let s := modRoad s r (fun q => { q with farTime := leAt head 40 8, farAt := at_ })
  let s := if roadCarries s r then setRoadUp s r true else s
  takeSample s r head at_

/-! ### Cipher completions (R422, R423, R432, R477) -/

/-- A message of a link-die bank has ended: its frame is sent, or what it brought is acted on. -/
def jobDone (s : State) (b : Nat) (j : CipherJob) : State :=
  let head := j.bytes.take 64
  if j.sealing then
    let s := countBy (count s (bankReg b ciphMsgSealed)) (bankReg b ciphBlocks) ((leAt head 26 2 + 15) / 16)
    sendFrame s j.road j.bytes
  else
    let s := countBy s (bankReg b ciphBlocks) ((j.bytes.length - 64 + 15) / 16)
    if !j.ok then authFail (count s (bankReg b ciphTagFail))
    else
      let s := heard (count s (bankReg b ciphMsgOpened)) j.road head j.at_
      if leAt head 0 1 = 0x11 then sendStolcen s 3 (partnerAt s (roadAt s j.road).partner).lead j.bytes else s

/-- A core finishes its message. -/
def doneEffect (s : State) (b core : Nat) : State :=
  match finishCore s b core with
  | (some j, s) => jobDone s b j
  | (none, s) => s

/-! ### Packets of Stolcen messages -/

/-- The operation of a STOLCEN packet. -/
def stlOp (p : Packet) : Nat := bits p.addr 63 56

/-- A packet taken into the message it belongs to; the message is given back whole at its last packet. -/
def assemble (s : State) (i : InPkt) : Assembly × State :=
  let p := i.pkt
  let mine (a : Assembly) : Bool := a.src == p.src && a.op == stlOp p && a.tag == p.tag
  let fresh : Assembly := { src := p.src, op := stlOp p, bytes := [], poison := false, complete := false, tag := p.tag, marks := [], port := i.port }
  let a := if p.first then fresh else (s.assemblies.find? mine).getD fresh
  let off := bits p.addr 31 0
  let tooLong := decide (65536 + 64 < off + p.data.length)
  let a := { a with
    bytes := if tooLong then a.bytes else patch (padTo (max a.bytes.length off) a.bytes) off p.data
    poison := a.poison || tooLong || p.poison != 0
    marks := a.marks ++ (if tooLong then [(0, 65600)] else
      ((chunks 32 8 p.data).zipIdx.filter (fun e => bit p.poison e.2)).map (fun e => (off + 32 * e.2, e.1.length)))
    complete := p.last }
  (a, { s with assemblies := s.assemblies.filter (fun x => !mine x) ++ (if p.last then [] else [a]) })

/-- The next STOLCEN packet of an operation taken; `act` carries out the whole message and gives the status of its acknowledgement. -/
def stolcenEvent (s : State) (sel : Nat → Bool) (act : State → Assembly → Nat × State) : Host.Outcome State Fault Refusal :=
  .next (if !live s then s
    else
      match nextOf s 4 (fun p => sel (stlOp p)) with
      | none => s
      | some i =>
        let (a, s) := assemble (consume s i) i
        if a.complete then
          let (st, s) := act s a
          noteMessage s i.pkt st
        else noteMessage s i.pkt 0)

/-! ### The lead gateway sends (R426, R427, R436 to R439) -/

/-- A message header that may be submitted (Table 14.6, Table 15.4). -/
def submitGood (m : List Byte) : Bool :=
  decide (16 ≤ m.length) && decide (m.length ≤ 65536) && decide (1 ≤ leAt m 0 1) && decide (leAt m 0 1 ≤ 4) &&
  decide (leAt m 1 1 < 2) && leAt m 3 1 == 0 && zeros (slice m 10 6)

/-- The bytes that stored messages take in the re-send store. -/
def storeUsed (s : State) : Nat := ((s.gateways.flatMap (·.store)).map (fun m => m.bytes.length)).sum

/-- A message is submitted: stored and numbered, or refused (R426, R427). -/
def submitEffect (s : State) (a : Assembly) : Nat × State :=
  let room := decide (storeUsed s + a.bytes.length ≤ 65536 * rd s (stlReg stlStoreSize))
  match partnerOfSite s (leAt a.bytes 2 1) with
  | some p =>
    if stlOn s && a.op == 1 && leads s p && room && submitGood a.bytes && !a.poison then
      let urgent := bit (leAt a.bytes 1 1) 0
      let n := groupCount (partnerAt s p) urgent a.bytes.length
      let msg := patch a.bytes 7 (leBytes 3 (coordBits a.src))
      let gs : List OutGroup := (List.range n).map (fun i => ⟨i, none, 0⟩)
      let s := modGate s p (fun g => { g with nextSeq := g.nextSeq + 1, store := g.store ++ [⟨g.nextSeq, urgent, msg, gs⟩] })
      (0, pumpPartner s p)
    else (0x0E, count s (stlReg stlSubmitRefused))
  | none => (0x0E, count s (stlReg stlSubmitRefused))

/-- A stored message with its group. -/
def storedGroup (s : State) (p seq group : Nat) : Option (StoredMsg × OutGroup) :=
  match (gateAt s p).store.find? (fun m => m.seq == seq) with
  | some m => (m.groups.find? (fun o => o.group == group)).map (fun o => (m, o))
  | none => none

/-- RESEND_MAX. -/
def resendMax (s : State) : Nat := fld s (stlReg stlStlCtrl) 7 4

/-- A message given up (R439). -/
def giveUp (s : State) (p : Nat) (m : StoredMsg) : State :=
  let s := modGate s p (fun g => { g with store := g.store.filter (fun x => x.seq != m.seq) })
  let s := raiseFlag (count s (stlReg stlGaveUp)) 6 (stlReg stlStlEvent) 31
  submitEvent s 0x4001 0 0x0D (leBytes 1 p ++ m.bytes.take 1 ++ [0, 0] ++ leBytes 8 m.seq)

/-- An ACK message covers a sequence (R436). -/
def ackCovers (m : List Byte) (q : Nat) : Bool :=
  let body := m.drop 16
  let h := leAt body 0 8
  decide (q ≤ h) || (decide (q ≤ h + 4096) && bit (leAt body (8 + (q - h - 1) / 8) 1) ((q - h - 1) % 8))

/-- No ACK has covered a sent group within its RTO: re-sent, or given up (R437, R439); an ACK that has arrived counts first (R438). -/
def rtoEffect (s : State) (p seq group : Nat) : State :=
  if (upRoads s p).isEmpty || (gateAt s p).acks.any (fun m => ackCovers m seq) then s
  else
    match storedGroup s p seq group with
    | some (m, o) =>
      if o.sentAt.isNone then s
      else if resendMax s ≤ o.resends then giveUp s p m
      else resendGroup s p m group
    | none => s

/-- The greatest SRTT of the partner's UP roads, ns. -/
def maxSrtt (s : State) (p : Nat) : Nat := (upRoads s p).foldl (fun a r => max a (rd s (stlReg stlRoadSrtt + 8 * r))) 0

/-- One entry of a NAK (R437, R438). -/
def nakEntry (s : State) (p seq group : Nat) : State :=
  let s := count s (stlReg stlNaksRx)
  match storedGroup s p seq group with
  | some (m, o) =>
    match o.sentAt with
    | some t =>
      let recent := decide (s.now * 10 ≤ t * 10 + 17 * maxSrtt s p)
      if recent || decide (resendMax s ≤ o.resends) || (upRoads s p).isEmpty then s else resendGroup s p m group
    | none => s
  | none => s

/-- The first ACK or NAK that waits, with its partner. -/
def firstWaiting (s : State) (f : Gateway → List (List Byte)) : Option (Nat × List Byte) :=
  (List.range 4).findSome? (fun p => (f (gateAt s p)).head?.map (fun b => (p, b)))

/-- An ACK frees what it covers (R438). -/
def ackMessage (s : State) : State :=
  match firstWaiting s (·.acks) with
  | none => s
  | some (p, m) =>
    let s := modGate s p (fun g => { g with
      acks := g.acks.drop 1, acked := max g.acked (leAt m 16 8), store := g.store.filter (fun x => !ackCovers m x.seq) })
    pumpPartner s p

/-- A NAK re-sends groups (R437). -/
def nakMessage (s : State) : State :=
  match firstWaiting s (·.naks) with
  | none => s
  | some (p, m) =>
    let s := modGate s p (fun g => { g with naks := g.naks.drop 1 })
    (chunks 8 64 (m.drop 16)).foldl (fun s e => if e.length = 8 then nakEntry s p (leAt e 0 6) (leAt e 6 2) else s) s

/-! ### The lead gateway receives (R432 to R436) -/

/-- A reassembly group is that of a sequence and index. -/
def InGroup.is (seq group : Nat) (g : InGroup) : Bool := g.seq == seq && g.group == group

/-- Partner `p`'s reassembly group changed. -/
def modGroup (s : State) (p seq group : Nat) (f : InGroup → InGroup) : State :=
  modGate s p (fun g => { g with groups := modWhere g.groups (InGroup.is seq group) f })

/-- A whole message of partner `p` with sequence `seq` (R434): sent to its destination, or recognised. -/
def messageWhole (s : State) (p seq : Nat) (msg : List Byte) : State :=
  let g := gateAt s p
  if seq = 0 then
    if leAt msg 0 1 = 0x40 then modGate s p (fun g => { g with acks := g.acks ++ [msg] })
    else if leAt msg 0 1 = 0x41 then modGate s p (fun g => { g with naks := g.naks ++ [msg] })
    else s
  else if seq ≤ g.h ∨ g.above.contains seq then
    count (modGate s p (fun g => { g with ackDue := true })) (stlReg stlDuplicates)
  else if g.h + 4096 < seq ∨ g.delivering.contains seq then s
  else
    let dst := coordOf (leAt msg 4 3)
    let (tag, s) := takeTag s
    let s := modGate s p (fun g => { g with delivering := g.delivering ++ [seq] })
    let s := { s with requests := s.requests ++ [{ tag := tag, kind := .deliver p seq, target := dst, read := false, dests := [] }] }
    let bytes := leBytes 8 seq ++ leBytes 1 (partnerAt s p).site ++ List.replicate 7 0 ++ msg
    (messagePackets s 4 dst (stlAddr 4) tag bytes true).foldl (fun s k => launch s none k) s

/-- Every group of a message is decoded: the message is put together and acted on; its groups stay known, emptied, until their timers
expire. -/
def groupDecoded (s : State) (p seq ngroup msgLen : Nat) : State :=
  let parts := (List.range (ngroup + 1)).map (fun i => (((gateAt s p).groups.find? (InGroup.is seq i)).bind (·.decoded)).getD [])
  if parts.any List.isEmpty then s
  else
    let msg := parts.flatten.take msgLen
    let s := modGate s p (fun g => { g with groups := modWhere g.groups (fun x => x.seq == seq) (fun x => { x with decoded := some [] }) })
    messageWhole s p seq msg

/-- A shard taken into its group, which is decoded once k shards are held (R432). -/
def takeShard (s : State) (p seq group shard : Nat) (d : List Byte) : State :=
  let s := modGroup s p seq group (fun g => { g with shards := g.shards ++ [(shard, d)] })
  match (gateAt s p).groups.find? (InGroup.is seq group) with
  | none => s
  | some g =>
    if g.shards.length < g.k then s
    else
      let s := count s (stlReg stlGroupsRx)
      let s := if g.shards.any (fun x => decide (g.k ≤ x.1)) then count s (stlReg stlGroupsRebuilt) else s
      let s := modGroup s p seq group (fun x => { x with decoded := some (rebuildGroup x.k x.shards) })
      groupDecoded s p seq g.ngroup g.msgLen

/-- A shard that arrives for a group (R432). An ACK or NAK has no sequence of its own: a repeated shard index begins the next one. -/
def shardArrives (s : State) (p : Nat) (head d : List Byte) : State :=
  let seq := leAt head 12 8
  let group := leAt head 20 2
  let shard := leAt head 6 1
  let k := bits (leAt head 5 1) 2 0 + 1
  let m := bits (leAt head 5 1) 5 3
  let new : InGroup := ⟨seq, group, leAt head 22 2, leAt head 24 2 + 1, k, m, [], none, 0, false⟩
  let begin (s : State) : State :=
    takeShard (modGate s p (fun g => { g with groups := g.groups.filter (fun x => !x.is seq group) ++ [new] })) p seq group shard d
  if k + m ≤ shard ∨ new.ngroup < group then s
  else
    match (gateAt s p).groups.find? (InGroup.is seq group) with
    | none => begin s
    | some g =>
      if g.shards.any (fun x => x.1 == shard) then (if seq = 0 then begin s else count s (stlReg stlShardsLate))
      else if g.decoded.isSome then
        count (modGroup s p seq group (fun x => { x with shards := x.shards ++ [(shard, d)] })) (stlReg stlShardsLate)
      else if g.k ≠ k ∨ (g.shards.any (fun x => x.2.length != d.length)) then s
      else takeShard (modGroup s p seq group (fun x => { x with fresh := true })) p seq group shard d

/-- A port owner's notice of road `r` acted on by the lead gateway (R440, R441). -/
def roadTold (s : State) (body : List Byte) (r : Nat) : State :=
  let s := setRoadUp s r (leAt body 0 1 == 1)
  if leAt body 1 8 = 0 then s else rttSample s r (leAt body 1 8)

/-- RECV_SHARD at the lead gateway. -/
def recvEffect (s : State) (a : Assembly) : Nat × State :=
  let head := a.bytes.take 64
  match partnerOfSite s (leAt head 2 1) with
  | some p =>
    if stlOn s && leads s p && !a.poison && decide (64 ≤ a.bytes.length) then
      let r? := (List.range 16).find? (fun r => (roadAt s r).en && (roadAt s r).partner == p && (roadAt s r).road == leAt head 4 1)
      if leAt head 0 1 = 0x21 then (0, (r?.map (roadTold s (a.bytes.drop 64))).getD s)
      else (0, shardArrives s p head (a.bytes.drop 64))
    else (0, s)
  | none => (0, s)

/-- SEND_SHARD at the port owner: the shard is dealt to the bank of its road's port (R422). -/
def sendShardEffect (s : State) (a : Assembly) : Nat × State :=
  let head := a.bytes.take 64
  match (ownRoads s).find? (fun r => (partnerAt s (roadAt s r).partner).site == leAt head 3 1 && (roadAt s r).road == leAt head 4 1) with
  | some r =>
    if stlOn s && !a.poison && decide (64 ≤ a.bytes.length) then
      (0, dealJob s (bankOfPort (roadAt s r).port)
        { core := 0, urgent := bit (leAt head 1 1) 0, sealing := true, road := r, ok := false, bytes := a.bytes, at_ := s.now })
    else (0, s)
  | none => (0, s)

/-- The answer to a DELIVER: with OK the message counts as delivered, else a re-send may bring it again (R434, R435). -/
def deliverAnswered (s : State) (p seq status : Nat) : State :=
  let s := modGate s p (fun g => { g with delivering := g.delivering.filter (· != seq) })
  if status ≠ 0 then modGate s p (fun g => { g with groups := g.groups.filter (fun x => x.seq != seq) })
  else
    modGate s p (fun g =>
      let above := setIns g.above seq
      let h := (List.range 4096).foldl (fun h _ => if above.contains (h + 1) then h + 1 else h) g.h
      { g with h := h, above := above.filter (fun q => decide (h < q)), ackDue := true })

/-- An ACK is sent for what has been delivered since the last (R436). -/
def ackDelayEffect (s : State) (p : Nat) : State :=
  let g := gateAt s p
  if stlOn s && leads s p && g.ackDue && !(upRoads s p).isEmpty then
    let map := (List.range 512).flatMap (fun b => leBytes 1 (bitMap 8 (fun i => g.above.contains (g.h + 1 + 8 * b + i))))
    sendControl (modGate s p (fun g => { g with ackDue := false })) p 0x40 (leBytes 8 g.h ++ map)
  else s

/-- A group's reassembly timer expires (R433); a decoded group whose message is complete is forgotten. -/
def reassemblyEffect (s : State) (p seq group : Nat) : State :=
  let drop (s : State) : State := modGate s p (fun g => { g with groups := g.groups.filter (fun x => !x.is seq group) })
  match (gateAt s p).groups.find? (InGroup.is seq group) with
  | none => s
  | some g =>
    match g.decoded with
    | some bytes => if bytes.isEmpty then drop s else s
    | none =>
      let stale := if g.fresh then 0 else g.stale + 1
      if 4 ≤ stale then drop s
      else
        let s := modGroup s p seq group (fun x => { x with stale := stale, fresh := false })
        if (upRoads s p).isEmpty then s
        else sendControl (count s (stlReg stlNaksTx)) p 0x41 (leBytes 6 seq ++ leBytes 2 group)

/-- The receive ring takes a record (R435): the message, its header, the new write offset; `none` where it does not fit. -/
def ringPlace (w r n need : Nat) : Option (Nat × Nat × Nat) :=
  let free := n - (w + n - r) % n - 1
  if need ≤ n - w then (if need ≤ free then some (w, (w + need) % n, 0) else none)
  else if n - w + need ≤ free then some (0, need, n - w) else none

/-- A message written into the receive ring, or refused (R435). -/
def deliverEffect (s : State) (a : Assembly) : Nat × State :=
  let msg := a.bytes.drop 16
  let n := 1024 * rd s (stlReg stlRxRingSize)
  let w := rd s (stlReg stlRxWptr)
  let base := rd64 s (stlReg stlRxRingLo)
  let need := 1 + (msg.length + 63) / 64
  let place := if n = 0 then none else ringPlace w (rd s (stlReg stlRxRptr) % n) n need
  match place with
  | none => (0x0E, count s (stlReg stlRxFull))
  | some (at_, next, pad) =>
    let s := if pad = 0 then s
      else devWrite s (base + 64 * w) (List.replicate 12 0 ++ leBytes 4 (64 * pad - 64) ++ List.replicate 48 0) false
    let head := a.bytes.take 9 ++ msg.take 1 ++ [0, 0] ++ leBytes 4 msg.length ++ leBytes 8 (bellNum s) ++ List.replicate 40 0
    let bad (o len : Nat) : Bool := a.marks.any (fun m => decide (m.1 < o + len) && decide (o < m.1 + m.2))
    let o : MarkOrigin := .flit a.src (portSource a.port)
    let s := storeMarked s ((chunks 64 (need - 1) (padTo (64 * (need - 1)) msg)).zipIdx.map (fun e =>
      (base + 64 * at_ + 64 + 64 * e.2, e.1, bad (16 + 64 * e.2) 64))) o
    let s := storeMarked s [(base + 64 * at_, head, bad 0 17)] o
    let s := wr s (stlReg stlRxWptr) next
    let sig := rd s (stlReg stlRxSig)
    (0, signalIf s (bit sig 31) (bits sig 13 8) (bits sig 5 0))

/-! ### Roads and windows over time (R440, R442) -/

/-- A KEEPALIVE on an owned road. -/
def keepaliveEffect (s : State) (r : Nat) : State :=
  if stlOn s && (ownRoads s).contains r then
    let road := roadAt s r
    let head := [0x21, 0] ++ leBytes 1 (ownSite s) ++ leBytes 1 (partnerAt s road.partner).site ++ leBytes 1 road.road ++ List.replicate 59 0
    dealJob s (bankOfPort road.port)
      { core := 0, urgent := false, sealing := true, road := r, ok := false, bytes := head, at_ := s.now }
  else s

/-- The PCS of a port aligns or loses alignment (R440, Table 14.7). -/
def pcsEffect (s : State) (p : Nat) (aligned : Bool) : State :=
  if !isEth s p || ethLink s p == aligned then s
  else
    let s := setFlag s (ethReg p ethEthStatus) 31 aligned
    let s := raiseFlag s 2 (ethReg p ethEthEvent) (if aligned then 31 else 30)
    if aligned then s
    else (ownRoads s).foldl (fun s r => if (roadAt s r).port = p then setRoadUp s r false else s) s

/-- An Ethernet port is disabled: its link falls. -/
def disableEth (s : State) (p : Nat) : State :=
  if ethLink s p then pcsEffect s p false else s

/-- One partner's window (R442). -/
def windowOf (s : State) (p : Nat) : State :=
  let k := stlReg stlWindow + 4 * p
  let rs := (upRoads s p).filter (fun r => (roadAt s r).sampled)
  let any := (List.range 16).any (fun r => (roadAt s r).en && (roadAt s r).partner == p && (roadAt s r).sampled)
  if !any then wr s k 8000
  else if rs.isEmpty then s
  else
    let srtt (r : Nat) : Nat := rd s (stlReg stlRoadSrtt + 8 * r)
    let top := rs.foldl (fun a r => max a (srtt r + 4 * rd s (stlReg stlRoadVar + 8 * r))) 0
    let low := rs.foldl (fun a r => min a (srtt r)) (srtt (rs.headD 0))
    let (t, s) := roundFree s (top - low + 4000000) 2000
    let w := rd s k
    wr s k (if w < t then min t 32000 else max 8000 (max t (w - 10)))

/-- The windows of every partner led here. -/
def windowEffect (s : State) : State := (List.range 4).foldl (fun s p => if leads s p then windowOf s p else s) s

/-! ### Commands -/

/-- An event of Stolcen while the package runs. -/
def stlEvent (s : State) (ok : Bool) (t : State) : Host.Outcome State Fault Refusal := .next (if live s && ok then t else s)

/-- ETH_FRAME_RECEIVE (R423). -/
def execEthFrameReceive (port : Nat) (frame : List Byte) (fcsOk : Bool) (s : State) : Host.Outcome State Fault Refusal :=
  stlEvent s (okPort port) (frameEffect s port frame fcsOk)

/-- PCS_LINK_CHANGE (R440). -/
def execPcsLinkChange (port : Nat) (aligned : Bool) (s : State) : Host.Outcome State Fault Refusal :=
  stlEvent s (okPort port) (pcsEffect s port aligned)

/-- SUBMIT (R426). A packet whose operation is reserved is refused here. -/
def execSubmit (s : State) : Host.Outcome State Fault Refusal :=
  stolcenEvent s (fun op => op != 2 && op != 3 && op != 4) submitEffect

/-- SEND_SHARD (R422). -/
def execSendShard (s : State) : Host.Outcome State Fault Refusal := stolcenEvent s (· == 2) sendShardEffect

/-- RECV_SHARD (R432). -/
def execRecvShard (s : State) : Host.Outcome State Fault Refusal := stolcenEvent s (· == 3) recvEffect

/-- DELIVER (R435). -/
def execDeliver (_host : HostView) (s : State) : Host.Outcome State Fault Refusal := stolcenEvent s (· == 4) deliverEffect

/-- KEEPALIVE_TIMER (R440). -/
def execKeepaliveTimer (road : Nat) (s : State) : Host.Outcome State Fault Refusal :=
  stlEvent s (okRoad road) (keepaliveEffect s road)

/-- ROAD_DEAD_TIMER (R440). -/
def execRoadDeadTimer (road : Nat) (s : State) : Host.Outcome State Fault Refusal :=
  stlEvent s (okRoad road && stlOn s) (setRoadUp s road false)

/-- WINDOW_UPDATE (R442). -/
def execWindowUpdate (s : State) : Host.Outcome State Fault Refusal := stlEvent s (stlOn s) (windowEffect s)

/-- REASSEMBLY_TIMEOUT (R433). -/
def execReassemblyTimeout (partner seq group : Nat) (s : State) : Host.Outcome State Fault Refusal :=
  stlEvent s (okPartner partner && stlOn s) (reassemblyEffect s partner seq group)

/-- ACK_DELAY_TIMER (R436). -/
def execAckDelayTimer (partner : Nat) (s : State) : Host.Outcome State Fault Refusal :=
  stlEvent s (okPartner partner) (ackDelayEffect s partner)

/-- RTO_EXPIRY (R437). -/
def execRtoExpiry (partner seq group : Nat) (s : State) : Host.Outcome State Fault Refusal :=
  stlEvent s (okPartner partner && stlOn s) (rtoEffect s partner seq group)

/-- ACK (R438). -/
def execAck (s : State) : Host.Outcome State Fault Refusal := stlEvent s (stlOn s) (ackMessage s)

/-- NAK (R437). -/
def execNak (s : State) : Host.Outcome State Fault Refusal := stlEvent s (stlOn s) (nakMessage s)

/-- CIPHER_MESSAGE_DONE (R477). -/
def execCipherMessageDone (bank core : Nat) (s : State) : Host.Outcome State Fault Refusal :=
  stlEvent s (decide (bank < 4) && okCipherCore bank core) (doneEffect s bank core)

end Sys2Proof.Machine
end

