-- ==== Sys2Proof/Machine/Market.lean ====
section
/-! DEFINITION. The market engine: headers and their plans at an edge, contributions, ledgers, silent and joining sites (R447 to R475). -/

namespace Sys2Proof.Machine

/-! ### Headers (Table 15.2) -/

/-- A market header as read; `index` is its place in the table at MAP. -/
structure MktShard where
  index : Nat
  at_ : Nat
  id : Nat
  dir : Nat
  flags : Nat
  holds : Nat
  applied : Nat
  planBell : Nat
  stateAddr : Nat
  contribAddr : Nat
  twins : List Coord
  deriving DecidableEq, Repr

/-- Market header `i` (R450). -/
def mktAt (s : State) (i : Nat) : MktShard :=
  let a := mktWord s.activeHalf setMktMapLo + 2 ^ 32 * mktWord s.activeHalf setMktMapHi + 64 * i
  let b := readMem s.mem a 64
  { index := i, at_ := a, id := leAt b 0 4, dir := leAt b 4 2 % 2 ^ 14, flags := leAt b 6 1, holds := leAt b 7 1, applied := leAt b 8 8,
    planBell := leAt b 16 8, stateAddr := leAt b 24 8, contribAddr := leAt b 32 8,
    twins := (List.range 4).map (fun t => coordOf (leAt b (40 + 3 * t) 3)) }

/-- APPLIED as a round number: ROUND0 − 1 at the start, so −1 where ROUND0 is 0 (R452). -/
def MktShard.lastRound (m : MktShard) : Int := signed 64 m.applied
/-- STATE: 0 IN, 1 JOINING, 2 LOST. -/
def MktShard.state (m : MktShard) : Nat := bits m.flags 1 0
/-- HALF in force. -/
def MktShard.half (m : MktShard) : Nat := bits m.flags 2 2
/-- PLAN: 0 NONE, 1 MERGE_SEND, 2 LOAD. -/
def MktShard.plan (m : MktShard) : Nat := bits m.flags 4 3
/-- The header with STATE set. -/
def MktShard.withState (m : MktShard) (v : Nat) : MktShard := { m with flags := setBits m.flags 1 0 v }
/-- The header with PLAN set. -/
def MktShard.withPlan (m : MktShard) (v : Nat) : MktShard := { m with flags := setBits m.flags 4 3 v }

/-- The fields that the module writes, written back (R450). -/
def putMkt (s : State) (m : MktShard) : State :=
  devWrite s (m.at_ + 6) (leBytes 1 m.flags ++ leBytes 1 m.holds ++ leBytes 8 m.applied ++ leBytes 8 m.planBell) false

/-- How many headers this module has. -/
def mktCount (s : State) : Nat := min 16384 (bits (mktWord s.activeHalf setMktMapCount) 14 0)

/-- WORDS of a header's shard. -/
def mktWords (s : State) (m : MktShard) : Nat := (shardAt s (dirEntry s m.dir)).words

/-- The errors that reading the market headers and their shards' headers meets (R172). -/
def meetHeaders (s : State) : State :=
  if s.flaws.isEmpty then s
  else (List.range (mktCount s)).foldl (fun s i =>
    let s := meetMem s (mktAt s i).at_ 64
    meetShard s (mktAt s i).dir) s

/-- Blocks of a contribution (R457). -/
def mktBlocks (s : State) (m : MktShard) : Nat := (mktWords s m + 4095) / 4096

/-- Bytes of a block record of k = 16 × 2^ksel changes (R458). -/
def recordSize (ksel : Nat) : Nat := 4 + 40 * 2 ^ ksel

/-- The contribution slot of round `r` and site index `i` (R460). -/
def contribSlot (s : State) (m : MktShard) (r i : Nat) : Nat :=
  m.contribAddr + (r % 4 * 4 + i) * ((64 + 324 * mktBlocks s m + 63) / 64 * 64)

/-- Bytes of a part of a market state (R451). -/
def statePart (s : State) (m : MktShard) : Nat := 64 * ((mktWords s m + 15) / 16)

/-- The engine's working state for header `i`. -/
def mktWork (s : State) (i : Nat) : MktHeader := (s.market.headers.find? (fun h => h.index == i)).getD ⟨i, none, 0, [], []⟩

/-- The engine's working state for header `i` changed. -/
def modWork (s : State) (i : Nat) (f : MktHeader → MktHeader) : State :=
  { s with market := { s.market with headers := s.market.headers.filter (fun h => h.index != i) ++ [f (mktWork s i)] } }

/-! ### Roles and sets -/

/-- KEEPER[i] of the policy in force. -/
def keeperWord (s : State) (i : Nat) : Nat := mktWord s.activeHalf (setMktKeeper + 4 * i)

/-- The keeper module of this site. -/
def ownKeeper (s : State) : Coord := coordOf (keeperWord s (mktSite s.activeHalf))

/-- This module is its site's keeper. -/
def isKeeper (s : State) : Bool := mktOn s.activeHalf && ownKeeper s == ownXyz s

/-- MASTER_IDX. -/
def masterIdx (s : State) : Nat := bits (mktWord s.activeHalf setMktMktCtrl) 23 22

/-- The policy in force names this site master. -/
def isMasterSite (s : State) : Bool := mktOn s.activeHalf && masterIdx s == mktSite s.activeHalf

/-- The ledger of round `r` held here. -/
def ledgerOf (s : State) (r : Nat) : Option (List Byte) := (s.market.ledgers.find? (fun e => e.1 == r)).map (·.2)

/-- The newest ledger held. -/
def newestLedger (s : State) : Option (Nat × List Byte) :=
  s.market.ledgers.find? (fun e => s.market.ledgers.all (fun f => decide (f.1 ≤ e.1)))

/-- SITES of the policy in force. -/
def mktSites (s : State) : Nat := bits (mktWord s.activeHalf setMktMktCtrl) 21 18

/-- The send set as a bit map (R462). -/
def sendSet (s : State) : Nat :=
  match newestLedger s with
  | some e => (leAt e.2 8 1 ||| leAt e.2 11 1) % 16
  | none => mktSites s

/-- The members as a bit map, as the newest ledger or the policy has them. -/
def memberSet (s : State) : Nat :=
  match newestLedger s with
  | some e => leAt e.2 8 1 % 16
  | none => mktSites s

/-! ### Submissions (R426, R461, R462) -/

/-- A message submitted to the lead gateway of a site index's partner in the form of R426: message header, body, and which of its bytes
lie in poisoned blocks. Nothing leaves where no enabled partner is that site. -/
def submitMarket (s : State) (i : Nat) (dst : Coord) (cls : Nat) (urgent : Bool) (body : List Byte) (bad : Nat → Bool) : State :=
  let site := keeperWord s i / 2 ^ 24
  match partnerOfSite s site with
  | none => s
  | some p =>
    let msg := leBytes 1 cls ++ leBytes 1 (b2n urgent) ++ leBytes 1 site ++ [0] ++ leBytes 3 (coordBits dst) ++ List.replicate 9 0 ++ body
    let lead := (partnerAt s p).lead
    let (tag, s) := takeTag s
    let s := { s with requests := s.requests ++ [{ tag := tag, kind := .transport, target := lead, read := false, dests := [] }] }
    (messagePackets s 4 lead (stlAddr 1) tag msg true).foldl (fun s k =>
      let off := bits k.addr 31 0
      launch s none { k with poison := bitMap 7 (fun g => (List.range 32).any (fun j => bad (off + 32 * g + j))) }) s

/-- The 48-byte header of a CONTRIB message (Table 15.4). -/
def contribHeader (s : State) (m : MktShard) (r first n flags : Nat) : List Byte :=
  leBytes 8 r ++ leBytes 4 m.id ++ leBytes 4 (mktWords s m) ++ leBytes 4 first ++ leBytes 2 n ++ leBytes 1 flags ++
  leBytes 1 (mktSite s.activeHalf) ++ List.replicate 24 0

/-- The other sites of the send set. -/
def sendSites (s : State) : List Nat := (List.range 4).filter (fun i => i != mktSite s.activeHalf && bit (sendSet s) i)

/-- One CONTRIB message to every other site of the send set: `n` records from `first` of the slot at `a`. -/
def sendRecords (s : State) (m : MktShard) (r flags a first n : Nat) : State :=
  let size := recordSize (flags % 4)
  let from_ := a + 64 + first * size
  let s := meetMem s from_ (n * size)
  let body := contribHeader s m r first n flags ++ readMem s.mem from_ (n * size)
  let bad (j : Nat) : Bool := decide (64 ≤ j) && poisoned s (from_ + (j - 64))
  (sendSites s).foldl (fun s i => count (submitMarket s i (m.twins.getD i ⟨0, 0, 0⟩) 1 false body bad) (stlReg mktContribTx)) s

/-- The contribution of round `r` has been submitted (R454). -/
def markSubmitted (s : State) (m : MktShard) (r : Nat) : State :=
  { s with market := { s.market with sent := s.market.sent.filter (fun e => decide (r ≤ e.2 + 4)) ++ [(m.index, r)] } }

/-- The contribution of round `r` submitted from its slot, or as HELD where the slot says so (R462). -/
def submitContrib (s : State) (m : MktShard) (r : Nat) : State :=
  let a := contribSlot s m r (mktSite s.activeHalf)
  let s := meetMem s a 64
  let flags := leAt (readMem s.mem a 64) 22 1 % 16
  let per := 65472 / recordSize (flags % 4)
  let n := mktBlocks s m
  let s := if bit flags 2 then sendRecords s m r flags a 0 0
    else (List.range ((n + per - 1) / per)).foldl (fun s k => sendRecords s m r flags a (k * per) (min per (n - k * per))) s
  markSubmitted s m r

/-- The contribution of round `r` submitted as HELD (R453). -/
def sendHeld (s : State) (m : MktShard) (r : Nat) : State :=
  markSubmitted (sendRecords s m r 4 (contribSlot s m r (mktSite s.activeHalf)) 0 0) m r

/-- The contribution of round `r` from site `i` is complete in the store (R454, R463). -/
def contribComplete (s : State) (m : MktShard) (r i : Nat) : Bool :=
  if i = mktSite s.activeHalf then s.market.sent.contains (m.index, r)
  else s.market.present.any (fun p => p.header == m.index && p.round == r && p.site == i &&
    (p.held || decide (mktBlocks s m ≤ p.blocks.length)))

/-- A MARKET_CTL packet. -/
def marketCtl (s : State) (dst : Coord) (data : List Byte) : State := launch s none (message s 0x33 dst 0 data)

/-- ARRIVED is reported for round `r` and site `i` once every header's contribution is complete, on modules of the master's site (R464). -/
def reportArrived (s : State) (r i : Nat) : State :=
  if isMasterSite s && decide (0 < mktCount s) && !s.market.reported.contains (r, i, ownKeeper s) &&
     (List.range (mktCount s)).all (fun k => contribComplete s (mktAt s k) r i) then
    let s := { s with market := { s.market with reported := s.market.reported.filter (fun e => decide (r ≤ e.1 + 4)) ++ [(r, i, ownKeeper s)] } }
    marketCtl s (ownKeeper s) ([2] ++ leBytes 1 i ++ List.replicate 6 0 ++ leBytes 8 r)
  else s

/-- Contributions complete before this site's keeper closed ledgers are reported to it too (R474). -/
def reportHeld (s : State) : State :=
  let rounds := (s.market.present.map (·.round) ++ s.market.sent.map (·.2)).dedup
  if isMasterSite s then rounds.foldl (fun s r => (List.range 4).foldl (fun s i => reportArrived s r i) s) s else s

/-! ### An edge (R453 to R455, R459, R464, R467 to R469) -/

/-- An event flag of the market engine set. -/
def mktFlag (s : State) (b : Nat) : State := raiseFlag s 7 (stlReg mktMktEvent) b

/-- A shard becomes LOST. -/
def loseShard (s : State) (m : MktShard) : State :=
  if m.state = 2 then s
  else mktFlag (count (putMkt s (m.withState 2)) (stlReg mktLostCount)) 30

/-- HOLD_LIMIT, where 0 is read as 1. -/
def holdLimit (s : State) : Nat := atLeastOne (bits (mktWord s.activeHalf setMktMktCtrl) 17 14)

/-- A shard holds (R453). -/
def holdShard (s : State) (i : Nat) : State :=
  let m := mktAt s i
  let m := { m with holds := min 255 (m.holds + 1) }
  let s := mktFlag (count (putMkt s m) (stlReg mktHoldCount)) 31
  if holdLimit s ≤ m.holds then loseShard s m else s

/-- HELD sent for round `r`, reported where that makes the round complete, and a hold. -/
def missRound (s : State) (i r : Nat) : State :=
  holdShard (reportArrived (sendHeld s (mktAt s i) r) r (mktSite s.activeHalf)) i

/-- The flip of bell `n` of the header's shard is committed at the edge of bell `b`, be it the newest or followed by a later bell's (R330). -/
def flipCommitted (s : State) (m : MktShard) (n b : Nat) : Bool :=
  let h := shardAt s (dirEntry s m.dir)
  (!h.undone && h.flipBell == n % 2 ^ 48 && decide (h.landBell < b)) ||
  s.market.flips.any (fun f => f.1 == m.dir && f.2.1 == n % 2 ^ 48 && decide (f.2.2 < b))

/-- The flips that no plan may still ask for are forgotten. -/
def pruneFlips (s : State) : State :=
  let ms := if mktOn s.activeHalf then (List.range (mktCount s)).map (mktAt s) else []
  { s with market := { s.market with flips := s.market.flips.filter (fun f =>
      ms.any (fun m => m.plan != 0 && f.1 == m.dir && f.2.1 == m.planBell % 2 ^ 48)) } }

/-- Bit `i` of the byte at `o` of a ledger. -/
def ledgerBit (l : List Byte) (o i : Nat) : Bool := bit (leAt l o 1) i

/-- Round `r` is ready for a header (R454). At most four ledgers are held. -/
def mktReady (s : State) (m : MktShard) (r : Nat) : Bool :=
  decide ((r : Int) ≤ m.lastRound + 5) && (List.range ((r : Int) - 1 - m.lastRound).toNat).all (fun k =>
    let q := (m.lastRound + 1 + k).toNat
    match ledgerOf s q with
    | none => false
    | some l => (List.range 4).all (fun i =>
        (!ledgerBit l 9 i || contribComplete s m q i) && (!ledgerBit l 10 i || (q != 0 && contribComplete s m (q - 1) i))))

/-- Words `0` to `n − 1` of part `p` have been received. -/
def partCovered (ps : List (Nat × Nat × Nat)) (p n : Nat) : Bool :=
  let mine := ps.filter (fun e => e.1 == p)
  decide (n ≤ mine.foldl (fun reach _ =>
    mine.foldl (fun r e => if e.2.1 ≤ r then max r (e.2.1 + e.2.2) else r) reach) 0)

/-- A JOINING shard has both parts (R469). -/
def mktLoaded (s : State) (m : MktShard) : Bool :=
  let w := mktWork s m.index
  partCovered w.parts 0 (mktWords s m) && partCovered w.parts 1 (mktWords s m)

/-- One part of the half in force sent as STATE messages (R461, R469). -/
def sendPart (s : State) (m : MktShard) (i part : Nat) : State :=
  let n := mktWords s m
  let base := m.stateAddr + m.half * (4 * statePart s m) + part * statePart s m
  (List.range ((n + 16367) / 16368)).foldl (fun s k =>
    let first := 16368 * k
    let len := min 16368 (n - first)
    let s := meetMem s (base + 4 * first) (4 * len)
    let body := leBytes 8 m.applied ++ leBytes 4 m.id ++ leBytes 4 n ++ leBytes 4 first ++ leBytes 4 len ++ leBytes 1 part ++
      List.replicate 23 0 ++ readMem s.mem (base + 4 * first) (4 * len)
    let bad (j : Nat) : Bool := decide (64 ≤ j) && poisoned s (base + 4 * first + (j - 64))
    count (submitMarket s i (m.twins.getD i ⟨0, 0, 0⟩) 3 false body bad) (stlReg mktStateTx)) s

/-- The state sent to every site that has asked for it, after a commit that changed APPLIED (R469, step 3). -/
def answerRequests (s : State) (i : Nat) : State :=
  let m := mktAt s i
  let who := (mktWork s i).requests
  let s := modWork s i (fun w => { w with requests := [] })
  who.foldl (fun s j => sendPart (sendPart s m j 0) m j 1) s

/-- A plan whose flip is committed takes effect (R453, R459). -/
def commitPlan (s : State) (m : MktShard) (due : Nat) : State :=
  let m' := { m with flags := setBits m.flags 2 2 (1 - m.half) }.withPlan 0
  let s := if m.plan = 2 then
      let m' := { m' with applied := (mktWork s m.index).loadRound }.withState 0
      modWork (putMkt s m') m.index (fun w => { w with parts := [] })
    else
      let m' := { m' with applied := unsigned 64 ((due : Int) - 1), holds := 0 }
      let s := meetMem (putMkt s m') (contribSlot s m due (mktSite s.activeHalf)) 64
      let nonfinite := bit (leAt (readMem s.mem (contribSlot s m due (mktSite s.activeHalf)) 64) 22 1) 3
      let s := submitContrib s m' due
      let s := modWork s m.index (fun w => { w with due := none })
      let s := if nonfinite then mktFlag (loseShard s m') 29 else s
      reportArrived s due (mktSite s.activeHalf)
  if (mktAt s m.index).applied = m.applied then s else answerRequests s m.index

/-- What the engine decides for one header with an open round at edge `b` (R453). -/
def decideShard (s : State) (b i due : Nat) : State :=
  let m := mktAt s i
  if (m.plan = 1 ∨ m.plan = 2) ∧ flipCommitted s m m.planBell b then commitPlan s m due
  else if m.state = 1 ∧ mktLoaded s m then putMkt s ({ m with planBell := b }.withPlan 2)
  else if m.state = 0 ∧ mktReady s m due then putMkt s ({ m with planBell := b }.withPlan 1)
  else modWork (missRound s i due) i (fun w => { w with due := none })

/-- The site index that a joining shard asks for the state (R469, step 2). -/
def stateSource (s : State) : Option Nat :=
  let own := mktSite s.activeHalf
  if masterIdx s ≠ own then some (masterIdx s) else (List.range 4).find? (fun i => i != own && bit (memberSet s) i)

/-- STATE_REQ sent for a JOINING shard that is not loaded (R469). -/
def askState (s : State) (m : MktShard) : State :=
  match stateSource s with
  | some i => submitMarket s i (m.twins.getD i ⟨0, 0, 0⟩) 4 true
      (leBytes 4 m.id ++ leBytes 1 (mktSite s.activeHalf) ++ List.replicate 11 0) (fun _ => false)
  | none => s

/-- A market bell opens round `r` for a header (R453, R469). -/
def openRound (s : State) (r i : Nat) : State :=
  let s := match (mktWork s i).due with
    | some d => missRound s i d
    | none => s
  let m := mktAt s i
  let s := modWork s i (fun w => { w with due := some r })
  if m.state = 1 ∧ !mktLoaded s m then askState s m else s

/-- The headers that take part: neither LOST nor reserved. -/
def shardActs (s : State) (i : Nat) : Bool := decide ((mktAt s i).state < 2)

/-- Site bits of a member map after the ledger `prev` (R464, R467 to R469). -/
def nextMembers (s : State) : Nat :=
  let before := match newestLedger s with
    | some e => (leAt e.2 8 1 ||| leAt e.2 11 1) % 16
    | none => mktSites s
  let limit := atLeastOne (bits (mktWord s.activeHalf setMktMktCtrl) 7 0)
  bitMap 4 (fun i => bit before i && !s.market.leaveReq.contains i && decide (s.market.silent.getD i 0 < limit))

/-- Whether OWNERS modules have reported ARRIVED for a round and site (R464). -/
def allArrived (s : State) (r i : Nat) : Bool :=
  decide (bits (mktWord s.activeHalf setMktOwners) 14 0 ≤ (s.market.arrived.filter (fun e => e.1 == r && e.2.1 == i)).length)

/-- The ledger of round `r` as the master's keeper closes it (Table 15.5). -/
def makeLedger (s : State) (r : Nat) : List Byte :=
  let h := s.activeHalf
  let ctrl := mktWord h setMktMktCtrl
  let onTime := bitMap 4 (allArrived s r)
  let late := if !bit ctrl 30 ∨ r = 0 then 0
    else match ledgerOf s (r - 1) with
      | some l => bitMap 4 (fun i => !ledgerBit l 9 i && allArrived s (r - 1) i)
      | none => 0
  leBytes 8 r ++ leBytes 1 (nextMembers s) ++ leBytes 1 onTime ++ leBytes 1 late ++ leBytes 1 (bitMap 4 s.market.joinReq.contains) ++
  leBytes 1 (bits ctrl 29 28) ++ [0, 0, 0] ++ leBytes 4 (mktWord h setMktEta) ++ leBytes 4 (mktWord h setMktMu) ++
  leBytes 4 (mktWord h setMktWStale) ++ List.replicate 36 0

/-- The lowest APPLIED of this module's headers. -/
def lowestApplied (s : State) : Option Int :=
  (List.range (mktCount s)).foldl (fun a i =>
    match a with
    | some v => some (min v (mktAt s i).lastRound)
    | none => some (mktAt s i).lastRound) none

/-- A ledger that leaves this site out and does not list it as joining makes every shard LOST (R468, R469). -/
def leaveMarket (s : State) : State :=
  let s := (List.range (mktCount s)).foldl (fun s i => loseShard s (mktAt s i)) s
  setFlag (mktFlag s 28) (stlReg mktMktStatus) 29 true

/-- The ledgers that each site has missed in a row, after one more, whichever keeper closed it (R467). -/
def countSilent (silent : List Nat) (l : List Byte) : List Nat :=
  silent.zipIdx.map (fun e => if !ledgerBit l 8 e.2 || ledgerBit l 9 e.2 || ledgerBit l 10 e.2 then 0 else e.1 + 1)

/-- A ledger received: kept where it is the first of its round (R465, R468); `bad` are its poisoned bytes, whose marks have origin `o` (R362). -/
def takeLedger (s : State) (l : List Byte) (bad : Nat → Bool) (o : MarkOrigin) : State :=
  let r := leAt l 0 8
  let stale := match lowestApplied s with
    | some a => decide ((r : Int) ≤ a)
    | none => false
  if stale then s
  else
    match ledgerOf s r with
    | some old =>
      if old == l then s
      else submitEvent (mktFlag (count s (stlReg mktLedgerConflict)) 27) 0x4002 0 0 (leBytes 8 r)
    | none =>
      let s := { s with market := { s.market with
        ledgers := s.market.ledgers.filter (fun e => e.1 % 4 != r % 4) ++ [(r, l)], silent := countSilent s.market.silent l } }
      let s := storeMarked s ((List.range 8).map (fun j =>
        (rd64 s (stlReg mktLedgerBaseLo) + 64 * (r % 4) + 8 * j, slice l (8 * j) 8, bad (8 * j)))) o
      let s := wr64 s (stlReg mktLedgerRoundLo) (((newestLedger s).map (·.1)).getD 0)
      let i := mktSite s.activeHalf
      if mktOn s.activeHalf && !ledgerBit l 8 i && !ledgerBit l 11 i then leaveMarket s else s

/-- Every other module of the torus. -/
def otherModules (s : State) : List Coord :=
  (List.range (torusSize s 2)).flatMap (fun z => (List.range (torusSize s 1)).flatMap (fun y =>
    (List.range (torusSize s 0)).filterMap (fun x => if (⟨x, y, z⟩ : Coord) = ownXyz s then none else some ⟨x, y, z⟩)))

/-- Bytes of a LEDGER packet before the ledger (Table 15.6). -/
def ledgerHead : Nat := 8

/-- POISON of a LEDGER packet: the granules with a poisoned byte of the ledger (R362). -/
def ledgerPoison (bad : Nat → Bool) : Nat :=
  bitMap 3 (fun g => (List.range 64).any (fun j => (j + ledgerHead) / 32 == g && bad j))

/-- A LEDGER packet to every other module of the site (R465). -/
def spreadLedger (s : State) (l : List Byte) (bad : Nat → Bool) : State :=
  (otherModules s).foldl (fun s c =>
    launch s none { message s 0x33 c 0 ([1] ++ List.replicate 7 0 ++ l) with poison := ledgerPoison bad }) s

/-- The master's keeper closes the ledger of round `r` (R464, R465). -/
def closeLedger (s : State) (r : Nat) : State :=
  let l := makeLedger s r
  let s := count s (stlReg mktLedgersClosed)
  let members := leAt l 8 1
  let s := { s with market := { s.market with
    joinReq := []
    leaveReq := []
    arrived := s.market.arrived.filter (fun e => decide (r ≤ e.1)) } }
  let s := takeLedger s l (fun _ => false) (.other 0)
  let s := spreadLedger s l (fun _ => false)
  ((List.range 4).filter (fun i => i != mktSite s.activeHalf && bit (members ||| leAt l 11 1) i)).foldl (fun s i =>
    submitMarket s i (coordOf (keeperWord s i)) 2 true l (fun _ => false)) s

/-- The bell in which the ledger of a round that begins at edge `b` is to be closed, under the policy then in force (R448, R464). -/
def noteClose (s : State) (b r : Nat) : State :=
  let h := s.activeHalf
  let close := min (bits (mktWord h setMktClose) 15 0) (mktH h - 1)
  { s with market := { s.market with closing := s.market.closing ++ [(b + close, r)] } }

/-- The ledgers due at edge `b` are closed by the keeper of the master's site (R464). -/
def closeDue (s : State) (b : Nat) : State :=
  let due := s.market.closing.filter (fun e => e.1 == b)
  let s := { s with market := { s.market with closing := s.market.closing.filter (fun e => decide (b < e.1)) } }
  if isKeeper s && isMasterSite s then due.foldl (fun s e => closeLedger s e.2) s else s

/-- Edge `b` of the market engine (R453, R455, R464). -/
def marketEdge (s : State) (b : Nat) : State :=
  let h := s.activeHalf
  let s := pruneFlips s
  if !mktOn h then s
  else
    let s := reportHeld (meetHeaders s)
    let ids := List.range (mktCount s)
    let s := ids.foldl (fun s i => if (mktAt s i).state = 1 then s else modWork s i (fun w => { w with parts := [] })) s
    let s := if ids.any (fun i => (mktAt s i).state == 1) then setFlag s (stlReg mktMktStatus) 29 false else s
    let r := mktWord h setMktRound0Lo + 2 ^ 32 * mktWord h setMktRound0Hi + (b - mktBase h) / mktH h
    let s := if isMarketBell h b then noteClose s b r else s
    let s := if isMarketBell h b then ids.foldl (fun s i => if shardActs s i then openRound s r i else s) s else s
    let s := ids.foldl (fun s i =>
      if !shardActs s i || bellUnfinished s (mktAt s i).planBell then s
      else match (mktWork s i).due with
        | some d => decideShard s b i d
        | none => s) s
    let sig := rd s (stlReg mktMktSig)
    let s := signalIf s (bit sig 31) (bits sig 13 8) (bits sig 5 0)
    closeDue s b

/-- MKT_STATUS.LEFT as it reads: no longer once a header is set JOINING (R468, Table 15.9). -/
def leftShown (s : State) : Bool :=
  flag s (stlReg mktMktStatus) 29 && !(List.range (mktCount s)).any (fun i => (mktAt s i).state == 1)

/-! ### Messages received (R463, R465, R469, R475) -/

/-- A record of the receive ring: the message's device address and its bytes. -/
abbrev RingRecord := Nat × List Byte

/-- The receive ring's next record of a class, taken from it: PAD records and classes that no market message has are passed over (R475). -/
def nextRecord (v : HostView) (cls : Nat) : Nat → State → Option RingRecord × State
  | 0, s => (none, s)
  | fuel + 1, s =>
    let n := 1024 * rd s (stlReg stlRxRingSize)
    let r := rd s (stlReg stlRxRptr)
    if n = 0 ∨ r = rd s (stlReg stlRxWptr) then (none, s)
    else
      let a := rd64 s (stlReg stlRxRingLo) + 64 * r
      let s := meetRead s v a 64
      let head := (devRead s v a 64).bytes
      let len := leAt head 12 4
      let past := wr s (stlReg stlRxRptr) ((r + 1 + (len + 63) / 64) % n)
      let c := leAt head 9 1
      if c = cls then
        let past := meetRead past v (a + 64) len
        (some (a + 64, (devRead past v (a + 64) len).bytes), past)
      else if c = 0 ∨ 4 < c then nextRecord v cls fuel past
      else (none, s)

/-- The header of this module with a MKT_ID. -/
def mktById (s : State) (id : Nat) : Option MktShard :=
  ((List.range (mktCount s)).find? (fun i => (mktAt s i).id == id)).map (mktAt s)

/-- A CONTRIB or STATE message discarded. -/
def contribStale (s : State) : State := count s (stlReg mktContribStale)

/-- A contribution slot emptied for a new round (R463). -/
def clearSlot (s : State) (m : MktShard) (r site : Nat) : State :=
  let a := contribSlot s m r site
  devWrite s a (List.replicate (contribSlot s m r (site + 1) - a) 0) false

/-- One block record of a CONTRIB message, `bad` where it comes from a poisoned block (R173, R463). -/
def takeBlock (s : State) (m : MktShard) (r site ksel g : Nat) (rec : List Byte) (bad : Bool) : State :=
  let mine (p : Present) : Bool := p.header == m.index && p.round == r && p.site == site
  if s.market.present.any (fun p => mine p && p.blocks.contains g) then count s (stlReg mktDupContrib)
  else
    let s := devWrite s (contribSlot s m r site + 64 + g * recordSize ksel) rec bad
    { s with market := { s.market with present := modWhere s.market.present mine (fun p => { p with blocks := p.blocks ++ [g] }) } }

/-- An accepted CONTRIB message, its body at `at_` (R463). -/
def acceptContrib (s : State) (v : HostView) (m : MktShard) (r site at_ : Nat) (body : List Byte) : State :=
  let s := count s (stlReg mktContribRx)
  let slot (p : Present) : Bool := p.header == m.index && p.site == site && p.round % 4 == r % 4
  let s := if s.market.present.any (fun p => slot p && p.round == r) then s
    else
      let s := clearSlot s m r site
      { s with market := { s.market with
        present := s.market.present.filter (fun p => !slot p) ++ [⟨m.index, r, site, [], false⟩] } }
  let flags := leAt body 22 1
  let s := devWrite s (contribSlot s m r site) (padTo 64 (body.take 48)) (devBad s v at_ 48)
  let s := if bit flags 2 then
      { s with market := { s.market with present := modWhere s.market.present (fun p => slot p) (fun p => { p with held := true }) } }
    else
      let size := recordSize (flags % 4)
      let first := leAt body 16 4
      (List.range (leAt body 20 2)).foldl (fun s k =>
        if first + k < mktBlocks s m then takeBlock s m r site (flags % 4) (first + k) (slice body (48 + k * size) size)
          (devBad s v (at_ + 48 + k * size) size) else s) s
  reportArrived s r site

/-- CONTRIB (R463). -/
def contribEffect (s : State) (v : HostView) : State :=
  match nextRecord v 1 4096 (meetHeaders s) with
  | (none, s) => s
  | (some msg, s) =>
    let body := msg.2.drop 16
    let r := leAt body 0 8
    let site := leAt body 23 1
    match mktById s (leAt body 8 4) with
    | none => contribStale s
    | some m =>
      if m.lastRound ≤ r ∧ r ≤ m.lastRound + 3 ∧ leAt body 12 4 = mktWords s m ∧ site < 4 ∧ bit (sendSet s) site then
        acceptContrib s v m r site (msg.1 + 16) body
      else contribStale s

/-- A reserved MARKET_CTL packet discarded (Table 15.6). -/
def badMarketCtl (s : State) (p : Packet) : State := logError s 0x10 0 (coordBits p.src)

/-- LEDGER: a packet from the site's keeper, else a message from the master's keeper, forwarded within the site (R465). -/
def ledgerEffect (s : State) (v : HostView) : State :=
  match nextOf s 0x33 (fun p => leAt p.data 0 1 != 2) with
  | some i =>
    let s := consume s i
    if leAt i.pkt.data 0 1 = 1 then
      takeLedger s (padTo 64 (i.pkt.data.drop ledgerHead)) (fun j => badByte i.pkt (j + ledgerHead)) (packetOrigin i)
    else badMarketCtl s i.pkt
  | none =>
    if !mktOn s.activeHalf then s
    else
      match nextRecord v 2 4096 s with
      | (none, s) => s
      | (some msg, s) =>
        let l := padTo 64 (msg.2.drop 16)
        let a := msg.1 + 16
        let bad (j : Nat) : Bool := devBad s v (a + j) 1
        let t := takeLedger s l bad ((originOfBlocks s (blocksOf a 64)).getD (.other 0))
        if isKeeper t then poisonSent (spreadLedger t l bad) (marksIn s a 64) else t

/-- ARRIVED: recorded by the master's keeper (R464). -/
def arrivedEffect (s : State) : State :=
  match nextOf s 0x33 (fun p => leAt p.data 0 1 == 2) with
  | none => s
  | some i =>
    let s := consume s i
    let e := (leAt i.pkt.data 8 8, leAt i.pkt.data 1 1, i.pkt.src)
    if isKeeper s && isMasterSite s && !s.market.arrived.contains e then
      { s with market := { s.market with arrived := s.market.arrived ++ [e] } }
    else s

/-- STATE_REQ: remembered until the next committed merge of the shard (R469). -/
def stateReqEffect (s : State) (v : HostView) : State :=
  match nextRecord v 4 4096 (meetHeaders s) with
  | (none, s) => s
  | (some msg, s) =>
    let body := msg.2.drop 16
    let site := leAt body 4 1
    match mktById s (leAt body 0 4) with
    | some m => if site < 4 then modWork s m.index (fun w => { w with requests := setIns w.requests site }) else s
    | none => s

/-- STATE: words of C or U written into the half not in force of a JOINING shard (R469). -/
def stateEffect (s : State) (v : HostView) : State :=
  match nextRecord v 3 4096 (meetHeaders s) with
  | (none, s) => s
  | (some msg, s) =>
    let body := msg.2.drop 16
    let a := leAt body 0 8
    let first := leAt body 16 4
    let n := leAt body 20 4
    let part := leAt body 24 1
    match mktById s (leAt body 8 4) with
    | none => contribStale s
    | some m =>
      let w := mktWork s m.index
      if m.state = 1 ∧ leAt body 12 4 = mktWords s m ∧ part < 2 ∧ first + n ≤ mktWords s m ∧
          (w.parts = [] ∨ signed 64 w.loadRound ≤ signed 64 a) then
        let s := count s (stlReg mktStateRx)
        let s := modWork s m.index (fun w => { w with
          loadRound := a, parts := (if w.loadRound = a then w.parts else []) ++ [(part, first, n)] })
        devWrite s (m.stateAddr + (1 - m.half) * (4 * statePart s m) + part * statePart s m + 4 * first)
          (padTo (4 * n) (body.drop 48)) (devBad s v (msg.1 + 64) (4 * n))
      else contribStale s

/-- A write of MKT_CMD (R468, R469, R475). -/
def mktCommand (s : State) (src op site : Nat) : State :=
  let keep := !(isKeeper s && isMasterSite s)
  let s := if keep then logError s 0x04 src (stlReg mktMktCmd) else wr s (stlReg mktMktCmd) (site % 4)
  if keep then s
  else if op = 1 then { s with market := { s.market with joinReq := setIns s.market.joinReq site } }
  else if op = 2 then { s with market := { s.market with leaveReq := setIns s.market.leaveReq site } }
  else s

/-- An event of the market engine while the package runs and, for records of the receive ring, while markets are on. -/
def mktEvent_ (s : State) (ring : Bool) (t : State) : Host.Outcome State Fault Refusal :=
  .next (if live s && (!ring || mktOn s.activeHalf) then t else s)

/-- CONTRIB (R463). -/
def execContrib (s : State) (host : HostView := {}) : Host.Outcome State Fault Refusal := mktEvent_ s true (contribEffect s host)

/-- LEDGER (R465). -/
def execLedger (s : State) (host : HostView := {}) : Host.Outcome State Fault Refusal := mktEvent_ s false (ledgerEffect s host)

/-- ARRIVED (R464). -/
def execArrived (s : State) : Host.Outcome State Fault Refusal := mktEvent_ s false (arrivedEffect s)

/-- STATE_REQ (R469). -/
def execStateReq (s : State) (host : HostView := {}) : Host.Outcome State Fault Refusal := mktEvent_ s true (stateReqEffect s host)

/-- STATE (R469). -/
def execStateMsg (s : State) (host : HostView := {}) : Host.Outcome State Fault Refusal := mktEvent_ s true (stateEffect s host)

end Sys2Proof.Machine
end

