-- ==== Sys2Proof/Machine/Pool.lean ====
section
/-! DEFINITION. The stash pool: the records of a bell, which are bad, and what happens when the descriptor at a record's PUT or GET index comes to
start (R307 to R318). -/

namespace Sys2Proof.Machine

/-! ### Records (R307, R308) -/

/-- A record from its 32 bytes, not yet judged (Table 10.3). -/
def PoolRec.ofBytes (b : List Byte) : PoolRec where
  kind := leAt b 0 1 % 4
  altCount := leAt b 1 1
  layer := leAt b 2 2
  mb := leAt b 4 2
  put := leAt b 6 2
  get := leAt b 8 2
  size := leAt b 12 4
  base := leAt b 16 8
  altAddr := leAt b 24 8
  bad := leAt b 0 1 / 4 != 0 || leAt b 10 2 != 0
  state := .waiting
  waited := false

/-- The range lies wholly within one enabled region of type 0x3. -/
def inPoolRegion (s : State) (a len : Nat) : Bool :=
  (List.range 16).any (fun i =>
    flag s (regionReg i regionCtrl) 31 && fld s (regionReg i regionCtrl) 3 0 == 3 &&
    decide (rd64 s (regionReg i regionBaseLo) ≤ a) &&
    decide (a + len ≤ rd64 s (regionReg i regionBaseLo) + rd64 s (regionReg i regionSizeLo)))

/-- Record `r` is bad after the records `before` it (R308); `e` is the stage's entry. -/
def poolBad (s : State) (h : Half) (e : Stage) (before : List PoolRec) (r : PoolRec) : Bool :=
  let first := bits e.raw 511 496
  let last := first + bits e.raw 495 489
  let cs := bits (setting h setStepCount) 26 16
  let isFirst := !before.any (fun q => q.kind == 0 && q.mb == r.mb)
  r.bad || r.kind == 3 || !inPoolRegion s r.base r.size ||
  decide (r.get ≤ r.put) || decide (bits (setting h setStepCount) 10 0 ≤ r.get) ||
  (cs != 0 && (decide (cs ≤ r.put) || decide (cs ≤ r.get))) ||
  before.any (fun q => q.put == r.put || q.get == r.get) ||
  decide (r.layer < first) || decide (last < r.layer) ||
  (r.kind == 0 && !bit e.raw (128 + (r.layer - first))) ||
  (r.altCount == 0 && (r.kind != 0 || !isFirst)) ||
  (r.kind != 1 && decide (bits (setting h setMbCount) 10 0 ≤ r.mb))

/-- The errors that reading the pool table for bell `n` meets. -/
def strikePool (s : State) (n : Nat) : State :=
  match ownPlaceAt s n with
  | none => s
  | some p => meetMem s p.entry.table (32 * p.entry.recs)

/-- The pool records of the module's stage, read under the settings of bell `n` (R307, R308). -/
def readPool (s : State) (n : Nat) : List PoolRec :=
  let h := settingsOf s n
  match (ownPlaceIn h).map (·.entry) with
  | none => []
  | some e =>
    (List.range e.recs).foldl (fun acc i =>
      let r := PoolRec.ofBytes (readMem s.mem (e.table + 32 * i) 32)
      acc ++ [{ r with bad := poolBad s h e acc r }]) []

/-! ### Tests (R310) -/

/-- Two ranges share a byte. -/
def recOverlap (x y : PoolRec) : Bool := decide (x.base < y.base + y.size) && decide (y.base < x.base + x.size)

/-- Every record of every bell, the witness's included. -/
def allRecords (s : State) : List PoolRec := s.replays.flatMap (·.records) ++ ((s.witness.map (·.records)).getD [])

/-- A LIVE STASH or DEFER record of some bell overlaps `r` (R310, item 4). -/
def poolBlocked (s : State) (r : PoolRec) : Bool :=
  (allRecords s).any (fun q => q.state == .live && q.kind != 1 && recOverlap q r)

/-- Every LIVE RETAIN record that `r` overlaps becomes EVICTED (R310, item 5). -/
def evictFor (s : State) (r : PoolRec) : State :=
  let hit (q : PoolRec) : Bool := q.state == .live && q.kind == 1 && recOverlap q r
  let n := ((allRecords s).filter hit).length
  let ev (p : Replay) : Replay := { p with records := modWhere p.records hit (fun q => { q with state := .evicted }) }
  countBy { s with replays := s.replays.map ev, witness := s.witness.map ev } (glbReg glbPoolEvict) n

/-- Where a replay stands: the step program's of a bell, or the witness's. -/
inductive Where where
  | step (n : Nat)
  | witness
  deriving DecidableEq, Repr

/-- The replay of a place. -/
def replayAt (s : State) : Where → Option Replay
  | .step n => replayOf s n
  | .witness => s.witness

/-- The replay of a place changed. -/
def modAtWhere (s : State) (w : Where) (f : Replay → Replay) : State :=
  match w with
  | .step n => modReplay s n f
  | .witness => { s with witness := s.witness.map f }

/-- The source of a place's descriptors. -/
def Where.key (w : Where) (p : Replay) (i : Nat) : DescKey :=
  match w with
  | .step n => { src := .step, bell := n, index := i }
  | .witness => { src := .replay, bell := p.bell, index := i }

/-- Record `i` of a replay set to a state. -/
def setRecord (s : State) (w : Where) (i : Nat) (f : PoolRec → PoolRec) : State :=
  modAtWhere s w (fun p => { p with records := modAt p.records i f })

/-- Record `i` admitted (R310, item 5). -/
def admitRec (s : State) (w : Where) (i : Nat) (r : PoolRec) : State :=
  setRecord (count (evictFor s r) (glbReg glbPoolAdmit)) w i (fun r => { r with state := .live })

/-- The lowest layer of the report's 0x0005 events (R317). -/
def noteStash (s : State) (n layer mb : Nat) : State :=
  let s := modReport s n (fun r => { r with stashLayer := min r.stashLayer layer })
  reportEvent s n 5 0 layer mb

/-- Record `i` refused (R310, R317). -/
def refuse (s : State) (w : Where) (i : Nat) (r : PoolRec) : State :=
  let again := match replayAt s w with
    | some p => p.records.any (fun q => q.kind == 0 && q.mb == r.mb && q.state == .refused && !q.bad)
    | none => false
  let s := setRecord (count s (glbReg glbPoolRefuse)) w i (fun r => { r with state := .refused })
  match w with
  | .step n => if r.kind = 0 ∧ !again then noteStash s n r.layer r.mb else s
  | .witness => s

/-- What comes of a descriptor at a record's index. -/
inductive PoolAct where
  /-- It starts; the records it fills or releases. -/
  | start (tags : List (Nat × Bool))
  /-- It is not started and counts as ended OK (R312). -/
  | nothing
  /-- It waits (R310, item 4). -/
  | hold
  /-- These descriptors run in its place (R312). -/
  | instead (ds : List (List Byte))
  deriving DecidableEq, Repr

/-- A descriptor's 64 bytes at a device address; none where they cannot be read (R242). -/
def readDesc (s : State) (v : HostView) (a : Nat) : Option (List Byte) :=
  let g := devRead s v a 64
  if devFails s v a 64 || g.bad then none else some g.bytes

/-- The descriptors of a record's ALT list, empty where one cannot be read. One that is neither RUN nor DMA is invalid (Table 10.3), and is
given version 0 here. -/
def altList (s : State) (v : HostView) (r : PoolRec) : List (List Byte) :=
  (List.range r.altCount).map (fun j =>
    match readDesc s v (r.altAddr + 64 * j) with
    | none => []
    | some b => if byteAt b 1 = 1 ∨ byteAt b 1 = 2 then b else 0 :: b.drop 1)

/-- Some descriptors and then the ALT lists of some records run in a descriptor's place, and the errors that reading the lists meets. -/
def runAlts (s : State) (v : HostView) (first : List (List Byte)) (rs : List PoolRec) : PoolAct × State :=
  let s := rs.foldl (fun s r => meetRead s v r.altAddr (64 * r.altCount)) s
  (.instead (first ++ rs.flatMap (altList s v)), s)

/-- The bubble policy of the module's stage in bell `n` is SPLIT_BACKWARD (R319). -/
def splitBackward (s : State) (n : Nat) : Bool :=
  match ownPlaceAt s n with
  | some p => p.entry.policy == 2
  | none => false

/-- The first STASH record of its micro-batch (R309). -/
def isFirstStash (p : Replay) (i : Nat) (r : PoolRec) : Bool :=
  r.kind == 0 && !(p.records.take i).any (fun q => q.kind == 0 && q.mb == r.mb)

/-- The layer from which a witness refuses its STASH records of a micro-batch, and that micro-batch (R318). -/
def witnessLimit (s : State) : Option (Nat × Nat) :=
  s.integrity.replaying.map (fun b => (leAt b 26 2, leAt b 20 2))

/-- What runs for a refused record in place of its PUT descriptor: a DEFER record's ALT list, nothing for a STASH record (R310). -/
def inPlaceOfPut (s : State) (v : HostView) (r : PoolRec) : PoolAct × State := if r.kind = 2 then runAlts s v [] [r] else (.nothing, s)

/-- The descriptor at record `i`'s PUT index comes to start (R310, R318). -/
def poolPut (s : State) (w : Where) (v : HostView) (p : Replay) (i : Nat) (r : PoolRec) : PoolAct × State :=
  if r.state != .waiting then (if r.state = .refused then inPlaceOfPut s v r else (.start [], s))
  else if r.kind = 1 then (.start [(i, true)], s)
  else if r.kind = 2 ∧ !splitBackward s p.bell then inPlaceOfPut (refuse s w i r) v r
  else
    let limit : Option (Nat × Nat) := match w with
      | .witness => (witnessLimit s).filter (fun l => r.kind == 0 && l.2 == r.mb)
      | .step _ => none
    match limit with
    | some l => if l.1 ≤ r.layer then (.nothing, refuse s w i r) else (.start [], admitRec s w i r)
    | none =>
      if r.kind = 0 ∧ p.records.any (fun q => q.kind == 0 && q.mb == r.mb && q.state == .refused) then (.nothing, refuse s w i r)
      else if poolBlocked s r then
        if isFirstStash p i r then
          (.hold, if r.waited then s else
            setRecord (count s (glbReg glbPoolWait)) w i (fun r => { r with waited := true }))
        else inPlaceOfPut (refuse s w i r) v r
      else (.start [], admitRec s w i r)

/-- The 64 bytes of the program's descriptor at index `i`, empty where it cannot be read (R242). -/
def programBytes (s : State) (v : HostView) (p : Replay) (i : Nat) : List Byte := (readDesc s v (p.base + 64 * i)).getD []

/-- The descriptor at record `i`'s GET index comes to start (R311). -/
def poolGet (s : State) (v : HostView) (p : Replay) (i : Nat) (r : PoolRec) : PoolAct × State :=
  match r.state with
  | .live => (.start [(i, false)], s)
  | .evicted => if r.kind = 1 then runAlts s v [] [r] else (.start [], s)
  | .refused =>
    if r.kind = 2 then (.nothing, s)
    else if r.kind = 0 then
      let mine := (p.records.zipIdx).filter (fun e => e.1.kind == 0 && e.1.mb == r.mb && !e.1.bad)
      let q := findLast mine (fun e => e.1.state == .live)
      let from_ := (q.map (·.2 + 1)).getD 0
      runAlts s v (match q with | some e => [programBytes s v p e.1.get] | none => [])
        ((mine.filter (fun e => decide (from_ ≤ e.2) && decide (e.2 ≤ i))).map (·.1))
    else (.start [], s)
  | _ => (.start [], s)

/-- What comes of the descriptor at index `k` of a replay: the record it fills decides first, then the one it consumes. -/
def poolAct (s : State) (w : Where) (v : HostView) (p : Replay) (k : Nat) : PoolAct × State :=
  if p.catchup then (.start [], s)
  else
    let recs := p.records.zipIdx
    let (a, s) := match recs.find? (fun e => !e.1.bad && e.1.put == k) with
      | some e => poolPut s w v p e.2 e.1
      | none => (.start [], s)
    match a with
    | .start tags =>
      match recs.find? (fun e => !e.1.bad && e.1.get == k) with
      | some e =>
        match poolGet s v p e.2 e.1 with
        | (.start more, s) => (.start (tags ++ more), s)
        | x => x
      | none => (.start tags, s)
    | x => (x, s)

/-! ### Edges (R315) -/

/-- Every record of an earlier bell whose step work has ended becomes RELEASED. -/
def releasePools (s : State) : State :=
  { s with replays := modWhere s.replays (stepDone s) (fun p =>
      { p with records := p.records.map (fun r => { r with state := .released }) }) }

/-- POOL_LIVE.COUNT (Table 10.5). -/
def poolLive (s : State) : Nat := ((allRecords s).filter (fun r => r.state == .live)).length

/-! ### The command -/

/-- A first STASH record of a replay waits with its PUT descriptor next to start, and no live overlap remains (R310, R246). -/
def mayAdmit (s : State) (p : Replay) (r : PoolRec) : Bool :=
  r.waited && r.state == .waiting && r.put == p.next && !p.allStarted && !poolBlocked s r

/-- A waiting first STASH record is admitted once no live overlap remains (R310). -/
def waitAdmit (s : State) (w : Where) : State :=
  match replayAt s w with
  | none => s
  | some p =>
    match p.records.zipIdx.find? (fun e => mayAdmit s p e.1) with
    | some e => admitRec s w e.2 e.1
    | none => s

/-- The step ring runs, so that its descriptors may start. -/
def stepRuns (s : State) : Bool := match stepRing s with | some r => stateOfRing s r == 1 | none => false

/-- POOL_WAIT_ADMIT (R310): the oldest bell whose record waits, else the witness's. -/
def execPoolWaitAdmit (s : State) : Host.Outcome State Fault Refusal :=
  .next (if live s then
    match s.replays.find? (fun p => stepRuns s && p.records.any (mayAdmit s p)) with
    | some p => waitAdmit s (.step p.bell)
    | none => waitAdmit s .witness
  else s)

end Sys2Proof.Machine
end

