-- ==== Sys2Proof/Machine/Rings.lean ====
section
/-! DEFINITION. The queue engine: doorbells, ring control, the start of descriptors from rings and replays, their operations, the parts of a RUN,
completions and interrupts (R218 to R257, R285 to R287, R310 to R312, R410). -/

namespace Sys2Proof.Machine

/-! ### Descriptors (R225, R226, Tables 8.3, 8.5, 8.6) -/

/-- Every byte of the range of a descriptor is 0. -/
def zeroBytes (b : List Byte) (off len : Nat) : Bool := (slice b off len).all (· == 0)

/-- The stream word of a unit in a RUN. -/
def streamWord (b : List Byte) : CoreUnit → Nat
  | .mx => leAt b 16 4
  | .vx => leAt b 20 4
  | .rx => leAt b 24 4
  | .mv => leAt b 28 4

/-- The four units in the order of a stream mask. -/
def units : List CoreUnit := [.mx, .vx, .rx, .mv]

/-- Instructions that a unit's memory holds. -/
def imemCount (u : CoreUnit) : Nat := 65536 / instrBytes u

/-- START and COUNT of a unit in a RUN. -/
def runStart (b : List Byte) (u : CoreUnit) : Nat := bits (streamWord b u) 11 0
/-- COUNT, 0 for a stream left untouched. -/
def runCount (b : List Byte) (u : CoreUnit) : Nat := bits (streamWord b u) 24 12

/-- The cores a descriptor's CORE_MASK names. -/
def coreMask (b : List Byte) : List Nat := (List.range 64).filter (fun c => bit (leAt b 8 8) c)

/-- The operands keep the rules of Table 8.6, and no RSVD bit is set (R226). -/
def operandsOk (s : State) (b : List Byte) : Bool :=
  match leAt b 1 1 with
  | 0 => zeroBytes b 8 56
  | 1 => zeroBytes b 36 4 && zeroBytes b 48 16 &&
      units.all (fun u => streamWord b u / 2 ^ 25 == 0 && decide (runStart b u + runCount b u ≤ imemCount u)) &&
      leAt b 40 8 % 64 == 0 && leAt b 8 8 != 0 && units.any (fun u => runCount b u != 0)
  | 2 => leAt b 8 1 / 32 == 0 && zeroBytes b 9 7 && zeroBytes b 24 40 && leAt b 16 8 % 64 == 0 && chanOwner s (leAt b 8 1 % 32)
  | 3 => leAt b 16 1 / 16 == 0 && zeroBytes b 18 46 && decide (leAt b 17 1 ≤ 2)
  | 4 => zeroBytes b 16 48
  | 5 => leAt b 8 1 / 64 == 0 && leAt b 9 1 / 64 == 0 && zeroBytes b 10 54
  | _ => false

/-- The operations allowed in a queue: by class (Table 8.3), or in a replayed program (R245). -/
def opsAllowed (s : State) : DescSource → List Nat
  | .ring r => match ringClass s r with
    | 0 => [0, 3, 4, 5]
    | 1 => [0, 1, 2, 4, 5]
    | 2 => [0, 1, 4, 5]
    | _ => [0, 2, 4]
  | _ => [0, 1, 2, 5]

/-- The descriptor is valid (R226). -/
def descValid (s : State) (src : DescSource) (b : List Byte) : Bool :=
  leAt b 0 1 == 1 && (opsAllowed s src).contains (leAt b 1 1) && leAt b 2 1 / 4 == 0 && leAt b 3 1 == 0 && operandsOk s b

/-- FENCE. -/
def descFence (b : List Byte) : Bool := bit (leAt b 2 1) 0

/-- The slot in which a queue's RUNs start their programs (Table 8.3, R228, R517). -/
def slotFor (s : State) : DescSource → Slot
  | .ring r => if ringClass s r = 1 then .step else .side
  | .step => .step
  | .replay => .side

/-- Every stream that a RUN names is free in its class (R228). -/
def streamsFree (s : State) (sl : Slot) (b : List Byte) : Bool :=
  (coreMask b).all (fun c => units.all (fun u => runCount b u == 0 || (progOf s c u sl).isNone))

/-- A descriptor that starts, as it enters its queue, with the next serial number. -/
def newDesc (s : State) (b : List Byte) (index : Nat) (pool : List (Nat × Bool)) : Desc :=
  { index := index, bytes := b, op := leAt b 1 1, tag := leAt b 4 4, irq := bit (leAt b 2 1) 1, progress := .started, status := 0,
    detail := 0, partMap := 0, parts := [], bell := bellNum s, startedAt := s.now, pool := pool, serial := s.started }

/-- A descriptor put into the queue of `k`, under the next serial number. -/
def enterDesc (s : State) (k : DescKey) (b : List Byte) (pool : List (Nat × Bool)) : State :=
  { modInflight s k (· ++ [newDesc s b k.index pool]) with started := s.started + 1 }

/-- A descriptor enters its queue; one that could not be read (`none`) or is invalid ends at once (R226, R242). -/
def beginDesc (s : State) (k : DescKey) (b : Option (List Byte)) (pool : List (Nat × Bool)) : State :=
  let own := { k with serial := s.started }
  match b with
  | none => endDesc (enterDesc s k [] pool) own 3 0 0
  | some b =>
    let t := enterDesc s k b pool
    if descValid s k.src b then t else endDesc t own 0x0E 0 0

/-- A valid RUN whose streams are not all free cannot start (R228). -/
def runBlocked (s : State) (src : DescSource) (b : List Byte) : Bool :=
  descValid s src b && leAt b 1 1 == 1 && !streamsFree s (slotFor s src) b

/-! ### STREAM_CTL halts that are under way (R287) -/

/-- Issued instructions of a unit of core `c` have not all completed. -/
def unitBusy (s : State) (c : Nat) (u : CoreUnit) : Bool :=
  let k := coreAt s c
  match u with
  | .mx => k.loading.isSome || k.pass.isSome || !k.drain.isEmpty
  | .vx => !k.vxOps.isEmpty
  | .rx => !k.rxOps.isEmpty
  | .mv => !k.mvOps.isEmpty

/-- The streams that a STREAM_CTL names. -/
def ctlStreams (b : List Byte) : List (Nat × CoreUnit) :=
  (coreMask b).flatMap (fun c => (units.zipIdx.filter (fun e => bit (leAt b 16 1) e.2)).map (fun e => (c, e.1)))

/-- Halts whose last issued instruction has completed end (R287). -/
def settleHalts (s : State) (r : Nat) : State :=
  ((ringAt s r).inflight.filter (fun d => d.op == 3 && d.progress == .running &&
      (ctlStreams d.bytes).all (fun e => !unitBusy s e.1 e.2))).foldl
    (fun s d => endDesc s (d.key (.ring r) 0) 0 0 0) s

/-! ### Starting descriptors (R224, R234, R237, R242) -/

/-- A completion slot is free: one slot is kept so that equal pointers mean that every slot is released (R234, log entry 30). -/
def cqFree (s : State) (r : Nat) : Bool := (cqTail s r + 1) % ringSlots s r != cqHead s r

/-- A wait for a completion slot, counted once (R234). -/
def cqStall (s : State) (r : Nat) : State :=
  if (ringAt s r).stalled then s
  else modRing (count s (ringReg r ringCqStall)) r (fun q => { q with stalled := true })

/-- A replay of the witness is running (R517). -/
def witnessRuns (s : State) : Bool := match s.witness with | some p => !p.finished | none => false

/-- A started descriptor has not begun its operation. One that waits for its DMA channel has started and holds nothing back (R231, R237). -/
def Desc.fresh (d : Desc) : Bool := d.progress == .started && d.op != 2

/-- The descriptors in flight on ring `r` and, on the step ring, those replayed as if posted on it (R245). -/
def inflightOn (s : State) (r : Nat) : List Desc :=
  (ringAt s r).inflight ++ (if ringClass s r = 1 then s.replays.flatMap (·.inflight) else [])

/-- Some descriptor that a FENCE waits for has not completed (Table 8.5). -/
def fenceBusy (s : State) (r : Nat) : Bool := (inflightOn s r).any (fun d => d.progress != .ended)

/-- Replayed descriptors that stand before what is posted next on the step ring have not started (R228, R237, R245). -/
def replaysAhead (s : State) (r : Nat) : Bool := ringClass s r == 1 && s.replays.any (fun p => !p.allStarted && p.ahead == 0)

/-- A descriptor posted on the step ring has started: each replay has one fewer before it. -/
def passPosted (s : State) (r : Nat) : State :=
  if ringClass s r = 1 then { s with replays := s.replays.map (fun p => { p with ahead := p.ahead - 1 }) } else s

/-- The next descriptor of ring `r` starts where order, FENCE, completion slots and streams allow (R237). -/
def startRing (s : State) (r : Nat) (v : HostView) : State :=
  let s := settleHalts s r
  if !ringEnabled s r || stateOfRing s r != 1 || sqHead s r == sqTail s r || (ringAt s r).dead || replaysAhead s r then s
  else if ringClass s r == 2 && witnessRuns s then s
  else if !cqFree s r then cqStall s r
  else
    let s := modRing s r (fun q => { q with stalled := false })
    if (inflightOn s r).any Desc.fresh then s
    else
      let i := sqHead s r
      let a := rd64 s (ringReg r ringSqBaseLo) + 64 * i
      let s := meetRead s v a 64
      let b := readDesc s v a
      let waits : Bool := match b with
        | none => false
        | some x => (descFence x && fenceBusy s r) || runBlocked s (.ring r) x
      if waits then s
      else
        let s := passPosted (setFld s (ringReg r ringPtr) 31 16 ((i + 1) % ringSlots s r)) r
        beginDesc s { src := .ring r, bell := 0, index := i } b []

/-! ### Replays (R245, R246, R281, R310 to R312, R410) -/

/-- The step summary of bell `n`: whether it was skipped or failed. -/
def summaryBad (s : State) (n : Nat) : Bool := s.summaries.any (fun e => e.1 == n && (e.2.1 || e.2.2))

/-- UPDATE_START of bell `n` (Table 13.1). -/
def updateStart (s : State) (n : Nat) : Nat := bits (setting (settingsOf s n) (0x1000 + setRedRedCtrl)) 10 0

/-- The replay has reached its gate and the summary is not final (R410). -/
def gateHolds (s : State) (p : Replay) : Bool :=
  updateStart s p.bell != 0 && decide (updateStart s p.bell ≤ p.next) && !summaryFinal s p.bell

/-- The replay has reached its gate and the summary was skipped or failed (R410). -/
def gateEnds (s : State) (p : Replay) : Bool :=
  updateStart s p.bell != 0 && decide (updateStart s p.bell ≤ p.next) && summaryFinal s p.bell && summaryBad s p.bell

/-- A replay goes past the descriptor at `next`. -/
def passNext (s : State) (w : Where) : State :=
  settleReplays (modAtWhere s w (fun p => { p with next := p.next + 1, subst := [], made := 0, skipAt := false }))

/-- Descriptors in flight before the next one of a replay: those of the step ring, or the witness's own. -/
def inflightBefore (s : State) (w : Where) : List Desc :=
  match w with
  | .step _ => (match stepRing s with | some r => inflightOn s r | none => [])
  | .witness => (s.witness.map (·.inflight)).getD []

/-- Some descriptor that a FENCE of this replay waits for has not completed. -/
def fenceHolds (s : State) (w : Where) : Bool := (inflightBefore s w).any (fun d => d.progress != .ended)

/-- The next substitute of a replay starts in place of the descriptor at `next` (R312). -/
def startSubst (s : State) (w : Where) (p : Replay) (b : List Byte) (rest : List (List Byte)) : State :=
  let k := w.key p (p.next + 2048 * (p.made + 1))
  let x := if b.isEmpty then none else some b
  if (descFence b && fenceHolds s w) || (x.isSome && runBlocked s k.src b) then s
  else
    let s := modAtWhere s w (fun p => { p with subst := rest, made := p.made + 1 })
    let s := if rest.isEmpty then
        modAtWhere s w (fun p => { p with next := p.next + 1, made := 0, skipAt := false }) else s
    settleReplays (beginDesc s k x [])

/-- The descriptor at `next` of a replay comes to start: its pool records decide, then its streams (R228, R310, R311). -/
def startPlace (s : State) (w : Where) (v : HostView) (p : Replay) : State :=
  let a := p.base + 64 * p.next
  let s := meetRead s v a 64
  let b := readDesc s v a
  let fence := match b with | some x => descFence x | none => false
  if fence && fenceHolds s w then s
  else
    let (act, s) := poolAct s w v p p.next
    match act with
    | .hold => s
    | .nothing => passNext s w
    | .instead ds =>
      match ds with
      | [] => passNext s w
      | d :: more =>
        let d := match d with
          | b0 :: b1 :: fl :: tail => b0 :: b1 :: (BitVec.ofNat 8 (fl.toNat / 2 * 2 + b2n fence)) :: tail
          | x => x
        modAtWhere s w (fun p => { p with subst := d :: more, made := 0, skipAt := true })
    | .start tags =>
      let k := w.key p p.next
      if (match b with | some x => runBlocked s k.src x | none => false) then s
      else
        let s := modAtWhere s w (fun p => { p with next := p.next + 1 })
        settleReplays (beginDesc s k b tags)

/-- The next descriptor of a replay starts, or the place is decided and the first substitute starts. -/
def startReplay (s : State) (w : Where) (v : HostView) : State :=
  if (inflightBefore s w).any Desc.fresh then s
  else
    match replayAt s w with
    | none => s
    | some p =>
      if p.allStarted then s
      else
        let s := if p.skipAt then s else startPlace s w v p
        match replayAt s w with
        | some p => (match p.skipAt, p.subst with
          | true, d :: rest => startSubst s w p d rest
          | _, _ => s)
        | none => s

/-- The next descriptor of the step program starts: of the oldest bell that has any left, once what was posted before it has started (R228,
R237, R245), past the gate of R410. -/
def startStep (s : State) (v : HostView) : State :=
  match stepRing s with
  | none => s
  | some r =>
    if stateOfRing s r != 1 then s
    else
      match s.replays.find? (fun p => !p.allStarted) with
      | none => s
      | some p =>
        if p.ahead != 0 || gateHolds s p then s
        else if gateEnds s p then settleReplays (modReplay s p.bell (fun p => { p with stopped := true }))
        else startReplay s (.step p.bell) v

/-- DESC_START (R237). -/
def descStart (s : State) (src : DescSource) (v : HostView) : State :=
  match src with
  | .ring r => startRing s r v
  | .step => startStep s v
  | .replay => startReplay s .witness v

/-! ### The operations (Table 8.6) -/

/-- The oldest descriptor in flight of a queue that satisfies `p`, with its key. -/
def findDesc (s : State) (src : DescSource) (p : Desc → Bool) : Option (DescKey × Desc) :=
  match src with
  | .ring r => ((ringAt s r).inflight.find? p).map (fun d => (d.key (.ring r) 0, d))
  | .step => s.replays.findSome? (fun q => (q.inflight.find? p).map (fun d => (d.key .step q.bell, d)))
  | .replay => match s.witness with
    | some q => (q.inflight.find? p).map (fun d => (d.key .replay q.bell, d))
    | none => none

/-- The oldest started descriptor of a queue with an operation code that satisfies `p`. -/
def startedWith (s : State) (src : DescSource) (p : Desc → Bool) : Option (DescKey × Desc) :=
  findDesc s src (fun d => d.progress == .started && p d)

/-- A NOP ends at once with OK. -/
def nopEffect (s : State) (src : DescSource) : State :=
  match startedWith s src (fun d => d.op == 0) with
  | some (k, _) => endDesc s k 0 0 0
  | none => s

/-- A SIGNAL adds 1 to its tally (R285). -/
def signalEffect (s : State) (src : DescSource) : State :=
  match startedWith s src (fun d => d.op == 5) with
  | some (k, d) => endDesc (signalTally s (leAt d.bytes 8 1) (leAt d.bytes 9 1)) k 0 0 0
  | none => s

/-- A WAIT_BELL ends at once with OK_LATE where its edge has passed, and waits otherwise (Table 8.6). -/
def waitEffect (s : State) (src : DescSource) : State :=
  match startedWith s src (fun d => d.op == 4) with
  | some (k, d) =>
    if s.bell.lastEdge.isSome && decide (leAt d.bytes 8 8 ≤ bellNum s) then endDesc s k 1 0 0
    else modDesc s k (fun d => { d with progress := .running })
  | none => s

/-- The job tag of a queue's work (R243). -/
def jobOf (s : State) : DescSource → Nat
  | .ring r => ringJob s r
  | _ => stepJob s

/-- The bell that a queue's programs carry (R275, R517). -/
def carried (s : State) (k : DescKey) : Nat := match k.src with | .ring _ => bellNum s | _ => k.bell

/-- A program of a RUN put into its slot (R227, R228). -/
def placeProg (s : State) (k : DescKey) (sl : Slot) (b : List Byte) (c : Nat) (u : CoreUnit) : State :=
  if runCount b u = 0 then s
  else
    let p : Prog := { start := runStart b u, count := runCount b u, issued := 0, halted := false, fail := 0, bell := carried s k,
                      key := k, job := jobOf s k.src }
    showSlotBell (modCore s c (modStream u (fun st => setSlot st sl (some p)))) c

/-- A RUN starts its streams (R227), once they are all free (R228). -/
def runEffect (s : State) (src : DescSource) : State :=
  match startedWith s src (fun d => d.op == 1) with
  | none => s
  | some (k, d) =>
    let sl := slotFor s src
    if !streamsFree s sl d.bytes then s
    else
      let total := (units.map (runCount d.bytes)).sum
      let s := modDesc s k (fun d => { d with
        progress := .running, startedAt := s.now,
        parts := (coreMask d.bytes).map (fun c => { core := c, left := total, ended := false, status := 0 }) })
      (coreMask d.bytes).foldl (fun s c => units.foldl (fun s u => placeProg s k sl d.bytes c u) s) s

/-- The channel a DMA descriptor names is IDLE or STOPPED. -/
def channelFree (s : State) (d : Desc) : Bool := let c := leAt d.bytes 8 1 % 32; chanStateOf s c == 0 || chanStateOf s c == 3

/-- The oldest DMA descriptor whose channel is IDLE or STOPPED loads the channel's window and starts the channel (R231). -/
def dmaEffect (s : State) (src : DescSource) (v : HostView) : State :=
  match startedWith s src (fun d => d.op == 2 && channelFree s d) with
  | none => s
  | some (k, d) =>
    let c := leAt d.bytes 8 1 % 32
    let a := leAt d.bytes 16 8
    let s := meetRead s v a 128
    let g := devRead s v a 128
    if devFails s v a 128 || g.bad then endDesc s k 3 0 0
    else
      let s := (List.range 32).foldl (fun s i => wr s (chanReg c (chanDesc + 4 * i)) (leAt g.bytes (4 * i) 4)) s
      chanStart (modDesc s k (fun d => { d with progress := .running })) c (some k)

/-! ### STREAM_CTL (R286, R287) -/

/-- Every program of a stream changed. -/
def modPrograms (s : State) (c : Nat) (u : CoreUnit) (f : Prog → Prog) : State :=
  modCore s c (modStream u (fun st => { st with step := st.step.map f, side := st.side.map f }))

/-- Action 0: no further instruction issues; the descriptor ends when the issued ones have completed. -/
def haltEffect (s : State) (src : DescSource) : State :=
  let s := match startedWith s src (fun d => d.op == 3 && leAt d.bytes 17 1 == 0) with
    | some (k, d) =>
      let s := (ctlStreams d.bytes).foldl (fun s e => modPrograms s e.1 e.2 (fun p => { p with halted := true })) s
      modDesc s k (fun d => { d with progress := .running })
    | none => s
  match src with
  | .ring r => settleHalts s r
  | _ => s

/-- Action 1: each halted slot is released and fetches its instruction anew (R158). -/
def resumeStreams (s : State) (src : DescSource) : State :=
  match startedWith s src (fun d => d.op == 3 && leAt d.bytes 17 1 == 1) with
  | some (k, d) =>
    endDesc ((ctlStreams d.bytes).foldl (fun s e => modPrograms s e.1 e.2 (fun p => { p with halted := false, fail := 0, fetched := none })) s) k 0 0 0
  | none => s

/-- A slot's program discarded: its RUN part fails with ABORTED and no longer waits for what it did not issue (R287). -/
def discardSlot (s : State) (c : Nat) (u : CoreUnit) (sl : Slot) : State :=
  match progOf s c u sl with
  | none => s
  | some p =>
    let s := modCore s c (modStream u (fun st => setSlot st sl none))
    let s := modDesc s p.key (fun d => { d with
      parts := modWhere d.parts (fun q => q.core == c) (fun q => { q with left := q.left - (p.count - p.issued) }) })
    failPart s p.key c 2

/-- Action 2 on one stream: both slots free; an MX stream's banks become FREE (R286). -/
def resetStream (s : State) (c : Nat) (u : CoreUnit) : State :=
  let s := discardSlot (discardSlot s c u .step) c u .side
  let free (b : Bank) : Bank := { b with state := .free, closing := false, owner := none }
  let s := if u = .mx then modCore s c (fun k => { k with bank0 := free k.bank0, bank1 := free k.bank1 }) else s
  showSlotBell s c

/-- Action 2: the named streams are reset. -/
def resetEffect (s : State) (src : DescSource) : State :=
  match startedWith s src (fun d => d.op == 3 && leAt d.bytes 17 1 == 2) with
  | some (k, d) => endDesc (settleReplays ((ctlStreams d.bytes).foldl (fun s e => resetStream s e.1 e.2) s)) k 0 0 0
  | none => s

/-! ### The parts of a RUN (R227 to R230) -/

/-- Instructions of the programs of `k` on core `c` that have not been issued. -/
def unissued (s : State) (k : DescKey) (c : Nat) : Nat :=
  (units.map (fun u => ([Slot.step, Slot.side].map (fun sl => match progOf s c u sl with
    | some p => if p.key = k then p.count - p.issued else 0
    | none => 0)).sum)).sum

/-- The part has nothing more to wait for: every instruction completed, or, having failed, every issued one. -/
def partDone (s : State) (k : DescKey) (p : Part) : Bool :=
  !p.ended && (p.left == 0 || (p.status != 0 && p.left == unissued s k p.core))

/-- The destination range of a failed part poisoned (R174, R230). -/
def poisonOut (s : State) (v : HostView) (k : DescKey) (table c : Nat) : State :=
  let a := table + 16 * c
  if table = 0 ∨ devFails s v a 16 = true then s
  else
    let s := meetRead s v a 16
    let e := (devRead s v a 16).bytes
    let lo := leAt e 0 8
    let len := leAt e 8 8
    let source := 0x6000 + ((match k.src with | .ring r => some r | _ => stepRing s).getD 0)
    if len = 0 then s
    else if oneRow lo ((lo : Int) + len - 1) then
      if isMemory lo then poisonRange s lo len (coreSource c) else s
    else logError s 0x0C source c

/-- A RUN whose parts have all ended completes (R230); one that R243 completes waits for its failed parts alone. -/
def finishRun (s : State) (k : DescKey) : State :=
  match descOf s k with
  | none => s
  | some d =>
    if d.progress != .running || d.op != 1 || !d.parts.all (fun p => p.ended || (d.status != 0 && p.status == 0)) then s
    else
      let failed := d.parts.filter (fun p => p.status != 0)
      let map := failed.foldl (fun a p => a + 2 ^ p.core) 0
      if d.status != 0 then endDesc s k d.status 0 map
      else
        match failed with
        | [] => endDesc s k 0 0 0
        | p :: _ => if failed.length = d.parts.length then endDesc s k p.status 0 map else endDesc s k 0x0F p.status map

/-- The part of core `c` ends where it can; a failed one's destination range is poisoned first. -/
def endPart (s : State) (v : HostView) (k : DescKey) (c : Nat) : State :=
  match descOf s k with
  | none => s
  | some d =>
    match d.parts.find? (fun p => p.core == c && partDone s k p) with
    | none => s
    | some p =>
      let s := if p.status = 0 then s else poisonOut s v k (leAt d.bytes 40 8) c
      finishRun (modDesc s k (fun d => { d with
        parts := modWhere d.parts (fun q => q.core == c) (fun q => { q with ended := true }) })) k

/-- The descriptors in flight of a queue with their keys, those of older bells first. -/
def inflightKeys (s : State) (src : DescSource) : List (DescKey × Desc) :=
  match src with
  | .ring r => (ringAt s r).inflight.map (fun d => (d.key (.ring r) 0, d))
  | .step => s.replays.flatMap (fun q => q.inflight.map (fun d => (d.key .step q.bell, d)))
  | .replay => match s.witness with
    | some q => q.inflight.map (fun d => (d.key .replay q.bell, d))
    | none => []

/-- The running RUNs of a queue with a descriptor index; under overrun several bells' (R281). -/
def runningRuns (s : State) (src : DescSource) (index : Nat) : List (DescKey × Desc) :=
  (inflightKeys s src).filter (fun e => e.2.progress == .running && e.2.op == 1 && e.2.index == index)

/-- RUN_PART_END (R227, R230): of the oldest such RUN whose part on the core can end. -/
def partEndEffect (s : State) (src : DescSource) (index core : Nat) (v : HostView) : State :=
  match (runningRuns s src index).find? (fun e => e.2.parts.any (fun p => p.core == core && partDone s e.1 p)) with
  | some (k, _) => endPart s v k core
  | none => s

/-- When a RUN's TIMEOUT expires, in clocks. -/
def runDeadline (d : Desc) : Nat := d.startedAt + leAt d.bytes 32 4 * clocksPerUs

/-- The RUN whose TIMEOUT expires first among those that have one and a part that has neither ended nor failed (R229). -/
def expiring (rs : List (DescKey × Desc)) : Option (DescKey × Desc) :=
  (rs.filter (fun e => leAt e.2.bytes 32 4 != 0 && e.2.parts.any (fun p => !p.ended && p.status == 0))).foldl
    (fun x y => match x with
      | some e => if runDeadline y.2 < runDeadline e.2 then some y else some e
      | none => some y) none

/-- RUN_TIMEOUT (R229): every part that has not ended fails with TIMEOUT; those with nothing in flight end. -/
def timeoutEffect (s : State) (src : DescSource) (index : Nat) (v : HostView) : State :=
  match expiring (runningRuns s src index) with
  | some (k, d) =>
    let cs := (d.parts.filter (fun p => !p.ended && p.status == 0)).map (·.core)
    let s := cs.foldl (fun s c => failPart s k c 0x0D) s
    cs.foldl (fun s c => endPart s v k c) s
  | none => s

/-! ### Completions (R232 to R236, R241, R242, R255, R256) -/

/-- The 32 bytes of a completion (Table 8.7). -/
def completionBytes (s : State) (r : Nat) (d : Desc) : List Byte :=
  leBytes 1 d.status ++ leBytes 1 (b2n (ringAt s r).phase + 2 * b2n (d.partMap != 0)) ++ leBytes 2 d.index ++ leBytes 4 d.tag ++
  leBytes 8 d.partMap ++ leBytes 8 d.bell ++ leBytes 4 d.detail ++ leBytes 1 (ringJob s r) ++ leBytes 3 0

/-- The message of a completion, by coalescing or at once (R255, R256). -/
def completionIrq (s : State) (r : Nat) (now : Bool) : State :=
  let en := flag s (ringReg r ringIntr) 31
  let s := if en then modRing s r (fun q => { q with pendingIrq := q.pendingIrq + 1 }) else s
  if now || (en && decide (max 1 (fld s (ringReg r ringIntr) 12 5) ≤ (ringAt s r).pendingIrq)) then sendRingMessage s r else s

/-- The oldest descriptor of ring `r`, ended, has its completion written (R232, R235). The report of the bell before comes first (R241). -/
def completionEffect (s : State) (r : Nat) : State :=
  let s := settleHalts s r
  match (ringAt s r).inflight with
  | [] => s
  | d :: rest =>
    if d.progress != .ended || !ringEnabled s r || (ringAt s r).dead || s.reports.any (·.closed) then s
    else if !cqFree s r then cqStall s r
    else
      let a := rd64 s (ringReg r ringCqBaseLo) + 32 * cqTail s r
      let cut := match spaceOf a with | .host _ => !hostReachable s | _ => false
      if cut then modRing (haltRing s r 3 d.index) r (fun q => { q with dead := true, inflight := rest })
      else
        let s := devWrite s a (completionBytes s r d) false
        let t := (cqTail s r + 1) % ringSlots s r
        let s := setFld s (ringReg r ringCptr) 31 16 t
        let s := modRing s r (fun q => { q with inflight := rest, stalled := false, phase := if t = 0 then !q.phase else q.phase })
        let s := wr s (ringReg r ringDone) (rd s (ringReg r ringDone) + 1)
        completionIrq s r d.irq

/-- COALESCING_TIMER (R255). -/
def coalesceEffect (s : State) (r : Nat) : State :=
  if (ringAt s r).pendingIrq != 0 && fld s (ringReg r ringIntr) 22 13 != 0 then sendRingMessage s r else s

/-! ### Doorbells (R222, R223) -/

/-- A doorbell write dropped. -/
def dbDrop (s : State) (r : Nat) : State := raiseFlag (count s (ringReg r ringDbDrop)) 0 (ringReg r ringEvent) 30

/-- The slots of `m` that RPT_HEAD value `val` releases: from the one after the last value, round to the one before `val` (R249). -/
def releasedSlots (m old val : Nat) : List Nat := (List.range ((val % m + m - old % m) % m)).map (fun i => (old + i) % m)

/-- The address of report slot `i` of an area at `base` under an RPT_CFG word (R248). -/
def reportSlot (cfg base i : Nat) : Nat := base + i % 2 ^ bits cfg 11 8 * 2 ^ bits cfg 4 0

/-- RPT_HEAD accepted: the slots from its last value up to it are released (R249; DEDUCED, log entry 50). -/
def releaseReports (s : State) (r val : Nat) : State :=
  let cfg := rd s (ringReg r ringRptCfg)
  let free := (releasedSlots (2 ^ bits cfg 11 8) (fld s (ringReg r ringRptPtr) 15 0) val).map
    (reportSlot cfg (rd64 s (ringReg r ringRptBaseLo)))
  modRing (setFld s (ringReg r ringRptPtr) 15 0 val) r (fun q => { q with unread := q.unread.filter (fun x => !free.contains x) })

/-- A 32-bit doorbell write at offset `off` of ring `r`'s page. -/
def doorbell32 (s : State) (r off val : Nat) : State :=
  if !ringEnabled s r || decide (ringSlots s r ≤ val) then dbDrop s r
  else if off = 0 then setFld s (ringReg r ringPtr) 15 0 val
  else if off = 4 then
    let s := setFld s (ringReg r ringCptr) 15 0 val
    modRing s r (fun q => { q with stalled := q.stalled && !cqFree s r })
  else if off = 8 then (if ringClass s r = 1 then releaseReports s r val else dbDrop s r)
  else dbDrop s r

/-- A doorbell write of `width` bytes; eight aligned bytes are two 32-bit writes (R12). -/
def doorbell (s : State) (r off width val : Nat) : State :=
  if width = 4 then doorbell32 s r off val
  else if width = 8 ∧ off % 8 = 0 then doorbell32 (doorbell32 s r off (val % 2 ^ 32)) r (off + 4) (val / 2 ^ 32)
  else dbDrop s r

/-! ### Ring control (R218 to R221, R239, R240) -/

/-- A queue of `bytes` at `base` is aligned and lies in one range of Table 6.1 (R218). -/
def queueFits (base bytes : Nat) : Bool := base % 4096 == 0 && oneRow base ((base : Int) + bytes - 1)

/-- Why setting ENABLE in CTRL word `v` is refused: the error cause (R218, R220, R221). -/
def enableRefused (s : State) (r v : Nat) : Option Nat :=
  let k := bits v 4 0
  if stateOfRing s r = 3 then some 4
  else if k < 6 ∨ 16 < k ∨ queueFits (rd64 s (ringReg r ringSqBaseLo)) (64 * 2 ^ k) = false ∨
      queueFits (rd64 s (ringReg r ringCqBaseLo)) (32 * 2 ^ k) = false then some 5
  else if bits v 27 26 = 1 ∧ (List.range 64).any (fun q => q != r && ringEnabled s q && ringClass s q == 1) = true then some 5
  else none

/-- The ring enabled (R219, Table 8.15). Pending interrupts and unreleased report slots stay (R249, R255). -/
def enableRing (s : State) (r : Nat) : State :=
  let s := modRing s r (fun q => { pendingIrq := q.pendingIrq, unread := q.unread })
  let s := wr (wr (wr s (ringReg r ringPtr) 0) (ringReg r ringCptr) 0) (ringReg r ringDone) 0
  setRingState s r 1

/-- The ring disabled: what has ended is forgotten, what runs drains (R221). Completions written keep their pending count (R255). -/
def disableRing (s : State) (r : Nat) : State :=
  let s := if ringClass s r = 1 then stopReplays s else s
  let s := modRing s r (fun q => { q with
    inflight := q.inflight.filter (fun d => d.progress != .ended), stalled := false
    drain := if ringClass s r = 1 then s.started else 0 })
  setRingState s r 3

/-- The descriptors of a replay that have not started are flushed: the next one ends with NOT_EXECUTED in the report, and R246 ends the
replay. -/
def flushReplay (s : State) (p : Replay) : State :=
  if p.allStarted then s
  else
    let s := modReplay s p.bell (fun p => { p with stopped := true, failed := p.failed + 1 })
    let s := modReport s p.bell (fun r => { r with descFailed := r.descFailed + 1 })
    reportEvent s p.bell 1 9 p.next 0

/-- FLUSH: every descriptor posted and not started completes with NOT_EXECUTED (R239, R240), a replayed one in the report (R245). Its TAG and
IRQ flag are read from its slot. -/
def flushRing (s : State) (r : Nat) (v : HostView) : State :=
  if stateOfRing s r != 2 then count s (ringReg r ringDbDrop)
  else
    let n := ringSlots s r
    let todo := (sqTail s r + n - sqHead s r) % n
    let s := (List.range todo).foldl (fun s _ =>
      let i := sqHead s r
      let s := meetRead s v (rd64 s (ringReg r ringSqBaseLo) + 64 * i) 64
      let b := (readDesc s v (rd64 s (ringReg r ringSqBaseLo) + 64 * i)).getD []
      let d : Desc := { newDesc s b i [] with progress := .ended, status := 9 }
      setFld { modRing s r (fun q => { q with inflight := q.inflight ++ [d] }) with started := s.started + 1 } (ringReg r ringPtr) 31 16 ((i + 1) % n)) s
    let s := if ringClass s r = 1 then settleReplays (s.replays.foldl flushReplay { s with replays := s.replays.map (fun p => { p with ahead := 0 }) }) else s
    setRingState s r 1

/-- RESUME on a HALTED ring (R240). -/
def resumeRing (s : State) (r : Nat) : State :=
  if stateOfRing s r = 2 then setRingState s r 1 else count s (ringReg r ringDbDrop)

/-- The bits of CTRL that take writes only while ENABLE = 0 (R219): CLASS, JOB_TAG and K. -/
def ctrlFixed : Nat := 0x0CFF001F

/-- A write of CTRL by `src`; FLUSH and RESUME act after ENABLE. -/
def ringCtrlWrite (s : State) (src r val : Nat) (v : HostView) : State :=
  let k := ringReg r ringCtrl
  let old := rd s k
  let on := bit old 31
  let s := if on && (old ^^^ val) &&& ctrlFixed != 0 then logError s 4 src k else s
  let fixed := if on then old &&& ctrlFixed else val &&& ctrlFixed
  let why := enableRefused s r fixed
  let s := wr s k (2 ^ 31 * b2n on + fixed)
  let s :=
    if bit val 31 && !on then
      match why with
      | some cause => logError s cause src k
      | none => enableRing (wr s k (2 ^ 31 + fixed)) r
    else if on && !bit val 31 then disableRing (wr s k fixed) r
    else s
  let s := if bit val 30 then flushRing s r v else s
  if bit val 29 then resumeRing s r else s

/-- A write of a ring register other than CTRL: the bases take writes only while ENABLE = 0 (R219), the report's fields only while
RPT_EN = 0; where they are out of range RPT_EN stays 0 and the write leaves them unchanged (R257). -/
def ringOtherWrite (s : State) (src r o val : Nat) : State :=
  let k := ringReg r o
  if o = ringSqBaseLo ∨ o = ringSqBaseHi ∨ o = ringCqBaseLo ∨ o = ringCqBaseHi then
    (if ringEnabled s r then logError s 4 src k else wr s k val)
  else if o = ringRptBaseLo ∨ o = ringRptBaseHi then
    (if flag s (ringReg r ringRptCfg) 31 then logError s 4 src k else wr s k val)
  else if o = ringRptCfg then
    let old := rd s k
    let on := bit old 31
    let mask := 0xF1F
    let s := if on && (old ^^^ val) &&& mask != 0 then logError s 4 src k else s
    let low := if on then old &&& mask else val &&& mask
    let top := bits val 30 22 * 2 ^ 22
    if bit val 31 && !on then
      if decide (2 ≤ bits low 11 8) && decide (bits low 11 8 ≤ 12) && decide (12 ≤ bits low 4 0) && decide (bits low 4 0 ≤ 20) &&
          rd64 s (ringReg r ringRptBaseLo) % 4096 == 0 then
        wr s k (2 ^ 31 + top + low)
      else logError (wr s k (top + (old &&& mask))) 4 src k
    else wr s k (2 ^ 31 * b2n (on && bit val 31) + top + low)
  else wr s k val

/-! ### The commands -/

/-- A command of ring `r` takes effect while the package runs. -/
def ringEvent_ (s : State) (r : Nat) (t : State) : Host.Outcome State Fault Refusal := .next (if live s && okRing r then t else s)

/-- A command of a descriptor source takes effect while the package runs. -/
def srcEvent (s : State) (src : DescSource) (t : State) : Host.Outcome State Fault Refusal := .next (if live s && okSource src then t else s)

/-- SQ_TAIL_DOORBELL (R222). -/
def execSqTailDoorbell (ring width val : Nat) (s : State) : Host.Outcome State Fault Refusal := ringEvent_ s ring (if hostUp s then doorbell s ring 0 width val else s)

/-- CQ_HEAD_DOORBELL (R234). -/
def execCqHeadDoorbell (ring width val : Nat) (s : State) : Host.Outcome State Fault Refusal := ringEvent_ s ring (if hostUp s then doorbell s ring 4 width val else s)

/-- RPT_HEAD_DOORBELL (R249). -/
def execRptHeadDoorbell (ring width val : Nat) (s : State) : Host.Outcome State Fault Refusal := ringEvent_ s ring (if hostUp s then doorbell s ring 8 width val else s)

/-- RING_FLUSH (R239). -/
def execRingFlush (who : Requester) (ring : Nat) (host : HostView) (s : State) : Host.Outcome State Fault Refusal :=
  ringEvent_ s ring (if mayAsk s who then flushRing s ring host else s)

/-- RING_RESUME (R240). -/
def execRingResume (who : Requester) (ring : Nat) (s : State) : Host.Outcome State Fault Refusal :=
  ringEvent_ s ring (if mayAsk s who then resumeRing s ring else s)

/-- DESC_START (R237). -/
def execDescStart (src : DescSource) (host : HostView) (up : Upset) (s : State) : Host.Outcome State Fault Refusal :=
  srcEvent s src (descStart (plant s up) src host)

/-- NOP (R226). -/
def execNop (src : DescSource) (s : State) : Host.Outcome State Fault Refusal := srcEvent s src (nopEffect s src)

/-- RUN (R227). -/
def execRun (src : DescSource) (_host : HostView) (s : State) : Host.Outcome State Fault Refusal := srcEvent s src (runEffect s src)

/-- RUN_PART_END (R227). -/
def execRunPartEnd (src : DescSource) (index core : Nat) (host : HostView) (s : State) : Host.Outcome State Fault Refusal :=
  srcEvent s src (if okCore core then partEndEffect s src index core host else s)

/-- RUN_TIMEOUT (R229). -/
def execRunTimeout (src : DescSource) (index : Nat) (host : HostView) (s : State) : Host.Outcome State Fault Refusal :=
  srcEvent s src (timeoutEffect s src index host)

/-- DMA (R231). -/
def execDma (src : DescSource) (host : HostView) (up : Upset) (s : State) : Host.Outcome State Fault Refusal :=
  srcEvent s src (dmaEffect (plant s up) src host)

/-- STREAM_HALT (R287). -/
def execStreamHalt (src : DescSource) (s : State) : Host.Outcome State Fault Refusal := srcEvent s src (haltEffect s src)

/-- STREAM_RESUME (R287). -/
def execStreamResume (src : DescSource) (s : State) : Host.Outcome State Fault Refusal := srcEvent s src (resumeStreams s src)

/-- STREAM_RESET (R287). -/
def execStreamReset (src : DescSource) (s : State) : Host.Outcome State Fault Refusal := srcEvent s src (resetEffect s src)

/-- WAIT_BELL (R226). -/
def execWaitBell (src : DescSource) (s : State) : Host.Outcome State Fault Refusal := srcEvent s src (waitEffect s src)

/-- SIGNAL (R285). -/
def execSignal (src : DescSource) (s : State) : Host.Outcome State Fault Refusal := srcEvent s src (signalEffect s src)

/-- COMPLETION_WRITE (R232). -/
def execCompletionWrite (ring : Nat) (s : State) : Host.Outcome State Fault Refusal := ringEvent_ s ring (completionEffect s ring)

/-- COALESCING_TIMER (R255). -/
def execCoalescingTimer (ring : Nat) (s : State) : Host.Outcome State Fault Refusal := ringEvent_ s ring (coalesceEffect s ring)

end Sys2Proof.Machine
end

