-- ==== Sys2Proof/Machine/Reductions.lean ====
section
/-! DEFINITION. Bucket tables, handovers, the curfew, late contributions, REDUCE packets, the completion of instances and the step summary
(R394 to R413, R506, R522, R523). -/

namespace Sys2Proof.Machine

/-! ### The bucket table (R394, Tables 13.2 and 13.3) -/

/-- A segment from its 16 bytes. -/
def segmentOf (b : List Byte) : Segment := ⟨leAt b 0 4, leAt b 4 4, leAt b 8 4⟩

/-- Two segments share a word. -/
def segsMeet (x y : Segment) : Bool := decide (x.first < y.first + y.count) && decide (y.first < x.first + x.count)

/-- Segments that lie within the bucket, hold a word each and do not overlap (R394, Table 13.3). -/
def segsGood (words : Nat) (gs : List Segment) : Bool :=
  gs.all (fun g => decide (1 ≤ g.count) && decide (g.first + g.count ≤ words)) &&
  gs.zipIdx.all (fun x => gs.zipIdx.all (fun y => x.2 == y.2 || !segsMeet x.1 y.1))

/-- A FRC enable with the rate 0b11 (Table 13.2). -/
def badRate (mode lo : Nat) : Bool := bit mode lo && bits mode (lo + 2) (lo + 1) == 3

/-- A read of the host window that gets no data. -/
def lostRead (s : State) (v : HostView) (a len : Nat) : Bool := inHost a && devFails s v a len

/-- The bucket table entry at device address `a` with its segment list. One that cannot be read from the host is invalid (DESIGN CHOICE, log
entry 52). -/
def readBucket (s : State) (v : HostView) (a : Nat) : Bucket :=
  let b := (devRead s v a 64).bytes
  let w := leAt b 0 4
  let mode := leAt b 4 1
  let nseg := leAt b 7 1
  let list := leAt b 32 8
  let raw := if nseg ≤ 16 then (devRead s v list (16 * nseg)).bytes else []
  let segs := (List.range (raw.length / 16)).map (fun i => segmentOf (slice raw (16 * i) 16))
  let words := bits w 18 0
  { words := words, mode := mode, sig := leAt b 5 1, sigTally := leAt b 6 1, stageAddr := leAt b 8 8, outAddr := leAt b 16 8,
    sumAddr := leAt b 24 8, segs := segs,
    valid := !lostRead s v a 64 && !(decide (1 ≤ nseg) && lostRead s v list (16 * nseg)) && bits w 31 19 == 0 && decide (1 ≤ words) && decide (words ≤ 262144) && decide (nseg ≤ 16) && !bit mode 7 &&
      !badRate mode 1 && !badRate mode 4 && !bit (leAt b 5 1) 6 && bits (leAt b 6 1) 7 6 == 0 && leAt b 8 8 % 64 == 0 &&
      leAt b 16 8 % 64 == 0 && leAt b 24 8 % 64 == 0 && list % 16 == 0 && leAt b 40 24 == 0 &&
      (List.range nseg).all (fun i => leAt raw (16 * i + 12) 4 == 0) && segsGood words segs }

/-- What reading the bucket table and its segment lists meets (R166, R172, R214). -/
def strikeTable (s : State) (v : HostView) (a k : Nat) : State :=
  (List.range k).foldl (fun s b =>
    let e := (devRead s v (a + 64 * b) 64).bytes
    meetRead s v (leAt e 32 8) (16 * min 16 (leAt e 7 1))) (meetRead s v a (64 * k))

/-- BUCKET_COUNT.COUNT of a half, at most 4,096. -/
def bucketCount (h : Half) : Nat := min 4096 (bits (setting h (0x1000 + setRedBucketCount)) 12 0)

/-- RED_CTRL.LATE of a half. -/
def lateKept (h : Half) : Bool := bit (setting h (0x1000 + setRedRedCtrl)) 31

/-! ### Parts (R401 to R404) -/

/-- The contribution of a bucket as its staging area holds it now: words and poisoned words (R396, R401). Words that the host does not answer
with are poisoned zeros (DESIGN CHOICE, log entry 52). -/
def stagedWords (s : State) (v : HostView) (bk : Bucket) : Sparse Int × List Nat :=
  let lost := lostRead s v bk.stageAddr (4 * bk.words)
  let bytes := if lost then [] else (devRead s v bk.stageAddr (4 * bk.words)).bytes
  ((chunks 4 bk.words bytes).zipIdx.filterMap (fun e =>
      let v := signed 32 (leNat e.1)
      if v = 0 then none else some (e.2, v)),
   (List.range bk.words).filter (fun w => lost || devBad s v (bk.stageAddr + 4 * w) 4))

/-- Words of a part added to the own value. -/
def addWords (x y : Sparse Int) : Sparse Int := y.foldl (fun acc e => sput 0 acc e.1 (sget 0 acc e.1 + e.2)) x

/-- The exponent of a tensor in a half: that of the lowest used scale entry that names it (R403). -/
def tensorExp (h : Half) (tensor : Nat) : Int :=
  match firstIdx 4096 (fun i => scaleUsed (scaleEntry h i) && (scaleEntry h i).tensor == tensor) with
  | some i => scaleExp h i
  | none => 0

/-- A word rescaled by 2^`d` to nearest even, saturated at ±(2³¹ − 1), and whether it saturated (R403). -/
def rescale (q d : Int) : Int × Bool :=
  let n := roundInt q.natAbs d .rne
  let lim : Nat := 2 ^ 31 - 1
  let m : Nat := min n lim
  (if q < 0 then -(m : Int) else (m : Int), decide (lim < n))

/-- The segment that holds word `w`. -/
def segOf (bk : Bucket) (w : Nat) : Option Nat := bk.segs.findIdx? (fun g => decide (g.first ≤ w) && decide (w < g.first + g.count))

/-- A late part under the exponents of the next bell (R403, steps 1 to 3). -/
def rescalePart (h h' : Half) (bk : Bucket) (p : LatePart) : LatePart :=
  let ds := bk.segs.map (fun g => tensorExp h g.tensor - tensorExp h' g.tensor)
  let ws : List (Nat × (Int × Bool) × Option Nat) := p.words.map (fun e =>
    match segOf bk e.1 with
    | some k => (e.1, rescale e.2 (ds.getD k 0), some k)
    | none => (e.1, (e.2, false), none))
  { p with
    words := ws.filterMap (fun e => if e.2.1.1 = 0 then none else some (e.1, e.2.1.1))
    entries := p.entries.zipIdx.map (fun e =>
      { e.1 with overflow := satAdd e.1.overflow (ws.filter (fun w => w.2.1.2 && w.2.2 == some e.2)).length }) }

/-- What an included part enters into the side record of member `dp` (R404). -/
def partSide (dp : Nat) (isLate nonfinite : Bool) (entries : List SideEntry) : SideRec :=
  { incl := if isLate then [] else [dp], late := if isLate then [dp] else [], nonfinite := nonfinite,
    origin := if nonfinite then some dp else none, entries := entries }

/-- An included part added to the instance's own value. -/
def addPart (dp : Nat) (isLate : Bool) (p : LatePart) (i : Instance) : Instance :=
  { i with
    ownVals := addWords i.ownVals p.words
    ownBad := p.bad.foldl setIns i.ownBad
    ownSide := i.ownSide.join (partSide dp isLate p.nonfinite p.entries)
    ownHere := i.ownHere ++ p.here
    own := if isLate then i.own else .included
    late := if isLate then .included else i.late }

/-- The member's own part of an instance as it stands now. -/
def presentPart (s : State) (v : HostView) (i : Instance) (bk : Bucket) : LatePart :=
  let w := stagedWords s v bk
  let here := w.2.filterMap (fun k => match originOf s (bk.stageAddr + 4 * k) with
    | .own n _ => if poisoned s (bk.stageAddr + 4 * k) then some (k, n) else none
    | _ => none)
  ⟨w.1, w.2, i.entries, i.nonfinite, here⟩

/-! ### Failed checks of the engine (R502) -/

/-- A packet of slot `b` in bell `n` (Table 13.4). -/
def ofSlot (n b : Nat) (p : Packet) : Bool := p.ttype == 0x20 && leAt p.data 0 2 % 4096 == b && leAt p.data 12 4 == n % 2 ^ 32

/-- The packets of slot `b` in bell `n` that have not left the module are withheld for good (R502; DESIGN CHOICE that all of the slot's are,
log entry 52). -/
def withholdSlot (s : State) (n b : Nat) : State :=
  { s with
    withheld := s.withheld.filter (fun w => !(w.1 == n && ofSlot n b w.2.2))
    ports := s.ports.map (fun q => { q with txq := q.txq.filter (fun t => !(t.input == 8 && ofSlot n b t.pkt)) }) }

/-- A residue failure of the engine that serves slot `b`: what its result was to feed is withheld, the slot rests until its next generation,
and a RERUN case opens (R502, R511, R527). -/
def reduceFault (s : State) (n b : Nat) : State :=
  let s := modInst (withholdSlot s n b) n b (fun i => { i with faulted := true })
  let s := modReport s n (fun r => { r with suspect := true })
  openCase (reportEvent s n 2 5 7 (0x40 + b % 4 + 4 * 256)) n 7 [] (some b)

/-- An instance advanced by a command during which a check of its engine failed (`bad`) or none did (R502). -/
def advanceChecked (s : State) (bad : Bool) (n b : Nat) : State := if bad then reduceFault s n b else dropSpread (advanceInst s n b)

/-! ### Handovers (R396, R402, R403, R506) -/

/-- A late contribution of bell `n` handed over after its curfew (R403): dropped, kept for bell n + 1, or joined there. -/
def lateHandover (s : State) (v : HostView) (bad : Bool) (n b : Nat) (i : Instance) (bk : Bucket) : State :=
  let drop := count s (redReg redLateDropped)
  if !lateKept (settingsOf s n) then drop
  else
    match instanceOf s (n + 1) b with
    | some j =>
      if j.late = .waiting then
        let p := rescalePart (settingsOf s n) (settingsOf s (n + 1)) bk (presentPart s v i bk)
        let dp := ((ownPlaceAt s (n + 1)).map (·.dp)).getD 0
        advanceChecked (count (modInst s (n + 1) b (addPart dp true p)) (redReg redLateAdded)) bad (n + 1) b
      else drop
    | none =>
      if bellNum s ≤ n then modInst s n b (fun i => { i with latePart := some (presentPart s v i bk) }) else drop

/-- A handover of slot `b` for bell `n` acted on (R402); `up.check` names failed checks of the engine (R502). -/
def takeHandover (s : State) (v : HostView) (up : Upset) (n b : Nat) : State :=
  let bad := !up.check.isEmpty
  match instanceOf s n b, bucketOf s n b with
  | some i, some bk =>
    let s := modInst s n b (fun i => { i with handed := true })
    if !bk.valid then s
    else
      let s := meetRead s v bk.stageAddr (4 * bk.words)
      if i.own = .waiting then
        let dp := ((ownPlaceAt s n).map (·.dp)).getD 0
        let s := modInst s n b (addPart dp false (presentPart s v i bk))
        advanceChecked (count s (redReg redOwnIncluded)) bad n b
      else lateHandover s v bad n b i bk
  | _, _ => s

/-- The handovers that waited for audits of their bells, once none is pending (R506). -/
def releaseHands (s : State) (v : HostView) : State :=
  let go := s.handWait.filter (fun e => !auditPending s e.2)
  go.foldl (fun s e => takeHandover s v {} e.2 e.1) { s with handWait := s.handWait.filter (fun e => auditPending s e.2) }

/-- A write of `val` to BUCKET_READY for bell `n` (R396). -/
def readyWrite (s : State) (v : HostView) (up : Upset) (n val : Nat) : State :=
  let b := bits val 11 0
  let refused : Bool := bits val 31 12 != 0 || decide (bucketCount (settingsOf s n) ≤ b) || s.handWait.contains (b, n) ||
    (match instanceOf s n b with | some i => i.handed | none => true)
  if refused then count s (redReg redReadyErr)
  else if auditPending s n then { s with handWait := s.handWait ++ [(b, n)] }
  else takeHandover s v up n b

/-! ### The curfew (R276, R402, R521) -/

/-- BELL_PERIOD.US of a half. -/
def periodUs (h : Half) : Nat := bits (setting h setBellPeriod) 25 0

/-- When the curfew of bell `n` falls, in clocks after its edge, under the settings of bell `n` (R276). -/
def curfewClocks (s : State) (n : Nat) : Nat :=
  let h := settingsOf s n
  (periodUs h - bits (setting h setCurfew) 25 0) * clocksPerUs

/-- A part of an instance that has not been handed over is excluded; one that waits for an audit is not (R402, R506). -/
def excludeParts (hands : List (Nat × Nat)) (i : Instance) : Instance :=
  { i with
    own := if i.own = .waiting ∧ !hands.contains (i.bucket, i.bell) then .excluded else i.own
    late := if i.late = .waiting ∧ !hands.contains (i.bucket, i.bell - 1) then .excluded else i.late }

/-- The cases of bell `n` that this module has not closed by its curfew close DROP (R521). -/
def curfewCases (s : State) (n : Nat) : State :=
  (s.integrity.cases.filter (fun c => c.bell == n && c.open_)).foldl (fun s c => closeCase s n c.num 2) s

/-- The curfew of bell `n` falls. -/
def curfewFall (s : State) (n : Nat) : State :=
  if s.fallen.contains n then s
  else
    let out := (s.instances.filter (fun i => i.bell == n && i.own == .waiting && !s.handWait.contains (i.bucket, n))).length
    let s := { s with
      fallen := setIns s.fallen n
      instances := modWhere s.instances (fun i => i.bell == n) (excludeParts s.handWait) }
    curfewCases (advanceBell (countBy s (redReg redOwnExcluded) out) n) n

/-- CURFEW of the present bell: BELL_PERIOD − CURFEW.OFFSET after its edge (R276). A bell's curfew falls at the next edge at the latest. -/
def curfewEffect (s : State) (n : Nat) : State :=
  match s.bell.begun with
  | some (m, t) => if m = n then curfewFall (advanceTo s (t + curfewClocks s n)) n else s
  | none => s

/-! ### Completion (R405, R406, R413, Table 13.5) -/

/-- The words of WIDE SQ32, 8 bytes each (R406). -/
def wideBytes (v : Sparse Int) (n : Nat) : List Byte := (List.range n).flatMap (fun w => leBytes 8 (unsigned 64 (sget 0 v w)))

/-- The sums of an instance written: with SCATTER = 1 the words outside its piece are the partial sums that passed through the member. -/
def writeSums (s : State) (i : Instance) (bk : Bucket) : State :=
  writeArea s bk.outAddr (wideBytes i.vals bk.words) (fun k => (List.range 8).any (fun w => i.bad.contains (8 * k + w)))

/-- An instance completes OK (R406). -/
def completeInstance (s : State) (g : Grid) (i : Instance) (bk : Bucket) (r : SideRec) : State :=
  let s := writeSums s i bk
  let s := writeArea s bk.sumAddr (summaryBytes i.bell g.place.d i.gen bk.mode bk.segs.length r) (fun _ => false)
  let s := modInst s i.bell i.bucket (fun i => { i with complete := true, status := 0 })
  let s := if r.nonfinite then raiseFlag s 5 (redReg redRedEvent) 31 else s
  signalDone s bk

/-- INSTANCE_COMPLETE: nothing where the result is not final yet. -/
def completeEffect (s : State) (b n : Nat) : State :=
  match instanceOf s n b, bucketOf s n b, ownGrid s n with
  | some i, some bk, some g =>
    match i.final with
    | some r => if !i.complete && bk.valid && resultFinal g bk i then completeInstance s g i bk r else s
    | none => s
  | _, _, _ => s

/-! ### The edge (R394, R402, R403, R413) -/

/-- Late parts that can no longer join are dropped (R403). -/
def dropLate (s : State) (keep : Nat) : State :=
  let gone (i : Instance) : Bool := i.latePart.isSome && i.bell != keep
  let k := (s.instances.filter gone).length
  countBy { s with instances := modWhere s.instances gone (fun i => { i with latePart := none }) } (redReg redLateDropped) k

/-- Incomplete instances of bells up to n − 2 time out, and the step ring halts (R413). -/
def timeoutInstances (s : State) (n : Nat) : State :=
  let old := s.instances.filter (fun i => decide (i.bell + 2 ≤ n) && !i.complete)
  old.foldl (fun s i =>
    match bucketOf s i.bell i.bucket with
    | none => s
    | some bk => timeoutInstance s i.bell i.bucket bk) s

/-- The late part's decision as the instance of bell `n` begins: what joins at once, and whether one can still join (R402, R403). -/
def lateStart (s : State) (n b : Nat) (bk : Bucket) : Option LatePart × Decision :=
  match instanceOf s (n - 1) b, bucketOf s (n - 1) b with
  | some i, some old =>
    if n != 0 && i.own == .excluded && old.valid && lateKept (settingsOf s (n - 1)) && old.words == bk.words && old.segs == bk.segs then
      match i.latePart with
      | some p => (some (rescalePart (settingsOf s (n - 1)) (settingsOf s n) bk p), .excluded)
      | none => (none, if i.handed then .excluded else .waiting)
    else (none, .excluded)
  | _, _ => (none, .excluded)

/-- The instance of slot `b` of bell `n` begins (R397, R402). -/
def beginInstance (s : State) (n b : Nat) (bk : Bucket) (catchup : Bool) : State :=
  let fresh : Instance := { bucket := b, bell := n, entries := List.replicate bk.segs.length SideEntry.empty,
                            ownSide := SideRec.empty bk.segs.length, sideAcc := SideRec.empty bk.segs.length }
  let add (s : State) (i : Instance) : State := { s with instances := s.instances ++ [i] }
  let late := lateStart s n b bk
  let hadLate := ((instanceOf s (n - 1) b).bind (·.latePart)).isSome
  let s := modInst s (n - 1) b (fun i => { i with latePart := none })
  if !bk.valid then
    let s := if hadLate then count s (redReg redLateDropped) else s
    failInstance (raiseFlag (add s { fresh with own := .excluded }) 5 (redReg redRedEvent) 29) n b 0x0E bk
  else
    let i := { fresh with own := if catchup then .excluded else .waiting, late := late.2 }
    let dp := ((ownPlaceAt s n).map (·.dp)).getD 0
    let s := match late.1 with
      | some p => count (add s (addPart dp true p i)) (redReg redLateAdded)
      | none => add (if hadLate then count s (redReg redLateDropped) else s) i
    let s := if catchup then count s (redReg redOwnExcluded) else s
    let s := if !catchup || late.2 == .waiting then count s (redReg redCurfewHolds) else s
    advanceInst s n b

/-- The reduction engines at the edge of bell `n`; its settings are in force. -/
def bucketEdge (s : State) (v : HostView) (n : Nat) (catchup : Bool) : State :=
  let s := ((s.buckets.map (·.1)).filter (· < n)).foldl curfewFall s
  let s := dropLate s (n - 1)
  let s := timeoutInstances s n
  let h := settingsOf s n
  let a := setting64 h (0x1000 + setRedBucketTableLo)
  let k := bucketCount h
  let s := strikeTable s v a k
  let table := (List.range k).map (fun b => readBucket s v (a + 64 * b))
  let recent (m : Nat) : Bool := decide (n ≤ m + 4)
  let s := { s with
    buckets := s.buckets.filter (fun e => recent e.1 && e.1 != n) ++ [(n, table)]
    instances := s.instances.filter (fun i => recent i.bell && i.bell != n)
    summaries := s.summaries.filter (fun e => recent e.1)
    fallen := s.fallen.filter (fun m => recent m && m != n)
    handWait := s.handWait.filter (fun e => recent e.2) }
  match ownPlaceAt s n with
  | some _ => table.zipIdx.foldl (fun s e => beginInstance s n e.2 e.1 catchup) s
  | none => s

/-! ### REDUCE packets (R398, R399, R502, R522) -/

/-- The reduce header of a packet (Table 13.4). -/
structure ReduceHeader where
  slot : Nat
  gen : Nat
  stage : Nat
  frc : Bool
  chunk : Nat
  off : Nat
  bell : Nat
  deriving DecidableEq, Repr

/-- The header read from a packet's data; none where a reserved value or bit is set. -/
def reduceHeader (b : List Byte) : Option ReduceHeader :=
  let st := leAt b 2 1
  if b.length < 16 ∨ st % 8 = 7 ∨ 16 ≤ st ∨ leAt b 3 1 ≠ 0 ∨ leAt b 6 2 ≠ 0 then none
  else some ⟨leAt b 0 2 % 4096, leAt b 0 2 / 4096, st % 8, bit st 3, leAt b 4 2, leAt b 8 4, leAt b 12 4⟩

/-- The held bell whose low 32 bits a header names. -/
def reduceBell (s : State) (h : ReduceHeader) : Option Nat := ((s.buckets.map (·.1)).find? (fun n => n % 2 ^ 32 == h.bell))

/-- The packet belongs to a bell that has not begun here yet. -/
def reduceEarly (s : State) (h : ReduceHeader) : Bool :=
  (reduceBell s h).isNone && (let d := (h.bell + 2 ^ 32 - bellNum s % 2 ^ 32) % 2 ^ 32; decide (1 ≤ d) && decide (d < 2 ^ 31))

/-- A chunk stream with a packet's data put at its offset (R398). -/
def growChunk (c : ChunkIn) (off poison : Nat) (data : List Byte) : ChunkIn :=
  { c with
    bytes := padTo off c.bytes ++ data
    marks := c.marks ++ ((List.range 7).filter (bit poison)).map (fun g => (off + (32 * g - 16), off + 32 * g + 15)) }

/-- A packet's data taken into its instance; a finished stream goes to the engine, one that finds a part of this member still able to join
waits and is counted (R402). -/
def takeReduce (s : State) (p : Packet) (n : Nat) (h : ReduceHeader) (i : Instance) (bk : Bucket) : State :=
  let code := if h.stage = 6 then 8 + h.chunk else h.stage
  let expectFrc := h.stage != 6 && (frcOf bk.mode h.stage).isSome
  if h.frc != expectFrc then s
  else
    let c := (i.rx.find? (fun c => c.stage == code && c.chunk == h.chunk)).getD ⟨code, h.chunk, [], []⟩
    let c := growChunk c h.off p.poison (p.data.drop 16)
    let rest (i : Instance) : List ChunkIn := i.rx.filter (fun c => !(c.stage == code && c.chunk == h.chunk))
    if p.last then
      let s := if h.stage = 0 && (i.own == .waiting || i.late == .waiting) then count s (redReg redCurfewHolds) else s
      dropSpread (advanceInst (modInst s n h.slot (fun i => { i with rx := rest i, ready := i.ready ++ [c] })) n h.slot)
    else modInst s n h.slot (fun i => { i with rx := rest i ++ [c] })

/-- A REDUCE packet acted on (R398, R502, R522). -/
def reducePacket (s : State) (up : Upset) (p : Packet) (h : ReduceHeader) : State :=
  match reduceBell s h with
  | none => s
  | some n =>
    match instanceOf s n h.slot, bucketOf s n h.slot with
    | some i, some bk =>
      if !bk.valid || h.gen < i.gen || i.status != 0 && i.gen == h.gen then s
      else
        let s := raiseGen s n h.slot h.gen
        match instanceOf s n h.slot with
        | none => s
        | some i =>
          if i.faulted then s
          else if up.check.isEmpty then takeReduce s p n h i bk
          else reduceFault s n h.slot
    | _, _ => s

/-- REDUCE: the first packet that belongs to a bell already begun, or is malformed, is taken. -/
def reduceEffect (s : State) (up : Upset) : State :=
  match firstOf s 0x20 (fun p => match reduceHeader p.data with | some h => !reduceEarly s h | none => true) with
  | none => s
  | some q =>
    let s := consume s q
    match reduceHeader q.pkt.data with
    | some h => reducePacket s up q.pkt h
    | none => s

/-! ### The step summary (R409, R410, R412, R509, R523) -/

/-- The NONFINITE origin of an instance that completed OK with the flag. -/
def nonfiniteOrigin (i : Instance) : Option Nat :=
  match i.final with
  | some r => if i.complete && i.status == 0 && r.nonfinite then r.origin else none
  | none => none

/-- The pending consumptions of bell `n` settle as its summary becomes final (R509). -/
def settleUses (s : State) (n : Nat) : State :=
  let clean := (s.instances.filter (fun i => i.bell == n)).all (fun i => i.bad.isEmpty)
  let mine := s.integrity.pendingUse.filter (fun u => u.bell == n)
  let s := { s with integrity := { s.integrity with pendingUse := s.integrity.pendingUse.filter (fun u => u.bell != n) } }
  if clean then s else mine.foldl (fun s u => consumed s u.job (64 * u.block) u.origin) s

/-- A skipped step enters the report (R412). -/
def reportSkip (s : State) (n : Nat) : State :=
  let p := ownPlaceAt s n
  let form (d : Nat) : Nat := originForm s ((p.map (fun p => p.member d)).getD ⟨0, 0, 0⟩)
  let bad := (s.instances.filter (fun i => i.bell == n)).filterMap (fun i => (nonfiniteOrigin i).map (fun d => (i.bucket, d)))
  let least := (bad.map (·.2)).foldl min ((bad.map (·.2)).headD 0)
  let s := modReport s n (fun r => { r with skipped := true, nfOrigin := form least })
  bad.foldl (fun s e => reportEvent s n 8 6 (form e.2) e.1) s

/-- The step summary of bell `n` becomes final where every instance has completed and no case of the bell is open (R409, R523). -/
def summaryEffect (s : State) (n : Nat) : State :=
  let mine := s.instances.filter (fun i => i.bell == n)
  if summaryFinal s n || !s.buckets.any (fun e => e.1 == n) || mine.any (fun i => !i.complete) || casesOpen s n then s
  else
    let skipped := mine.any (fun i => (nonfiniteOrigin i).isSome)
    let failed := mine.any (fun i => i.status != 0)
    let s := { s with summaries := s.summaries ++ [(n, skipped, failed)] }
    let s := if skipped then reportSkip (count s (redReg redStepsSkipped)) n else s
    let s := settleUses s n
    match replayOf s n with
    | some p => if gateEnds s p then settleReplays (modReplay s n (fun p => { p with stopped := true })) else s
    | none => s

/-! ### Audits end (R505, R506) -/

/-- AUDIT_END, and what waited for it. -/
def auditEndAll (s : State) (v : HostView) (c : Nat) (differs : Bool) : State := releaseFlips (releaseHands (auditEndEffect s c differs) v)

/-! ### The commands -/

/-- AUDIT_END (R505). -/
def execAuditEnd (core : Nat) (differs : Bool) (s : State) (host : HostView := {}) : Host.Outcome State Fault Refusal :=
  coreEvent s core (auditEndAll s host core differs)

/-- BUCKET_READY (R396). -/
def execBucketReady (who : Requester) (slot : Slot) (unit : CoreUnit) (val : Nat) (up : Upset) (s : State) (host : HostView := {}) :
    Host.Outcome State Fault Refusal :=
  .next (if live s && mayAsk s who then readyWrite (plant s up) host up (writerBell s who unit slot) val else s)

/-- REDUCE (R391). -/
def execReduce (up : Upset) (s : State) : Host.Outcome State Fault Refusal := .next (if live s then reduceEffect (plant s up) up else s)

/-- INSTANCE_COMPLETE (R406). -/
def execInstanceComplete (bucket bell : Nat) (s : State) : Host.Outcome State Fault Refusal :=
  .next (if live s then completeEffect s bucket bell else s)

/-- STEP_SUMMARY_FINAL (R409). -/
def execStepSummaryFinal (bell : Nat) (s : State) : Host.Outcome State Fault Refusal :=
  .next (if live s then summaryEffect s bell else s)

/-- CURFEW (R276). -/
def execCurfew (bell : Nat) (s : State) : Host.Outcome State Fault Refusal := .next (if live s then curfewEffect s bell else s)

end Sys2Proof.Machine
end

