-- ==== Sys2Proof/Machine/Report.lean ====
section
/-! DEFINITION. The step report: its sections, its header and its slot (R68, R248 to R253, R408). -/

namespace Sys2Proof.Machine

/-- A share of R68. -/
def share (c n : Nat) : Nat := if n = 0 then 0 else min 65535 (65536 * c / n)

/-- The instances of bell `n` that completed OK, with their final side records. -/
def goodSides (s : State) (n : Nat) : List (Instance × SideRec) :=
  (s.instances.filter (fun i => i.bell == n && i.complete && i.status == 0)).filterMap (fun i => i.final.map (fun r => (i, r)))

/-- A tensor has a side entry in some valid bucket of bell `n` (R395, R408). -/
def isReduced (s : State) (n tensor : Nat) : Bool := (bucketsOf s n).any (fun b => b.valid && b.segs.any (fun g => g.tensor == tensor))

/-- The final side entries of a tensor in bell `n`. -/
def sideEntriesOf (s : State) (n tensor : Nat) : List SideEntry :=
  (goodSides s n).flatMap (fun e => match bucketOf s n e.1.bucket with
    | some b => ((b.segs.zip e.2.entries).filter (fun x => x.1.tensor == tensor)).map (·.2)
    | none => [])

/-- The tensors of the report of bell `n`, in ascending id (R251). -/
def reportTensors (s : State) (n : Nat) : List Nat :=
  (((s.tensors.filter (fun t => t.bell == n)).map (·.tensor)) ++
   (bucketsOf s n).flatMap (fun b => if b.valid then b.segs.map (·.tensor) else [])).foldl setIns []

/-- Overflow, vanish and conversion counts of a tensor in bell `n`: group-wide where it is reduced, the module's own otherwise (R67,
R408). -/
def tensorCounts (s : State) (n tensor : Nat) : Nat × Nat × Nat :=
  if isReduced s n tensor then
    (sideEntriesOf s n tensor).foldl (fun a e => (a.1 + e.overflow, a.2.1 + e.vanish, a.2.2 + e.count)) (0, 0, 0)
  else
    (s.tensors.filter (fun t => t.bell == n && t.tensor == tensor)).foldl
      (fun a e => (a.1 + e.overflow, a.2.1 + e.vanish, a.2.2 + e.count)) (0, 0, 0)

/-- A tensor entry (Table 8.12). -/
def tensorEntry (s : State) (n tensor : Nat) : List Byte :=
  let c := tensorCounts s n tensor
  leBytes 4 tensor ++ leBytes 2 (share c.1 c.2.2) ++ leBytes 2 (share c.2.1 c.2.2)

/-- The step roll as the one roll entry; none without an instance that completed OK (R408). -/
def rollEntry (s : State) (n : Nat) : List Byte :=
  match ownPlaceAt s n, goodSides s n with
  | some p, e :: es =>
    let incl := e.2.incl.filter (fun d => es.all (fun x => x.2.incl.contains d))
    let nf := (e :: es).any (fun x => x.2.nonfinite)
    let late := (e :: es).any (fun x => !x.2.late.isEmpty)
    leBytes 2 p.group ++ leBytes 2 p.d ++ leBytes 2 incl.length ++ leBytes 2 (b2n nf + 2 * b2n late) ++ mapBytes p.d incl
  | _, _ => []

/-- An event entry (Table 8.12). -/
def RepEvent.bytes (e : RepEvent) : List Byte :=
  leBytes 2 e.kind ++ leBytes 1 e.status ++ [0] ++ leBytes 4 e.arg0 ++ leBytes 8 e.arg1

/-- The header (Table 8.11); `total` is LENGTH. -/
def reportHeader (r : Report) (k job tensors rolls total : Nat) (trunc unreleased : Bool) : List Byte :=
  let flags := (r.bell / 2 ^ k + 1) % 2 + 2 * b2n trunc + 4 * b2n unreleased + 8 * b2n r.overrun + 16 * b2n r.skipped + 32 * b2n r.suspect +
    64 * b2n r.swapLate + 128 * b2n r.undone
  padTo 64 (leBytes 8 r.bell ++ leBytes 1 flags ++ leBytes 1 job ++ leBytes 2 tensors ++ leBytes 2 rolls ++ leBytes 2 r.events.length ++
    leBytes 4 total ++ leBytes 4 r.nfOrigin ++ leBytes 2 (min r.skippedMb 0xFFFF) ++ leBytes 2 r.stashLayer ++
    leBytes 2 (min r.barnStalls 0xFFFF) ++ leBytes 2 (min r.descFailed 0xFFFF))

/-- A report written into its slot: the sections first, cut off at the slot's end, then the header, then the message (R248 to R250,
R256). -/
def writeReport (s : State) (d : ReportDest) (r : Report) : State :=
  let k := bits d.cfg 11 8
  let size := 2 ^ bits d.cfg 4 0
  let a := reportSlot d.cfg d.base r.bell
  let ts := reportTensors s r.bell
  let roll := rollEntry s r.bell
  let body := ts.flatMap (tensorEntry s r.bell) ++ roll ++ r.events.flatMap RepEvent.bytes
  let trunc : Bool := decide (size < 64 + body.length)
  let body := body.take (size - 64)
  let late : Bool := (ringAt s d.ring).unread.contains a
  let s := if late then count s (ringReg d.ring ringRptOverwrite) else modRing s d.ring (fun x => { x with unread := x.unread ++ [a] })
  let s := if trunc then count s (ringReg d.ring ringRptTrunc) else s
  let s := devWrite s (a + 64) body false
  let s := devWrite s a (reportHeader r k d.job ts.length (b2n (!roll.isEmpty)) (64 + body.length) trunc late) false
  if bit d.cfg 30 then sendVector s (bits d.cfg 29 22) else s

/-- The closed report written to where its edge decided, and dropped. -/
def reportWriteEffect (s : State) : State :=
  match s.reports.find? (·.closed) with
  | none => s
  | some r =>
    let s := match r.dest with
      | some d => writeReport s d r
      | none => s
    { s with reports := s.reports.filter (fun x => !x.closed) }

/-- STEP_REPORT_WRITE (R248). -/
def execStepReportWrite (s : State) : Host.Outcome State Fault Refusal := .next (if live s then reportWriteEffect s else s)

end Sys2Proof.Machine
end

