-- ==== Sys2Proof/Machine/Edge.lean ====
section
/-! DEFINITION. The local bell edge: the swap of the posted settings, the derivation of scale exponents, overrun and the start of the replay, and the
timer of the next edge (R8, R59 to R66, R245, R258 to R267, R269 to R283). -/

namespace Sys2Proof.Machine

/-! ### The bell unit -/

/-- The bell unit's working state changed. -/
def modBell (s : State) (f : BellUnit → BellUnit) : State := { s with bell := f s.bell }

/-- This module is the bell master (R259, R260). -/
def isMaster (s : State) : Bool :=
  let w := setting s.activeHalf setBellMaster
  bit w 31 && coordOf w == ownXyz s

/-- BELL_CTRL.EN. -/
def bellOn (s : State) : Bool := flag s (bellReg bellBellCtrl) 31

/-- BELL_CTRL.LEAD in clocks. -/
def leadClocks (s : State) : Nat := fld s (bellReg bellBellCtrl) 9 0 * clocksPerUs

/-- A bit of BELL_STATUS set without an event. -/
def bellBit (s : State) (i : Nat) (b : Bool) : State := setFlag s (bellReg bellBellStatus) i b

/-- An event flag of BELL_STATUS. -/
def bellFlag (s : State) (i : Nat) : State := raiseFlag s 4 (bellReg bellBellStatus) i

/-- The bell is locked, or has lost its master (R263, R264). -/
def setLocked (s : State) (b : Bool) : State := bellBit (bellBit s 31 b) 30 (!b)

/-! ### The swap (R8, R65, R269 to R272, R294, R295, R389, R449, R583) -/

/-- The lowest pending-view offset whose check fails (R271). -/
def swapFault (h : Half) : Option Nat :=
  let p := periodUs h
  let c := bits (setting h setCurfew) 25 0
  if p < 100 ∨ 60000000 < p then some setBellPeriod
  else if c = 0 ∨ p ≤ c then some setCurfew
  else if setting h setStepProgLo % 64 ≠ 0 then some setStepProgLo
  else if 1024 < bits (setting h setStepCount) 10 0 then some setStepCount
  else none

/-- The reserved fields of a word, as masks, lowest first: runs of neighbouring bits of `m`. -/
def rsvdRuns (m : Nat) : List Nat :=
  (List.range 32).filterMap (fun lo =>
    if bit m lo && (lo == 0 || !bit m (lo - 1)) then
      some ((2 ^ (((List.range 33).find? (fun k => !bit m (lo + k))).getD 32) - 1) <<< lo)
    else none)

/-- MKT_CTRL with EN = 0 and a reserved OUTER, which R449 does not handle (R8, R582). -/
def reservedOuter (h : Half) : Bool := !bit (mktWord h setMktMktCtrl) 31 && decide (2 ≤ bits (mktWord h setMktMktCtrl) 29 28)

/-- Reserved fields and values of the new active half (R8); those of the stage map fall under R294, of a policy in force under R449. -/
def countReserved (s : State) : State :=
  let outer (s : State) : State := if reservedOuter s.activeHalf then logError s 2 0 (0x3C1400 + setMktMktCtrl) else s
  outer <| s.activeHalf.foldl (fun s e =>
    if 0x4000 ≤ e.1 ∧ e.1 < 0x8000 then s
    else match settingDef e.1 with
      | some d => (rsvdRuns d.rsvd).foldl (fun s m => if e.2.toNat &&& m ≠ 0 then logError s 2 0 (0x3C0000 + e.1) else s) s
      | none => s) s

/-- The unusable settings that the new active half holds, counted in ascending cause (R580, R583). -/
def swapCounts (s : State) : State :=
  let h := s.activeHalf
  let s := countReserved s
  let s := (List.range 4096).foldl (fun s i =>
    let e := scaleEntry h i
    if e.fmt != 0 && !scaleUsed e then logError s 7 0 i else s) s
  let s := (List.range 256).foldl (fun s i =>
    let e := stageEntry h i
    if e.valid && stageBad e then logError s 8 0 i else s) s
  let s := match stagesOf h (memberXyz h) with
    | a :: _ :: _ => logError s 9 0 a
    | _ => s
  let s := match ownPlaceIn h with
    | some p => if gridFits h p.d then s else logError s 0xA 0 p.group
    | none => s
  if mktInvalid h then logError s 0xB 0 0 else s

/-- STAGE_ID and STAGE_SIZE under the stage map in force (Table 10.5). -/
def showStage (s : State) : State :=
  match ownPlaceIn s.activeHalf with
  | some p => wr (wr s (glbReg glbStageId) (2 ^ 31 + p.tp <<< 28 + p.dp <<< 14 + p.stage)) (glbReg glbStageSize) p.d
  | none => wr (wr s (glbReg glbStageId) 0) (glbReg glbStageSize) 0

/-- The copy of the active half into the pending half ends; pending words written meanwhile stay (R272). -/
def copyPending (s : State) : State :=
  let kept := s.bell.keep
  let h := s.activeHalf.filter (fun e => !kept.contains e.1)
  let p := kept.foldl (fun h o => putSetting h o (setting s.pendingHalf o)) h
  bellBit (modBell { s with pendingHalf := p } (fun b => { b with keep := [] })) 27 false

/-- The halves swap at edge `n`, and the copy of R272 starts. Membership is judged by the FAB_ID held now (R583). -/
def swapHalves (s : State) (n : Nat) : State :=
  let old := s.activeHalf
  let s := modBell { s with activeHalf := putSetting s.pendingHalf halfFabId (rd s (fabReg fabFabId)), pendingHalf := old } (fun b => { b with keep := [] })
  keySwap (swapCounts (showStage (bellBit s 27 true))) old n

/-- A copy of R272 that still runs ends. -/
def endCopy (s : State) : State := if flag s (bellReg bellBellStatus) 27 then copyPending s else s

/-- The armed swap at edge `n`, after its checks (R271), which judge the pending half as a copy that still runs leaves it; `late` is the
target of an arm that landed late (R269). -/
def trySwap (s : State) (n : Nat) (late : Option Nat) : State :=
  let s := modBell (endCopy s) (fun b => { b with armed := none })
  match swapFault s.pendingHalf with
  | some o => bellFlag (logError s 6 0 o) 24
  | none =>
    let s := swapHalves s n
    match late with
    | none => s
    | some t =>
      let s := count (bellFlag s 25) (bellReg bellLateArms)
      reportEvent (modReport s n (fun r => { r with swapLate := true })) n 9 1 0 t

/-- The arm that is due at edge `n` acts. -/
def edgeSwap (s : State) (n : Nat) : State :=
  match s.bell.armed with
  | some (t, late) => if t ≤ n then trySwap s n (if late then some t else none) else s
  | none => s

/-- An arm while the bell is off swaps at once (R270). Step work still running of the present bell keeps its settings (R275). -/
def swapNow (s : State) : State :=
  let n := bellNum s
  let s := endCopy s
  let s :=
    if bellUnfinished s n && !s.held.any (fun e => e.1 == n) && (swapFault s.pendingHalf).isNone then
      { s with held := (n, s.activeHalf) :: s.held } else s
  trySwap s n none

/-! ### Scale exponents (R59 to R66) -/

/-- The scale entries that a half lists. -/
def listedEntries (h : Half) : List Nat :=
  (h.filter (fun e => decide (0xC000 ≤ e.1) && decide (e.1 < 0x14000) && e.1 % 8 == 0)).map (fun e => (e.1 - 0xC000) / 8)

/-- The tensors of the used scale entries of a half. -/
def usedTensors (h : Half) : List Nat := (((listedEntries h).map (scaleEntry h)).filter scaleUsed).foldl (fun ts sc => setIns ts sc.tensor) []

/-- The history entry of a tensor for bell `m`: none where the step has no maximum (R60, R61). In a step skipped for NONFINITE it is the
entry of R63, which no clamp bounds, the largest where several scale entries name the tensor. -/
def tensorMax (s : State) (m tensor : Nat) : Option Int :=
  let h := settingsOf s m
  if s.summaries.any (fun x => x.1 == m && x.2.1) then
    ((((listedEntries h).map (scaleEntry h)).filter (fun sc => scaleUsed sc && sc.tensor == tensor)).map
      (fun sc => some (sc.exp + scaleT sc.fmt - sc.margin + 1))).foldl maxOpt none
  else if isReduced s m tensor then ((sideEntriesOf s m tensor).map (·.max)).foldl maxOpt none
  else ((s.tensors.filter (fun t => t.bell == m && t.tensor == tensor)).map (·.max)).foldl maxOpt none

/-- A maximum put into the history of a tensor in the place of its bell; 64 are kept (R60, R62). -/
def insertMax (s : State) (tensor m : Nat) (v : Int) : State :=
  let old := ((s.history.find? (fun x => x.tensor == tensor)).map (·.maxima)).getD []
  let new := old.filter (fun x => decide (m < x.1)) ++ [(m, v)] ++ old.filter (fun x => decide (x.1 < m))
  { s with history := s.history.filter (fun x => x.tensor != tensor) ++ [⟨tensor, new.take 64⟩] }

/-- The entries of bell `m` made (R62). -/
def enterBell (s : State) (m : Nat) : State :=
  (usedTensors (settingsOf s m)).foldl (fun s e => match tensorMax s m e with | some v => insertMax s e m v | none => s) s

/-- SCALE_EXP of entry `e` of the active half set. -/
def putExp (s : State) (e : Nat) (v : Int) : State :=
  let o := 0xC000 + 8 * e
  { s with activeHalf := putSetting s.activeHalf o (setBits (setting s.activeHalf o) 31 24 (unsigned 8 v)) }

/-- The used entries of the active half in automatic mode. -/
def autoEntries (s : State) : List Nat :=
  (listedEntries s.activeHalf).filter (fun e => (scaleEntry s.activeHalf e).auto && scaleUsed (scaleEntry s.activeHalf e))

/-- The exponent derived from a history maximum (R59). -/
def derivedExp (sc : ScaleEntry) (h : Int) : Int := max (-128) (min 127 (h + sc.margin - scaleT sc.fmt))

/-- The exponent that a half holds for the tensor of entry `e` of the active half, in an automatic entry in use: its own entry where that
names the tensor, else the first that does. -/
def heldExp (s : State) (old : Half) (e : Nat) : Option Int :=
  let ts := (scaleEntry s.activeHalf e).tensor
  let auto (k : Nat) : Bool := (scaleEntry old k).auto && scaleUsed (scaleEntry old k) && (scaleEntry old k).tensor == ts
  ((e :: listedEntries old).find? auto).map (fun k => (scaleEntry old k).exp)

/-- Exponents at edge `n` of the tensors whose history holds a maximum: derived where no entry of an earlier bell is outstanding, else as
they were, from half `old` where the halves swapped (R62, R64). -/
def deriveExps (s : State) (n : Nat) (old : Half) : State :=
  let stay := s.replays.any (fun p => decide (p.bell < n) && !stepDone s p && !p.abandoned)
  (autoEntries s).foldl (fun s e =>
    match historyMax s s.activeHalf e n with
    | none => s
    | some h =>
      if stay then (match heldExp s old e with | some v => putExp s e v | none => s)
      else putExp s e (derivedExp (scaleEntry s.activeHalf e) h)) s

/-- The histories and exponents at edge `n` that follows bell `prev`, when `had` says that an edge began `prev` (R60 to R64). -/
def edgeScales (s : State) (n prev : Nat) (had : Bool) (old : Half) : State :=
  let due := (s.replays.filter (fun p => stepDone s p && !p.abandoned && decide (p.bell < n))).map (·.bell)
  let due := if had && decide (prev < n) && !s.replays.any (fun p => p.bell == prev) then due ++ [prev] else due
  let s := deriveExps (due.foldl enterBell s) n old
  { s with tensors := s.tensors.filter (fun t => decide (n ≤ t.bell + 5)) }

/-! ### Reports, overrun and replay (R245, R248, R253, R275, R278 to R282) -/

/-- Where the report of an edge goes; none where no step ring is enabled or RPT_EN is 0 (R248). -/
def reportDest (s : State) : Option ReportDest :=
  match stepRing s with
  | some q =>
    let cfg := rd s (ringReg q ringRptCfg)
    if bit cfg 31 then some ⟨q, cfg, rd64 s (ringReg q ringRptBaseLo), ringJob s q⟩ else none
  | none => none

/-- The report of bell `prev` closes where it is due, and that of bell `n` begins (R248, R253, R278). -/
def turnReport (s : State) (n prev : Nat) (had : Bool) : State :=
  let dest := if had then reportDest s else none
  let r := { reportOf s prev with closed := true, overrun := bellUnfinished s prev, dest := dest }
  { s with reports := (if dest.isSome then [r] else []) ++ [emptyReport n] }

/-- The settings of the bell that ends are held, whether an edge has followed another or the bell was off between them while step work ran
on. A copy is kept while its bell's step work is unfinished, and those of the last four bells
for what else still reads them (R275, R282). -/
def holdSettings (s : State) (n prev : Nat) (had : Bool) : State :=
  let h := if (had || bellUnfinished s prev) && !s.held.any (fun e => e.1 == prev) then (prev, s.activeHalf) :: s.held else s.held
  { s with held := h.filter (fun e => e.1 != n && (decide (n ≤ e.1 + 4) || bellUnfinished s e.1)) }

/-- Step work four bells behind halts the step ring, and the outstanding scale histories are given up (R62, R282). -/
def overrunTest (s : State) (n : Nat) : State :=
  let s := { s with replays := modWhere s.replays (fun p => !stepDone s p && decide (p.bell < n)) (fun p => { p with overran := true }) }
  if s.replays.any (fun p => !stepDone s p && decide (p.bell + 4 ≤ n)) then
    let s := { s with replays := modWhere s.replays (fun p => !stepDone s p) (fun p => { p with abandoned := true }) }
    match stepRing s with
    | some r => haltRing s r 0x0D (sqHead s r)
    | none => s
  else s

/-- The pool records of bell `n` read at its edge, the bad ones counted (R307, R308). -/
def edgePool (s : State) (n : Nat) : List PoolRec × State :=
  let s := strikePool s n
  let recs := readPool s n
  (recs, countBy s (glbReg glbPoolBad) (recs.filter (·.bad)).length)

/-- The replay of bell `n` starts (R245, R281); a catch-up bell acts on none of its records (R316). -/
def beginReplay (s : State) (n : Nat) (catchup : Bool) (recs : List PoolRec) : State :=
  match stepRing s with
  | none => s
  | some r =>
    if stateOfRing s r != 1 then s
    else
      let h := settingsOf s n
      let w := setting h setStepCount
      let m := ringSlots s r
      let s := if catchup then modReport s n (fun r => { r with skippedMb := r.skippedMb + bits (setting h setMbCount) 10 0 }) else s
      let p : Replay :=
        { bell := n, next := if catchup then bits w 26 16 else 0, count := min 1024 (bits w 10 0), base := setting64 h setStepProgLo,
          stopped := false, catchup := catchup, inflight := [], subst := [], made := 0, skipAt := false,
          records := if catchup then [] else recs, failed := 0, overran := false, ended := false, ahead := (sqTail s r + m - sqHead s r) % m }
      settleReplays { s with replays := s.replays.filter (fun q => q.bell != n) ++ [p] }

/-- WAIT_BELLs whose edge this is end (Table 8.6). -/
def endWaits (s : State) (n : Nat) : State :=
  (List.range 64).foldl (fun s r =>
    ((ringAt s r).inflight.filter (fun d => d.op == 4 && d.progress == .running && decide (leAt d.bytes 8 8 ≤ n))).foldl
      (fun s d => endDesc s (d.key (.ring r) 0) 0 0 0) s) s

/-! ### The timer (R263 to R266) -/

/-- An edge that no message named in time is counted; the third in a row loses the lock (R264). -/
def missEdge (s : State) (n : Nat) : State :=
  let s := modBell (count s (bellReg bellMissed)) (fun b => { b with misses := b.misses + 1 })
  if s.bell.misses = 3 then
    submitEvent (bellFlag (setLocked s false) 23) 0x7003 0 0x0D (leBytes 4 0 ++ leBytes 8 n)
  else s

/-- The timer after edge `n` at time `t`: `master` is the role in which it was made, `jump` says that its number was adopted. -/
def edgeTimer (s : State) (n t : Nat) (master jump : Bool) : State :=
  let s := if master then modBell (setLocked s true) (fun b => { b with misses := 0 })
    else if s.bell.timely then modBell s (fun b => { b with misses := 0 })
    else missEdge s n
  let s := if jump && !master then bellFlag s 23 else s
  let own := periodUs s.activeHalf
  let s := match s.bell.period with
    | some p => if p = own then s else count s (bellReg bellPeriodMismatch)
    | none => s
  modBell s (fun b => { b with
    next := some (n + 1, b.anchor.getD t + b.period.getD own * clocksPerUs), lastEdge := some (n, t), begun := some (n, t), placed := false, timely := false,
    period := none, anchor := none })

/-- BELL_OUT is driven low from an edge of the master (R266). -/
def driveOut (s : State) : State :=
  if flag s (bellReg bellBellCtrl) 29 then emit (modBell s (fun b => { b with outLow := true })) (.bellOut true) else s

/-! ### The edge (R258) -/

/-- The actions of edge `n` in the order of Table 9.1. A report of the bell before that is still unwritten is written first. -/
def edgeActions (s : State) (v : HostView) (n t : Nat) : State :=
  let s := settleReplays (reportWriteEffect (advanceTo s t))
  let prev := bellNum s
  let had := s.bell.lastEdge.isSome
  let master := isMaster s
  let old := s.activeHalf
  let s := wr64 s (bellReg bellBellNumLo) n
  let s := turnReport (holdSettings s n prev had) n prev had
  let s := overrunTest (edgeSwap s n) n
  let s := edgeScales s n prev had old
  let s := releasePools s
  let s := { s with replays := s.replays.filter (fun p => !stepDone s p) }
  let catchup := s.replays.any (fun p => decide (p.bell < n))
  let (recs, s) := edgePool s n
  let s := endWaits (beginReplay s n catchup recs) n
  let s := bucketEdge s v n catchup
  let s := graceEdge (marketEdge (barnEdge s n) n) n
  let s := edgeTimer s n t master (had && n != prev + 1)
  showBehind (if master then driveOut s else s)

/-- BELL_EDGE: the edge that is due; with SRC = 1 a module that is not master waits for BELL_IN (R266). -/
def edgeEffect (s : State) (v : HostView) : State :=
  match s.bell.next with
  | none => s
  | some (n, t) =>
    if !bellOn s || (flag s (bellReg bellBellCtrl) 30 && !isMaster s && !s.bell.placed) then s
    else edgeActions s v n t

/-- BELL_EDGE (R258). -/
def execBellEdge (host : HostView) (up : Upset) (s : State) : Host.Outcome State Fault Refusal :=
  .next (if live s then edgeEffect (plant s up) host else s)

/-- PENDING_SYNC_COPY (R272). -/
def execPendingSyncCopy (s : State) : Host.Outcome State Fault Refusal :=
  .next (if live s && flag s (bellReg bellBellStatus) 27 then copyPending s else s)

end Sys2Proof.Machine
end

