-- ==== Sys2Proof/Machine/Bell.lean ====
section
/-! DEFINITION. The bell's start and stop, arms, bell messages and the bell pins (R261, R262, R264 to R267, R269, R270). -/

namespace Sys2Proof.Machine

/-! ### BELL_CTRL and ARM_CTRL (R267, R269, R270) -/

/-- The bell starts: the master's first edge falls LEAD µs later and carries START, another module waits for a message. -/
def bellStart (s : State) : State :=
  let next := if isMaster s then some (rd64 s (bellReg bellStartLo), s.now + leadClocks s) else none
  modBell s (fun b => { b with next := next, placed := false, timely := false, period := none, anchor := none, lastEdge := none, misses := 0 })

/-- The bell stops: no further edge, and LOCKED and HOLDOVER clear. -/
def bellStop (s : State) : State :=
  modBell (bellBit (bellBit s 31 false) 30 false) (fun b =>
    { b with next := none, placed := false, timely := false, period := none, anchor := none, lastEdge := none, misses := 0 })

/-- A write of BELL_CTRL. -/
def bellCtrlWrite (s : State) (val : Nat) : State :=
  let was := bellOn s
  let s := wr s (bellReg bellBellCtrl) (bits val 31 29 * 2 ^ 29 + bits val 9 0)
  if bellOn s == was then s else if was then bellStop s else bellStart s

/-- DISARM (R270). -/
def disarmEffect (s : State) : State := modBell s (fun b => { b with armed := none })

/-- ARM: it stands until an edge, or swaps at once while the bell is off (R269, R270). An arm is late once its edge has passed. -/
def armEffect (s : State) : State :=
  if !bellOn s then swapNow s
  else
    let t := rd64 s (bellReg bellArmLo)
    modBell s (fun b => { b with armed := some (t, b.lastEdge.isSome && decide (t ≤ bellNum s)) })

/-- A write of ARM_CTRL: DISARM first, then ARM (R270). -/
def armCtrlWrite (s : State) (val : Nat) : State :=
  let s := if bit val 30 then disarmEffect s else s
  if bit val 31 then armEffect s else s

/-! ### Bell messages (Table 9.2, R261, R262, R264, R265) -/

/-- A bell message. -/
structure BellMsg where
  hops : Nat
  bell : Nat
  remain : Int
  period : Nat
  master : Coord
  site : Nat
  deriving DecidableEq, Repr

/-- The 32 bytes of a bell message. -/
def BellMsg.bytes (m : BellMsg) : List Byte :=
  [1, 1] ++ leBytes 2 m.hops ++ leBytes 8 m.bell ++ leBytes 4 (unsigned 32 m.remain) ++ leBytes 4 m.period ++ leBytes 3 (coordBits m.master) ++
  leBytes 1 m.site ++ leBytes 8 0

/-- A bell message read from a packet's data; none where a field holds a reserved value. -/
def BellMsg.ofBytes (b : List Byte) : Option BellMsg :=
  if b.length ≠ 32 ∨ leAt b 0 1 ≠ 1 ∨ leAt b 1 1 ≠ 1 ∨ leAt b 16 4 / 2 ^ 26 ≠ 0 ∨ leAt b 24 8 ≠ 0 then none
  else some { hops := leAt b 2 2, bell := leAt b 4 8, remain := signed 32 (leAt b 12 4), period := leAt b 16 4,
              master := coordOf (leAt b 20 3), site := leAt b 23 1 }

/-- A coordinate with one dimension replaced. -/
def withDim (c : Coord) (d v : Nat) : Coord := if d = 0 then { c with x := v } else if d = 1 then { c with y := v } else { c with z := v }

/-- The neighbours to which this module passes a message of master `m`: those whose dimension-order route from the master has its last
hop from here (R261). -/
def treeNext (s : State) (m : Coord) : List Coord :=
  let own := ownXyz s
  ([0, 1, 2] : List Nat).flatMap (fun d =>
    let n := torusSize s d
    ([true, false] : List Bool).filterMap (fun plus =>
      let q := withDim own d (if plus then (coordDim own d + 1) % n else (coordDim own d + n - 1) % n)
      let k := (coordDim q d + n - coordDim m d % n) % n
      let later := ([0, 1, 2] : List Nat).all (fun e => decide (e ≤ d) || coordDim own e == coordDim m e)
      if decide (1 < n) && k != 0 && (decide (2 * k ≤ n) == plus) && later then some q else none))

/-- A bell message sent to the neighbours of the tree. -/
def sendBell (s : State) (m : BellMsg) : State :=
  (treeNext s m.master).foldl (fun s q => launch s none (message s 0x31 q 0 m.bytes)) s

/-- The PERIOD that the master expects at edge `n`: of the pending half where an arm is due by then (R265). -/
def announcedPeriod (s : State) (n : Nat) : Nat :=
  match s.bell.armed with
  | some (t, _) => if t ≤ n then periodUs s.pendingHalf else periodUs s.activeHalf
  | none => periodUs s.activeHalf

/-- The master sends the message for its next edge, LEAD µs ahead (R261). -/
def bellSendEffect (s : State) : State :=
  match s.bell.next with
  | none => s
  | some (n, t) =>
    if !bellOn s || !isMaster s || s.bell.timely then s
    else
      let s := advanceTo s (t - leadClocks s)
      let s := modBell s (fun b => { b with timely := true })
      sendBell s { hops := 0, bell := n, remain := (t - s.now : Nat) * 10000 / 17, period := announcedPeriod s n, master := ownXyz s,
                   site := ownSite s }

/-- Picoseconds as clocks, to the nearest (R262). -/
def psToClocks (ps : Int) : Int := (2 * 17 * ps + 10000) / 20000

/-- The time of the next edge when a message gives `te`: an edge that BELL_IN has placed keeps its own (R266). -/
def BellUnit.keptTime (b : BellUnit) (te : Nat) : Nat :=
  match b.next with
  | some (_, t) => if b.placed then t else te
  | none => te

/-- The next edge placed by a message in time (R262, R263); an edge that BELL_IN has placed keeps its time (R266). -/
def placeEdge (s : State) (m : BellMsg) (te : Nat) : State :=
  setLocked (modBell s (fun b => { b with next := some (m.bell, s.bell.keptTime te), timely := true, period := some m.period })) true

/-- LAST_CORR after the next edge has moved from time `t` to time `u`, in ps. -/
def noteCorr (s : State) (t u : Nat) : State := wr s (bellReg bellLastCorr) (unsigned 32 (((u : Int) - t) * 10000 / 17))

/-- LAST_CORR after a message that gives time `u` for the edge that stood at `t`; an edge that BELL_IN has placed has not moved (R266). -/
def noteMoved (s : State) (t u : Nat) : State := if s.bell.placed then s else noteCorr s t u

/-- The edge after `n` placed from the time that a late message gives, plus the period (R264, R266). -/
def placeAfter (s : State) (n te p : Nat) : State :=
  modBell s (fun b => { b with next := some (n + 1, b.keptTime (te + p * clocksPerUs)) })

/-- A bell message acted on by a module that is not the master; `te` is the edge time it gives (R262, R264, R265). An edge that it names too
late is a miss like one that no message named. -/
def takeBell (s : State) (m : BellMsg) (te : Nat) : State :=
  let early : Bool := decide (s.now < te)
  match s.bell.next with
  | none => if early then placeEdge s m te else placeAfter (missEdge s m.bell) m.bell te m.period
  | some (n, t) =>
    if s.bell.lastEdge.isSome && m.bell == bellNum s then
      noteMoved (placeAfter s m.bell te m.period) t (te + m.period * clocksPerUs)
    else if early then noteMoved (placeEdge s m te) t te
    else if m.bell = n then noteMoved (modBell s (fun b => { b with anchor := some te, period := some m.period })) t te
    else noteMoved (placeAfter (missEdge s m.bell) m.bell te m.period) t (te + m.period * clocksPerUs)

/-- The measured delay of the link that a packet arrived on, in ps (R359). -/
def arrivalDelay (s : State) (i : InPkt) : Nat := match i.port with | some p => rd s (portReg p portLinkDelay) | none => 0

/-- REMAIN of a received message less the delay of the link it arrived on: from its receipt to the edge, in ps (Table 9.2, R262, R263). -/
def remainHere (s : State) (i : InPkt) (m : BellMsg) : Int := m.remain - arrivalDelay s i

/-- BELL_MESSAGE_RECEIVE: the message is passed on with REMAIN corrected, then acted on (R262). -/
def bellReceiveEffect (s : State) : State :=
  match nextOf s 0x31 (fun _ => true) with
  | none => s
  | some i =>
    let s := consume s i
    match BellMsg.ofBytes i.pkt.data with
    | none => s
    | some m =>
      let residence : Nat := (s.now - i.at_) * 10000 / 17
      let s := sendBell s { m with hops := (m.hops + 1) % 65536, remain := remainHere s i m - residence }
      if bellOn s && !isMaster s then takeBell s m ((i.at_ : Int) + psToClocks (remainHere s i m)).toNat else s

/-! ### The pins (R266) -/

/-- A falling edge on BELL_IN places the next edge, once its number is known. -/
def bellInEffect (s : State) : State :=
  match s.bell.next with
  | none => s
  | some (n, t) =>
    if !bellOn s || !flag s (bellReg bellBellCtrl) 30 || isMaster s then s
    else
      let u := s.now + (fld s (bellReg bellBellInDelay) 15 0 * 17 + 5) / 10
      noteCorr (modBell s (fun b => { b with next := some (n, u), placed := true })) t u

/-- BELL_OUT is released, where it is driven (R266, Table 19.4). -/
def releaseBellOut (s : State) : State :=
  if s.bell.outLow then emit { s with bell := { s.bell with outLow := false } } (.bellOut false) else s

/-! ### The commands -/

/-- BELL_MESSAGE_SEND (R261). -/
def execBellMessageSend (s : State) : Host.Outcome State Fault Refusal := .next (if live s then bellSendEffect s else s)

/-- BELL_MESSAGE_RECEIVE (R262). -/
def execBellMessageReceive (s : State) : Host.Outcome State Fault Refusal := .next (if live s then bellReceiveEffect s else s)

/-- BELL_IN_FALL (R266). -/
def execBellInFall (s : State) : Host.Outcome State Fault Refusal := .next (if live s then bellInEffect s else s)

/-- BELL_OUT_RELEASE (R266): the pulse's 1 µs is over, under PERST_N too (R554). -/
def execBellOutRelease (s : State) : Host.Outcome State Fault Refusal := .next (releaseBellOut s)

end Sys2Proof.Machine
end

