-- ==== Sys2Proof/Machine/Cases.lean ====
section
/-! DEFINITION. The integrity controller's commands: reported faults, the notices of Table 17.3 as they arrive, and the witness's replays (R503,
R511, R517 to R522, R526). -/

namespace Sys2Proof.Machine

/-- Step work of bell `n` is known here: its report is open or its replay runs. -/
def bellKnown (s : State) (n : Nat) : Bool := s.reports.any (fun r => r.bell == n) || s.replays.any (fun p => p.bell == n)

/-- A fault reported in step work of a bell (R511, Table 17.2): for cause 0x07 `desc` is the slot, which has an instance (R502). Reserved causes are not acted on. -/
def reportEffect (s : State) (r : FaultReport) : State :=
  if r.cause = 7 then (if (instanceOf s r.bell r.desc).isSome then reduceFault s r.bell r.desc else s)
  else if !bellKnown s r.bell || r.cause == 0 || decide (8 < r.cause) then s
  else if r.cause = 8 then
    stepFault (count s (intReg intNormExc)) r.bell r.desc 8 r.core r.unit r.array
      (some (List.range (bits (setting (settingsOf s r.bell) setMbCount) 10 0)))
  else
    let s := if r.cause = 5 then count s (intReg intPoisonReplay) else s
    stepFault s r.bell r.desc r.cause r.core r.unit r.array none

/-- A control-path parity error (R503): a case in step work, else counted and recorded. -/
def parityEffect (s : State) (bell : Option Nat) (core unit desc : Nat) : State :=
  match bell with
  | some n => if bellKnown s n then stepFault s n desc 6 core unit 0 none else s
  | none => submitEvent (count s (intReg intParityErr)) 0x5005 0 5 []

/-! ### Notices (R517 to R522, R526) -/

/-- The next REVOKE packet: a notice of one kind is acted on by `f`, a reserved or malformed one is discarded and counted (R526). -/
def noticeEvent (s : State) (kind : Nat) (f : State → Notice → Coord → State) : Host.Outcome State Fault Refusal :=
  .next (if !live s then s
    else
      match nextOf s 0x32 (fun p => !Notice.good p.data || leAt p.data 0 1 == kind) with
      | none => s
      | some i =>
        let s := consume s i
        if Notice.good i.pkt.data then f s (Notice.ofBytes i.pkt.data) i.pkt.src
        else logError s 0x11 0 (coordBits i.pkt.src))

/-- HOLD: acknowledged at once, and the case is held open (R520). -/
def holdNotice (s : State) (n : Notice) (src : Coord) : State :=
  let s := count s (intReg intHoldsReceived)
  let s := { s with integrity := { s.integrity with held := s.integrity.held ++ [⟨n.suspect, n.bell, n.num, n.group, n.dp⟩] } }
  sendNotice s src { n with notice := 2, kind := 0 }

/-- HOLD_ACK: the last one of a case resumes sends and asks for the replays (R517, R519). -/
def holdAckNotice (s : State) (n : Notice) (src : Coord) : State :=
  acksIn (modCase s n.bell n.num (fun c => { c with acks := c.acks.erase src })) n.bell n.num

/-- The next waiting request starts where none runs: it is written to REPLAY_BOX and the replay program begins (R517). -/
def startRequest (s : State) : State :=
  match s.integrity.requests, s.integrity.replaying with
  | req :: rest, none =>
    let n := leAt req 8 8
    let s := { s with integrity := { s.integrity with requests := rest, replaying := some req } }
    let s := devWrite s (intAddr s n setIntReplayBoxLo) req false
    let s := strikePool s n
    let p : Replay :=
      { bell := n, next := 0, count := min 1024 (bits (intSetting s n setIntReplayCount) 10 0), base := intAddr s n setIntReplayProgLo,
        stopped := false, catchup := false, inflight := [], subst := [], made := 0, skipAt := false, records := readPool s n,
        failed := 0, overran := false, ended := false }
    { s with witness := some p }
  | _, _ => s

/-- REPLAY_REQ at the witness (R517). -/
def replayNotice (s : State) (n : Notice) (_src : Coord) : State :=
  startRequest { s with integrity := { s.integrity with requests := s.integrity.requests ++ [n.bytes] } }

/-- Bytes of a digest record (Table 17.6). -/
def digestBytes : Nat := 128

/-- Where the digest record of a replay of bell `n` lies in REPLAY_BOX (Table 17.6). -/
def ownDigestAt (s : State) (n : Nat) : Nat := intAddr s n setIntReplayBoxLo + 64

/-- The verdict of a replay (R518): `theirs` is the suspect's digest record, none where it could not be read or was poisoned (UNABLE; DESIGN
CHOICE, log entry 56). -/
def verdictOf (s : State) (p : Replay) (theirs : Option (List Byte)) : Nat :=
  let a := ownDigestAt s p.bell
  let mine := readMem s.mem a 128
  match theirs with
  | none => 3
  | some d =>
    if p.failed != 0 || rangePoisoned s a 128 || s.integrity.cases.any (fun c => c.bell == p.bell && c.open_) then 3
    else if mine.take 64 != d.take 64 then 2
    else if mine.drop 64 != (padTo 128 d).drop 64 then 1
    else 0

/-- A replay of the witness has ended: it reads the suspect's digest record of the micro-batch (R518), as soon as a READ_REQ has a tag. -/
def replayEndEffect (s : State) : State :=
  match s.witness, s.integrity.replaying, readTag s digestBytes with
  | some p, some req, some tag =>
    if !p.finished || s.requests.any (fun q => q.kind == .digest) then s
    else
      let n := Notice.ofBytes req
      let q : FabReq := { tag := tag, kind := .digest, target := n.suspect, read := true, dests := [] }
      launch { s with requests := s.requests ++ [q] } none
        { barePacket 2 n.suspect (ownXyz s) tag 0 with addr := n.digests + digestBytes * n.slotMb }
  | _, _, _ => s

/-- The suspect's digest record has been answered: VERDICT is sent and the next request starts (R518). -/
def digestAnswered (s : State) (theirs : Option (List Byte)) : State :=
  match s.witness, s.integrity.replaying with
  | some p, some req =>
    let n := Notice.ofBytes req
    let s := meetMem (count s (intReg intReplaysRun)) (ownDigestAt s p.bell) digestBytes
    let s := sendNotice s n.suspect { n with notice := 4, kind := verdictOf s p theirs }
    startRequest { s with witness := none, integrity := { s.integrity with replaying := none } }
  | _, _ => s

/-- How the case closes once every verdict of its range is in (R518): 0 CONFIRM, 1 REPLACE, 2 DROP. -/
def closureOf (c : OwnCase) : Nat :=
  if c.verdicts.all (fun v => v.2 == 0) ∧ c.cause ≠ 5 then 0
  else if c.verdicts.all (fun v => decide (v.2 < 2)) then 1
  else 2

/-- VERDICT at the suspect (R518, R521). -/
def verdictNotice (s : State) (n : Notice) (_src : Coord) : State :=
  match s.integrity.cases.find? (fun c => c.bell == n.bell && c.num == n.num && c.open_) with
  | none => count s (intReg intLateVerdict)
  | some c =>
    let vs := c.verdicts.filter (fun v => v.1 != n.slotMb) ++ [(n.slotMb, n.kind)]
    let c := { c with verdicts := vs }
    let s := modCase s n.bell n.num (fun c => { c with verdicts := vs })
    if c.range.all (fun m => vs.any (fun v => v.1 == m)) then closeCase s n.bell n.num (closureOf c) else s

/-- Reads of marks that arrived from the suspect become consumption where no case of it is held open any more (R509). -/
def settleFlitUses (s : State) (n : Nat) (suspect : Coord) : State :=
  if s.integrity.held.any (fun h => h.bell == n && h.suspect == suspect) then s
  else
    let mine (u : PendingUse) : Bool := u.bell == n && u.origin.ofModule suspect
    let keep (u : PendingUse) : Bool := u.results && !summaryFinal s n
    let us := s.integrity.pendingUse.filter (fun u => mine u && !keep u)
    us.foldl (fun s u => consumed s u.job (64 * u.block) u.origin)
      { s with integrity := { s.integrity with pendingUse := s.integrity.pendingUse.filter (fun u => !mine u || keep u) } }

/-- CLOSE of a case held here (R518, R520, R522). -/
def closeEffect (s : State) (n : Notice) (_src : Coord) : State :=
  let mine (h : HeldCase) : Bool := h.suspect == n.suspect && h.bell == n.bell && h.num == n.num
  if !s.integrity.held.any mine then s
  else
    let s := { s with integrity := { s.integrity with held := s.integrity.held.filter (fun h => !mine h) } }
    let s := applyClosure s n.bell n.kind n.group n.dp n.slotMb n.suspect false
    advanceBell (settleFlitUses s n.bell n.suspect) n.bell

/-! ### Commands -/

/-- CHECK_FAILURE_REPORT (R511). -/
def execCheckFailureReport (report : FaultReport) (s : State) : Host.Outcome State Fault Refusal :=
  .next (if live s then reportEffect s report else s)

/-- PARITY_ERROR (R503). -/
def execParityError (stepBell : Option Nat) (core unit desc : Nat) (s : State) : Host.Outcome State Fault Refusal :=
  .next (if live s then parityEffect s stepBell core unit desc else s)

/-- HOLD (R520). -/
def execHold (s : State) : Host.Outcome State Fault Refusal := noticeEvent s 1 holdNotice

/-- HOLD_ACK (R519). -/
def execHoldAck (s : State) : Host.Outcome State Fault Refusal := noticeEvent s 2 holdAckNotice

/-- REPLAY_REQ (R517). -/
def execReplayReq (s : State) : Host.Outcome State Fault Refusal := noticeEvent s 3 replayNotice

/-- REPLAY_END (R518). The suspect's digest record comes with the READ_RESP, so `_digest` has no part in it (log entry 56). -/
def execReplayEnd (_digest : Option (List Byte)) (s : State) : Host.Outcome State Fault Refusal :=
  .next (if live s then replayEndEffect s else s)

/-- VERDICT (R518). -/
def execVerdict (s : State) : Host.Outcome State Fault Refusal := noticeEvent s 4 verdictNotice

/-- CLOSE (R522). -/
def execCloseNotice (s : State) : Host.Outcome State Fault Refusal := noticeEvent s 5 closeEffect

end Sys2Proof.Machine
end

