-- ==== Sys2Proof/Machine/Recorder.lean ====
section
/-! DEFINITION. The event recorder and the journal (chapter 18): operating time, entries, merging, the configuration store, compaction
and what the management controller does with the journal when it boots. -/

namespace Sys2Proof.Machine

/-! ### Entries -/

/-- The TIME field of Table 18.3. -/
def timeField (t : Nat × Nat) : Nat := t.1 * 4096 + t.2

/-- An entry of Table 18.3 with its CRC. -/
def entryBytes (code source seq : Nat) (time : Nat × Nat) (pcc rep status : Nat) (payload : List Byte) : List Byte :=
  let b := leBytes 2 code ++ leBytes 2 source ++ leBytes 4 seq ++ leBytes 5 (timeField time) ++ leBytes 3 pcc ++ leBytes 2 rep ++
    leBytes 1 status ++ [0] ++ padTo 40 payload
  b ++ leBytes 4 (crc32c b)

/-- An entry is valid when its CRC matches (R533). -/
def entryValid (e : List Byte) : Bool := e.length == 64 && leAt e 60 4 == crc32c (e.take 60)

/-- CODE of an entry. -/
def entryCode (e : List Byte) : Nat := leAt e 0 2
/-- SEQ of an entry. -/
def entrySeq (e : List Byte) : Nat := leAt e 4 4
/-- REPEAT of an entry. -/
def entryRepeat (e : List Byte) : Nat := leAt e 16 2

/-- The active journal bank. -/
def activeJournal (r : Recorder) : Journal := if r.activeBank = 0 then r.bank0 else r.bank1

/-- The recorder with the active bank changed. -/
def modJournal (r : Recorder) (f : Journal → Journal) : Recorder :=
  if r.activeBank = 0 then { r with bank0 := f r.bank0 } else { r with bank1 := f r.bank1 }

/-- The valid entries of a bank, in journal order. -/
def validEntries (j : Journal) : List (List Byte) := j.entries.filter entryValid

/-- The event records of a bank (Table 18.3). -/
def eventRecords (j : Journal) : List (List Byte) := (validEntries j).filter (fun e => decide (entryCode e < 0xF000))

/-- The housekeeping entries of one code. -/
def houseEntries (j : Journal) (code : Nat) : List (List Byte) := (validEntries j).filter (fun e => entryCode e == code)

/-- The newest event record of a bank. -/
def newestRecord (j : Journal) : Option (List Byte) := (eventRecords j).getLast?

/-- The REPEAT of a record: the largest of its own field and every valid REPEAT entry that names it (R535). -/
def journalRepeat (j : Journal) (e : List Byte) : Nat :=
  ((houseEntries j 0xF001).filter (fun h => leAt h 20 4 == entrySeq e)).foldl (fun m h => max m (leAt h 24 2)) (entryRepeat e)

/-- The REPEAT of a record as the register view shows it, a merge whose entry is not yet written included (R534). -/
def liveRepeat (r : Recorder) (e : List Byte) : Nat :=
  let j := activeJournal r
  let m := journalRepeat j e
  match r.merged with
  | some k => if (newestRecord j).map entrySeq = some (entrySeq e) then max m k else m
  | none => m

/-- A record with its REPEAT replaced and a new CRC (R540). -/
def withRepeat (e : List Byte) (n : Nat) : List Byte :=
  let b := e.take 16 ++ leBytes 2 n ++ slice e 18 42
  b ++ leBytes 4 (crc32c b)

/-- Entry positions of a bank (R532). -/
def bankPositions : Nat := 262143
/-- Entries at which compaction starts (R540). -/
def compactAt : Nat := 196608

/-- The CRC of a bank header with these fields (Table 18.2). -/
def headerCrc (magic gen : Nat) : Nat := crc32c (leBytes 4 magic ++ leBytes 4 gen)

/-- A bank erased and its header programmed (R540, R542). -/
def formatted (gen : Nat) (state : JournalState) : Journal :=
  { magic := 0x4A524E31, gen := gen, state := state, crc := headerCrc 0x4A524E31 gen, entries := [] }

/-- The 64 bytes of a bank's header (Table 18.2). -/
def headerBytes (j : Journal) : List Byte :=
  leBytes 4 j.magic ++ leBytes 4 j.gen ++
  leBytes 1 (match j.state with | .erased => 0xFF | .copying => 0x7F | .active => 0x3F | .retired => 0x1F) ++
  List.replicate 51 0xFF ++ leBytes 4 j.crc

/-- The recorder with the bank that is not active changed. -/
def modSpare (r : Recorder) (f : Journal → Journal) : Recorder :=
  if r.activeBank = 0 then { r with bank1 := f r.bank1 } else { r with bank0 := f r.bank0 }

/-- Step 1 of a compaction: the other bank, erased by now, takes its header with GEN + 1 and STATE COPYING (R540). -/
def startCompaction (r : Recorder) : Recorder :=
  modSpare { r with compacting := true } (fun _ => formatted (((activeJournal r).gen + 1) % 2 ^ 32) .copying)

/-- One entry programmed at the end of the active bank; at the threshold a compaction starts (R533, R540). A full bank takes none. -/
def programEntry (r : Recorder) (e : List Byte) : Recorder :=
  if bankPositions ≤ (activeJournal r).entries.length then r
  else
    let r := modJournal r (fun j => { j with entries := j.entries ++ [e] })
    if compactAt ≤ (activeJournal r).entries.length ∧ !r.compacting then startCompaction r else r

/-- A housekeeping entry of Table 18.4 written now. -/
def writeHouse (s : State) (code : Nat) (payload : List Byte) : State :=
  { s with recorder := programEntry s.recorder (entryBytes code 0x7000 0xFFFFFFFF (opTime s) s.recorder.pcc 0 0 payload) }

/-- The REPEAT entry of a merge written, where one is outstanding (R534). -/
def writeRepeat (s : State) : State :=
  match s.recorder.merged, newestRecord (activeJournal s.recorder) with
  | some k, some e =>
    let s := writeHouse s 0xF001 (leBytes 4 (entrySeq e) ++ leBytes 2 k)
    { s with recorder := { s.recorder with merged := none } }
  | _, _ => { s with recorder := { s.recorder with merged := none } }

/-- A new event record (R533): SEQ counts over the life of the journal, the time is that of the event's occurrence (R535). -/
def writeRecord (s : State) (e : EventRec) : State :=
  let r := s.recorder
  let r := programEntry r (entryBytes e.code e.source r.nextSeq e.time r.pcc 1 e.status e.payload)
  { s with recorder := { r with nextSeq := (r.nextSeq + 1) % 2 ^ 32, written := satAdd r.written 1 } }

/-- An event identical to a record (R534). -/
def identical (e : EventRec) (rec : List Byte) : Bool :=
  entryCode rec == e.code && leAt rec 2 2 == e.source && leAt rec 18 1 == e.status && slice rec 20 40 == padTo 40 e.payload

/-- The recorder may write: the management controller is powered, and no compaction holds events back (R540). That it records while it
boots and in recovery mode too is the model's reading (log entry 43). -/
def recorderFree (s : State) : Bool := s.power.mc != .off && !s.recorder.compacting

/-- The next event taken from the queue (R534, R536): merged into the newest record, or written as a new one, after an outstanding REPEAT
entry and, once events were lost, after event 0x7001. -/
def recordEvent (s : State) : State :=
  match s.recorder.queue with
  | [] => s
  | e :: rest =>
    if !recorderFree s then s
    else
      let newest := newestRecord (activeJournal s.recorder)
      match newest.filter (identical e) with
      | some rec =>
        { s with recorder := { s.recorder with
          queue := rest
          merged := some (min 65535 (liveRepeat s.recorder rec + 1))
          mergedCount := satAdd s.recorder.mergedCount 1 } }
      | none =>
        let s := writeRepeat s
        if !recorderFree s then s
        else if s.recorder.lost ≠ 0 then
          let n := s.recorder.lost
          let s := writeRecord s (eventNow s 0x7001 0x7000 0 (leBytes 4 n))
          { s with recorder := { s.recorder with lost := 0 } }
        else
          let s := writeRecord s e
          { s with recorder := { s.recorder with queue := rest } }

/-- The operating time carried over to now, and a TIME entry (R539). -/
def writeTime (s : State) : State :=
  let t := opTime s
  let since := s.recorder.since + (s.now - s.recorder.since) / clocksPerSecond * clocksPerSecond
  let s := { s with recorder := { s.recorder with hours := t.1, seconds := t.2, since := since } }
  writeHouse s 0xF003 []

/-! ### The configuration store (R537) -/

/-- The keys that are present, with their values, in ascending key order. -/
def configKeys (j : Journal) : Sparse (List Byte) :=
  (houseEntries j 0xF002).foldl (fun m e =>
    let k := leAt e 20 2
    let len := leAt e 22 1
    let m : Sparse (List Byte) := m.filter (fun x => x.1 != k)
    if len = 0xFF then m
    else m.filter (fun x => decide (x.1 < k)) ++ [(k, slice e 23 (min len 37))] ++ m.filter (fun x => decide (k < x.1))) []

/-- The value of a configuration key. -/
def configValue (s : State) (k : Nat) : Option (List Byte) :=
  ((configKeys (activeJournal s.recorder)).find? (fun e => e.1 == k)).map (·.2)

/-- A CONFIG entry (Table 18.4). -/
def configPayload (k : Nat) (v : Option (List Byte)) : List Byte :=
  match v with
  | some bs => leBytes 2 k ++ leBytes 1 bs.length ++ bs
  | none => leBytes 2 k ++ [0xFF]

/-- Status codes of the management path (Table 8.10): OK and DESCRIPTOR_INVALID. -/
def mgmtOk : Nat := 0
/-- DESCRIPTOR_INVALID. -/
def mgmtInvalid : Nat := 0x0E

/-- A configuration write (R537, R566): refused above 4,096 keys, for a value over 37 bytes, and for key 0x0010 while it is present;
deleting key 0x0010 erases every slot of the key store. -/
def configWriteEffect (s : State) (k : Nat) (v : Option (List Byte)) : State :=
  let keys := configKeys (activeJournal s.recorder)
  let present := keys.any (fun e => e.1 == k)
  let bad := match v with
    | some bs => decide (37 < bs.length) || (k == 0x10 && present) || (!present && decide (4096 ≤ keys.length))
    | none => false
  if bad then emit s (.manage mgmtInvalid [])
  else
    let s := writeHouse s 0xF002 (configPayload k v)
    let s := if k = 0x10 ∧ v.isNone then
        { s with manage := { s.manage with
          exportSlots := s.manage.exportSlots.map (fun x => { x with filled := false, openOnly := false, key := [] })
          rootSlots := s.manage.rootSlots.map (fun x => { x with filled := false, openOnly := false, key := [] }) } }
      else s
    emit s (.manage mgmtOk [])

/-! ### Compaction (R540) -/

/-- What a compaction leaves in the new bank. -/
def compacted (s : State) : List (List Byte) :=
  let r := s.recorder
  let j := activeJournal r
  let house (code : Nat) (p : List Byte) : List Byte := entryBytes code 0x7000 0xFFFFFFFF (opTime s) r.pcc 0 0 p
  let recs := eventRecords j
  (configKeys j).map (fun e => house 0xF002 (configPayload e.1 (some e.2))) ++
  [house 0xF004 (leBytes 3 r.pcc), house 0xF003 []] ++
  (recs.drop (recs.length - 65536)).map (fun e => withRepeat e (liveRepeat r e))

/-- Steps 2 to 4 of a compaction: the copies, the new bank ACTIVE, the old one RETIRED (R540). The old bank's erasure in the background is
found done when the bank is next used or the module next boots (DESIGN CHOICE, log entry 43). -/
def endCompaction (s : State) : State :=
  let r := modJournal s.recorder (fun j => { j with state := .retired })
  let r := modSpare r (fun j => { j with state := .active, entries := compacted s })
  let r := { r with activeBank := 1 - r.activeBank }
  { s with recorder := { r with compacting := false, merged := none, compactions := satAdd r.compactions 1 } }

/-! ### The journal at boot (R538, R539, R541, R542) -/

/-- Generation `a` is later than `b`, modulo 2³² (Table 18.2). -/
def laterGen (a b : Nat) : Bool :=
  let d := (a + 2 ^ 32 - b % 2 ^ 32) % 2 ^ 32
  decide (0 < d) && decide (d < 2 ^ 31)

/-- A bank is a candidate at boot: its header CRC is valid and its STATE is ACTIVE (R541). -/
def candidate (j : Journal) : Bool := j.crc == headerCrc j.magic j.gen && j.state == .active

/-- The bank that a boot uses (R541). -/
def chooseBank (r : Recorder) : Option Nat :=
  let c0 := candidate r.bank0
  let c1 := candidate r.bank1
  if c0 && c1 then some (if laterGen r.bank1.gen r.bank0.gen then 1 else 0)
  else if c0 then some 0
  else if c1 then some 1
  else none

/-- The power-cycle count written and released (R538). A journal that was lost keeps 0xFF_FFFF (R542). -/
def countPowerCycle (s : State) : State :=
  let j := activeJournal s.recorder
  let top := (houseEntries j 0xF004).foldl (fun m e => max m (leAt e 20 3)) 0
  if s.recorder.journalLost ∨ 0xFFFFFF ≤ top + 1 ∨ bankPositions ≤ j.entries.length then
    { s with recorder := { s.recorder with pcc := 0xFFFFFF } }
  else
    let s := { s with recorder := { s.recorder with pcc := top + 1 } }
    writeHouse s 0xF004 (leBytes 3 (top + 1))

/-- The journal taken into use by a management controller that starts (R538 to R542): the active bank, torn entries counted, the latest
operating time, the next SEQ, the power-cycle count, and a compaction started again at the threshold. The lesser of two candidates is
RETIRED, a bank that is no candidate is erased. What waited in the queue is gone. -/
def bootJournal (s : State) : State :=
  let r := { s.recorder with queue := [], lost := 0, merged := none, compacting := false, snapshot := none, index := 0 }
  match chooseBank r with
  | none =>
    let r := { r with bank0 := formatted 1 .active, bank1 := {}, activeBank := 0, journalLost := true,
                      nextSeq := 0, hours := 0, seconds := 0, since := s.now, pcc := 0xFFFFFF }
    let s := { s with recorder := r }
    writeRecord s (eventNow s 0x7002 0x7000 0 [])
  | some b =>
    let r := modSpare { r with activeBank := b } (fun j => if candidate j then { j with state := .retired } else {})
    let j := activeJournal r
    let t := (validEntries j).foldl (fun m e => max m (bits (leAt e 8 5) 35 0)) 0
    let r := { r with
      torn := satAdd r.torn (j.entries.filter (fun e => !entryValid e)).length
      hours := t / 4096
      seconds := t % 4096
      since := s.now
      nextSeq := (eventRecords j).foldl (fun m e => max m (entrySeq e + 1)) 0 }
    let s := countPowerCycle { s with recorder := r }
    if compactAt ≤ (activeJournal s.recorder).entries.length ∧ !s.recorder.compacting then
      { s with recorder := startCompaction s.recorder } else s

/-! ### The register view (R543) -/

/-- A snapshot of the record with SEQ `n`, its merged REPEAT included. -/
def snapshotOf (r : Recorder) (n : Nat) : Option (List Byte) :=
  ((eventRecords (activeJournal r)).find? (fun e => entrySeq e == n)).map (fun e => withRepeat e (liveRepeat r e))

/-- A write of REC_INDEX. -/
def recIndexEffect (s : State) (n : Nat) : State :=
  { s with recorder := { s.recorder with index := n, snapshot := snapshotOf s.recorder n } }

/-! ### The commands -/

/-- CONFIG_WRITE (R537). -/
def execConfigWrite (key : Nat) (value : Option (List Byte)) (s : State) : Host.Outcome State Fault Refusal :=
  if s.power.mc == .booted then .next (configWriteEffect s key value) else .next s

/-- EVENT_SUBMIT (R536, R544): an event of Table 18.5, with a status and a source that Tables 18.3 and 18.5 give it; the module raises no
other. A management controller that is off records nothing. -/
def execEventSubmit (code source status : Nat) (payload : List Byte) (s : State) : Host.Outcome State Fault Refusal :=
  if s.power.mc == .off || !okEvent code source status then .next s else .next (submitEvent s code source status payload)

/-- EVENT_RECORD_WRITE (R534). -/
def execEventRecordWrite (s : State) : Host.Outcome State Fault Refusal := .next (recordEvent s)

/-- REPEAT_ENTRY_TIMER (R534): nothing to write without a merge. -/
def execRepeatEntryTimer (s : State) : Host.Outcome State Fault Refusal :=
  if recorderFree s && s.recorder.merged.isSome then .next (writeRepeat s) else .next s

/-- TIME_ENTRY_TIMER (R539): 600 s of operation have passed since the last one at the latest. Operating time advances while the management
controller is powered (R533). -/
def execTimeEntryTimer (s : State) : Host.Outcome State Fault Refusal :=
  if s.power.mc != .off then
    .next (writeTime (advanceTo s (s.recorder.since + 600 * clocksPerSecond)))
  else .next s

/-- COMPACTION_END (R540). -/
def execCompactionEnd (s : State) : Host.Outcome State Fault Refusal :=
  if s.power.mc != .off && s.recorder.compacting then .next (endCompaction s) else .next s

end Sys2Proof.Machine
end

