-- ==== Sys2Proof/Machine/Power.lean ====
section
/-! DEFINITION. Power, pins, sensors, resets and boot (chapter 19): the main domain, the limits of R548, warnings and trips, PERST_N, and the
choice and verification of a firmware image. -/

namespace Sys2Proof.Machine

/-- The power state changed. -/
def modPower (s : State) (f : Power → Power) : State := { s with power := f s.power }

/-! ### Package reset (R211, R556, R557) -/

/-- A cipher bank at reset: its jobs are gone, its keys and counts stand, so that no nonce repeats (R482). -/
def resetBank (b : CipherBank) : CipherBank := { b with running := [], suspended := [], waitingJobs := [] }

/-- A flaw of stored HBM bits, which outlives a reset of the package as the bits do. -/
def inHbm (f : Flaw) : Bool :=
  match f.place with
  | .hbm _ => true
  | .onDie _ => true
  | _ => false

/-- What PERST_N does to the package (R556): registers, ports, tallies, channels, streams and every engine take their reset state; HBM with its
marks and tags survives, scratchpads and instruction memories read zero. No sideband pin changes (R554): a low pulse on BELL_OUT
runs to its end. The mirrors of readings show none until the next one (R575). -/
def packageReset (s : State) : State :=
  let r := State.reset
  { r with
    now := s.now
    draws := s.draws
    pending := s.pending
    out := s.out
    power := { s.power with
      running := false, ready := false, d3hot := false, busMaster := false, linkUp := false, bar4Log2 := 36, bars := [0, 0, 0],
      maxPayload := 128, maxReadRequest := 512, aer := 0, gate := 0, gates := [], gatedRest := 0, shown := [] }
    bell := { r.bell with outLow := s.bell.outLow }
    recorder := s.recorder
    manage := s.manage
    mem := s.mem.filter (fun c => decide (c.1 < hbmTop))
    poison := s.poison.filter (fun b => decide (64 * b < hbmTop))
    frc := s.frc
    flaws := s.flaws.filter inHbm
    banks := s.banks.map resetBank }

/-- The main domain turned off (R557): neither PWR_GOOD nor BELL_OUT is driven any more, and HBM contents are lost. -/
def domainOff (s : State) : State :=
  let s := packageReset (releaseBellOut s)
  modPower { s with mem := [], poison := [], frc := [], flaws := [] } (fun p => { p with mainOn := false, pwrGood := false, samples := [] })

/-- The TIME entry that a powered management controller writes (R539, R557). -/
def timeEntry (s : State) : State := if s.power.mc != .off then writeTime s else s

/-- The main domain turned off, where it is on (R557). -/
def mainOff (s : State) : State := if s.power.mainOn then timeEntry (domainOff s) else s

/-- The main domain starts where every condition of R547 holds; an assertion that came within 100 ms of the deassertion is not acted on. -/
def maybeStart (s : State) : State :=
  if s.power.pwrEn && !s.power.rest && s.power.mc == .booted && decide (630 ≤ s.power.inputDv) && s.power.latch.isNone && !s.power.mainOn
  then modPower s (fun p => { p with mainOn := true }) else s

/-! ### Limits and gating (R548, R549) -/

/-- The effective limit in watts (R548). -/
def effectiveLimit (s : State) : Nat :=
  let l := min (fld s (glbReg glbPwrLimit) 11 0) s.power.effecter
  if s.power.inputDv < 660 then min l (485 * s.power.inputDv / 100) else l

/-- The gating share raised by an amount the spec leaves open (R549). -/
def raiseGate (s : State) : State :=
  if 100 ≤ s.power.gate then s
  else
    let (g, s) := drawNat s
    modPower s (fun p => { p with gate := p.gate + 1 + g % (100 - p.gate) })

/-- The gating share lowered to a value the spec leaves open, while no sensor holds it up (R549, R551). -/
def lowerGate (s : State) : State :=
  if s.power.gate = 0 ∨ s.power.throttled ≠ [] then s
  else
    let (g, s) := drawNat s
    modPower s (fun p => { p with gate := g % (p.gate + 1) })

/-- The samples break a bound of R548. -/
def overLimit (limit : Nat) (samples : List Nat) : Bool :=
  decide (3600 < samples.headD 0) ||
  decide (1000 ≤ ((samples.take 10000).filter (fun w => decide (3200 < w))).length) ||
  decide (limit * samples.length < samples.sum)

/-- A power sample (R548, R549): the share follows it, and the clocks it gated are counted in units of 1,024. -/
def powerSampleEffect (s : State) (w : Nat) : State :=
  let s := modPower s (fun p => { p with
    samples := (w :: p.samples).take 100000, sensors := sput 0 p.sensors 3 w, shown := sput 0 p.shown 3 w
    gates := (p.gate :: p.gates).take 1000 })
  let s := if overLimit (effectiveLimit s) s.power.samples then raiseGate s else lowerGate s
  let t := s.power.gatedRest + 170 * s.power.gate
  let s := modPower s (fun p => { p with gatedRest := t % 1024 })
  countBy s (glbReg glbGatedClocks) (t / 1024)

/-! ### Sensors (Table 19.2, R550 to R552) -/

/-- Warning, throttle and trip thresholds of a temperature sensor, in 0.1 °C. -/
def tempLimits (id : Nat) : Option (Nat × Nat × Nat) :=
  if 16 ≤ id ∧ id ≤ 36 then some (950, 1000, 1100)
  else if 40 ≤ id ∧ id ≤ 47 then some (850, 950, 1050)
  else if 48 ≤ id ∧ id ≤ 51 then some (1050, 1150, 1250)
  else none

/-- The temperature sensors of Table 19.2. -/
def tempSensors : List Nat := span 16 36 ++ span 40 51

/-- What a sensor reads; none where Table 19.2 has no such sensor. -/
def sensorReading (s : State) (id : Nat) : Option Nat :=
  if id = 1 then some s.power.inputDv
  else if id = 2 ∨ id = 3 then some (sget 0 s.power.sensors id)
  else if id = 4 then some (effectiveLimit s)
  else if id = 5 then some s.power.gate
  else (tempLimits id).map (fun _ => sget 0 s.power.sensors id)

/-- A sensor has stood above its threshold for 1 s. -/
def overSecond (s : State) (id : Nat) : Bool :=
  s.power.overAt.any (fun e => e.1 == id && decide (e.2 + clocksPerSecond ≤ s.now))

/-- A sensor is at or above its warning threshold (Table 19.2). -/
def warns (s : State) (id : Nat) : Bool :=
  if id = 1 then decide (s.power.inputDv < 660) || decide (780 < s.power.inputDv)
  else if id = 2 then decide (485 < sget 0 s.power.sensors 2)
  else if id = 3 ∨ id = 5 then overSecond s id
  else match tempLimits id with
    | some (w, _, _) => decide (w ≤ sget 0 s.power.sensors id)
    | none => false

/-- Some sensor warns. -/
def anyWarning (s : State) : Bool := (([1, 2, 3, 5] : List Nat) ++ tempSensors).any (warns s)

/-- When sensors 3 and 5 began to stand above their thresholds. -/
def trackOver (s : State) : State :=
  let one (s : State) (id : Nat) (over_ : Bool) : State :=
    if !over_ then modPower s (fun p => { p with overAt := p.overAt.filter (fun e => e.1 != id) })
    else if s.power.overAt.any (fun e => e.1 == id) then s
    else modPower s (fun p => { p with overAt := p.overAt.filter (fun e => decide (e.1 < id)) ++ [(id, s.now)] ++ p.overAt.filter (fun e => decide (id < e.1)) })
  one (one s 3 (decide (effectiveLimit s < sget 0 s.power.sensors 3))) 5 (decide (0 < s.power.gate))

/-- ALERT_N asserted or released; an in-band interrupt is sent as it is asserted, where the bus controller has enabled it (R550). -/
def setAlert (s : State) (b : Bool) : State :=
  let was := s.power.alert
  let s := modPower s (fun p => { p with alert := b })
  if b && !was && s.power.ibi then emit s .inBandInterrupt else s

/-- ALERT_N and THERM_TRIP_N follow the sensors and the latch (R550, R552). -/
def updatePins (s : State) : State :=
  let s := trackOver s
  let w := anyWarning s
  let s := setAlert s (w || (s.power.alert && s.power.latch.isSome))
  modPower s (fun p => { p with thermTrip := p.thermTrip && (p.latch == some .trip || w) })

/-- A trip (R552): THERM_TRIP_N asserted, the main domain off, event 0x1002. -/
def tripEffect (s : State) (id temp : Nat) : State :=
  let s := mainOff s
  let s := setAlert (modPower s (fun p => { p with latch := some .trip, thermTrip := true })) true
  if s.power.mc != .off then submitEvent s 0x1002 0 0 (leBytes 2 id ++ leBytes 2 temp) else s

/-- A lockout (R547, R557): the main domain off, event 0x1001 while the input stays above 36 V. -/
def lockoutEffect (s : State) : State :=
  let dv := s.power.inputDv
  let s := mainOff s
  let s := setAlert (modPower s (fun p => { p with latch := some (p.latch.getD .lockout) })) true
  if s.power.mc != .off && decide (360 < dv) then submitEvent s 0x1001 0 0 (leBytes 2 dv) else s

/-- A reading taken from a sensor, and shown where the package has a register of it. -/
def takeReading (s : State) (id v : Nat) : State :=
  modPower s (fun p => { p with sensors := sput 0 p.sensors id v, shown := sput 0 p.shown id v })

/-- A temperature reading taken: throttling with its 2 °C of hysteresis, and a trip of a sensor that has reached its threshold (R551,
R552). -/
def tempUpdate (s : State) (id t : Nat) (limits : Nat × Nat × Nat) : State :=
  let reached : Bool := decide (sget 0 s.power.sensors id < limits.2.2) && decide (limits.2.2 ≤ t)
  let s := takeReading s id t
  let s :=
    if limits.2.1 ≤ t then raiseGate (modPower s (fun p => { p with throttled := setIns p.throttled id }))
    else if s.power.throttled.contains id && decide (t + 20 ≤ limits.2.1) then
      lowerGate (modPower s (fun p => { p with throttled := setDel p.throttled id }))
    else s
  if reached || (decide (limits.2.2 ≤ t) && s.power.latch != some .trip) then tripEffect s id t else s

/-! ### Firmware images (Table 19.6, R559, R560) -/

/-- `len` bytes of a flash image area from `off`; erased bytes read 0xFF (R532). -/
def imageAt (img : List Byte) (off len : Nat) : List Byte :=
  let b := slice img off len
  b ++ List.replicate (len - b.length) 0xFF

/-- A field of an image header. -/
def imageField (img : List Byte) (off len : Nat) : Nat := leNat (imageAt img off len)

/-- SVN of an image. -/
def imageSvn (img : List Byte) : Nat := imageField img 8 1 % 64
/-- BUILD of an image. -/
def imageBuild (img : List Byte) : Nat := imageField img 4 4

/-- The image is authentic (R559). -/
def imageAuthentic (m : Manage) (img : List Byte) : Bool :=
  let k := imageField img 11 1 % 4
  let len := imageField img 12 4
  imageField img 0 4 == 0x4846494D &&
  decide (len ≤ 0x1000000 - 1024) &&
  decide (k < m.keyHashes.length) && !m.revoked.getD k false &&
  sha256 (imageAt img 64 388) == m.keyHashes.getD k [] &&
  pssVerify (imageAt img 64 384) (imageField img 448 4) (imageAt img 0 452) (imageAt img 452 384) &&
  sha256 (imageAt img 1024 len) == imageAt img 16 32

/-- The status an image is rejected with, if any (R559): AUTH_FAIL 0x0A, VERSION_MISMATCH 0x0C. -/
def imageReject (m : Manage) (img : List Byte) : Option Nat :=
  if !imageAuthentic m img then some 0x0A
  else
    let st := Config.stepping % 256
    if st < imageField img 9 1 ∨ imageField img 10 1 < st ∨ imageSvn img < m.counter then some 0x0C else none

/-- Image 0 or 1. -/
def imageOf (m : Manage) (i : Nat) : List Byte := if i = 0 then m.imageA else m.imageB

/-- An image that was rejected, noted for BOOT_STATUS. -/
def noteReject (m : Manage) (i st : Nat) : Manage := if i = 0 then { m with aRejected := some st } else { m with bRejected := some st }

/-- The image selected by the boot ROM with image `i` tried first: its number, none in recovery (R559, R561). -/
def selectImage (m : Manage) (i : Nat) : Option Nat × Manage :=
  let m := { m with aRejected := none, bRejected := none }
  match imageReject m (imageOf m i) with
  | none => (some i, m)
  | some st =>
    let m := noteReject m i st
    match imageReject m (imageOf m (1 - i)) with
    | none => (some (1 - i), m)
    | some st2 => (none, noteReject m (1 - i) st2)

/-- A cipher bank's counters as a new power cycle finds them: every count starts from 0 (R481). -/
def newPowerCycle (b : CipherBank) : CipherBank := { b with exportCounts := [], keys := b.keys.map (fun k => { k with counts := [] }) }

/-- The management controller restarts (R538, R541, R558, R559): the key store is cleared, the journal taken into use, the power-cycle count
raised, and the boot ROM selects an image, `first` tried first or the one of higher BUILD. `wdog` is BOOT_STATUS.WDOG. -/
def bootMc (s : State) (first : Option Nat) (wdog : Bool) : State :=
  let m := s.manage
  let m := { m with
    wdog := wdog
    update := .idle
    updSize := 0
    updValid := false
    activation := false
    exchange := false
    peer := none
    session := none
    eid := 0
    exportSlots := List.replicate 64 {}
    rootSlots := List.replicate 8 {} }
  let i := first.getD (if imageBuild m.imageA < imageBuild m.imageB then 1 else 0)
  let (sel, m) := selectImage m i
  let m := match sel with
    | some k => { m with image := k, svn := imageSvn (imageOf m k), build := imageBuild (imageOf m k) }
    | none => { m with image := 0, svn := 0, build := 0 }
  let s := bootJournal { s with manage := m, banks := s.banks.map newPowerCycle }
  modPower s (fun p => { p with mc := if sel.isSome then .booting else .recovery })

/-- The anti-rollback counter after a boot complete (R562). -/
def raiseCounter (m : Manage) : Manage :=
  let other := imageOf m (1 - m.image)
  if m.counter < m.svn ∧ imageReject m other = none ∧ m.svn ≤ imageSvn other then { m with counter := m.svn } else m

/-- Boot complete (R559, R562): events 0x0002 for each rejection and 0x0001, the counter, and the main domain where it may start. -/
def bootDone (s : State) : State :=
  let m := s.manage
  let s := modPower s (fun p => { p with mc := .booted })
  let s := match m.aRejected with
    | some st => submitEvent s 0x0002 0x7000 st [0]
    | none => s
  let s := match m.bRejected with
    | some st => submitEvent s 0x0002 0x7000 st [1]
    | none => s
  let s := submitEvent s 0x0001 0x7000 0 (leBytes 1 m.image ++ leBytes 4 m.build)
  maybeStart { s with manage := raiseCounter m }

/-- The standby domain starts (R555, R558): everything but the journal, the images and the fuses begins anew. -/
def standbyStart (s : State) (dv pos : Nat) : State :=
  let s := domainOff s
  let p := { Power.reset with
    mc := .booting, inputDv := dv, boardPos := pos % 8, i3c := 0x30 + pos % 8, pwrEn := s.power.pwrEn, perst := s.power.perst, mainOn := false, pwrGood := false }
  let s := { s with power := p
                    recorder := { s.recorder with written := 0, mergedCount := 0, lostCount := 0, torn := 0, compactions := 0 } }
  updatePins (bootMc s none false)

/-- Everything off (R491, R558). -/
def standbyLoss (s : State) : State :=
  let s := domainOff s
  let m := s.manage
  let m := { m with
    update := .idle
    updSize := 0
    updValid := false
    activation := false
    exchange := false
    peer := none
    session := none
    eid := 0
    exportSlots := List.replicate 64 {}
    rootSlots := List.replicate 8 {} }
  let r := { s.recorder with queue := [], lost := 0, merged := none, compacting := false, snapshot := none, index := 0 }
  let s := { s with manage := m, recorder := r }
  modPower s (fun p => { Power.reset with
    mc := .off, inputDv := 0, mainOn := false, pwrGood := false, pwrEn := p.pwrEn, perst := p.perst, boardPos := p.boardPos, i3c := p.i3c })

/-- What a new input voltage does (R547): a lockout below 60 V, power lost below 36 V, a start where it may. -/
def inputChange (s : State) (dv : Nat) : State :=
  if dv < 360 then standbyLoss s
  else
    let s := modPower s (fun p => { p with inputDv := dv })
    if decide (dv < 600) && s.power.mainOn then lockoutEffect s else maybeStart s

/-- A periodic sensor reading (R550). Readings of sensors 4 and 5 are the module's own. -/
def sensorEffect (s : State) (id v : Nat) : State :=
  let s :=
    if id = 1 then inputChange s v
    else if id = 2 ∨ id = 3 then takeReading s id v
    else match tempLimits id with
      | some l => tempUpdate s id v l
      | none => s
  if s.power.mc == .off then s else updatePins s

/-! ### The commands -/

/-- STANDBY_POWER_ON (R558). -/
def execStandbyPowerOn (inputDv boardPos : Nat) (s : State) : Host.Outcome State Fault Refusal :=
  if s.power.mc == .off && decide (630 ≤ inputDv) then .next (standbyStart s inputDv boardPos) else .next s

/-- BOOT_COMPLETE (R562). -/
def execBootComplete (s : State) : Host.Outcome State Fault Refusal :=
  if s.power.mc == .booting then .next (bootDone s) else .next s

/-- BOOT_WATCHDOG (R560). -/
def execBootWatchdog (s : State) : Host.Outcome State Fault Refusal :=
  if s.power.mc == .booting then .next (bootMc s (some (1 - s.manage.image)) true) else .next s

/-- PWR_EN_ASSERT (R547). Recovery mode and a stopped standby domain ignore the pin; its level is kept. An assertion within 100 ms of the
deassertion is not acted on, then or later (DEDUCED, log entry 44). -/
def execPwrEnAssert (s : State) : Host.Outcome State Fault Refusal :=
  .next (maybeStart (modPower s (fun p => { p with pwrEn := true })))

/-- MAIN_DOMAIN_UP (R554). -/
def execMainDomainUp (s : State) : Host.Outcome State Fault Refusal :=
  if s.power.mainOn then .next (modPower s (fun p => { p with pwrGood := true })) else .next s

/-- PWR_EN_DEASSERT (R539, R547, R557). -/
def execPwrEnDeassert (s : State) : Host.Outcome State Fault Refusal :=
  if s.power.pwrEn then
    let s := modPower s (fun p => { p with pwrEn := false, rest := p.mc != .off })
    .next (if s.power.mainOn then mainOff s else timeEntry s)
  else .next s

/-- UNDERVOLTAGE_LOCKOUT (R547). -/
def execUndervoltageLockout (inputDv : Nat) (s : State) : Host.Outcome State Fault Refusal :=
  if s.power.mainOn && decide (inputDv < 600) then
    .next (updatePins (lockoutEffect (modPower s (fun p => { p with inputDv := inputDv }))))
  else .next s

/-- THERMAL_TRIP (R552): the reading is at or above the sensor's trip threshold. -/
def execThermalTrip (sensor temp : Nat) (s : State) : Host.Outcome State Fault Refusal :=
  match tempLimits sensor with
  | some l => if l.2.2 ≤ temp ∧ s.power.mc ≠ .off then .next (sensorEffect s sensor temp) else .next s
  | none => .next s

/-- SENSOR_UPDATE (R550). -/
def execSensorUpdate (sensor value : Nat) (s : State) : Host.Outcome State Fault Refusal :=
  if s.power.mc == .off then .next s else .next (sensorEffect s sensor value)

/-- POWER_SAMPLE (R548). -/
def execPowerSample (watts : Nat) (s : State) : Host.Outcome State Fault Refusal :=
  if s.power.mainOn then .next (powerSampleEffect s watts) else .next s

/-- PERST_N_ASSERT (R556). The pin is ignored while the package is held in reset. -/
def execPerstNAssert (s : State) : Host.Outcome State Fault Refusal :=
  let s := modPower s (fun p => { p with perst := true })
  .next (if s.power.mainOn then packageReset s else s)

/-- PERST_N_DEASSERT (R556). -/
def execPerstNDeassert (s : State) : Host.Outcome State Fault Refusal :=
  .next (modPower s (fun p => { p with perst := false }))

/-- PACKAGE_LEAVE_RESET (R556). -/
def execPackageLeaveReset (s : State) : Host.Outcome State Fault Refusal :=
  if s.power.pwrGood && !s.power.perst && !s.power.running then
    .next (modPower s (fun p => { p with running := true, leftAt := s.now }))
  else .next s

/-- FUNCTION_READY (R556): bit m of `trained` says that stack m has trained. -/
def execFunctionReady (trained : Nat) (s : State) : Host.Outcome State Fault Refusal :=
  if s.power.running && !s.power.ready then
    let s := modPower s (fun p => { p with ready := true, linkUp := true })
    .next ((List.range 8).foldl (fun s m =>
      if bit trained m then setFlag s (mcReg m mcMcStatus) 0 true
      else submitEvent (setFlag s (mcReg m mcMcStatus) 1 true) 0x2003 (0x4000 + m) 0 []) s)
  else .next s

/-- STANDBY_POWER_LOSS (R491, R558). -/
def execStandbyPowerLoss (s : State) : Host.Outcome State Fault Refusal :=
  if s.power.mc == .off then .next s else .next (standbyLoss s)

/-- LATCH_CLEAR_TIMER (R547): PWR_EN has been deasserted for 100 ms. What has latched is cleared, and the next assertion is acted on. -/
def execLatchClearTimer (s : State) : Host.Outcome State Fault Refusal :=
  if !s.power.pwrEn && s.power.mc != .off then
    .next (updatePins (modPower s (fun p => { p with latch := none, rest := false })))
  else .next s

end Sys2Proof.Machine
end

