-- ==== Sys2Proof/Machine/Management.lean ====
section
/-! DEFINITION. The management path (R563 to R566): MCTP control, PLDM with its firmware update, SPDM with its measurements and sessions, and the
key-store commands. Codes of MCTP, PLDM and SPDM that the manual does not number are those of their standards (log entry 31). -/

namespace Sys2Proof.Machine

/-- An answer on the management path. -/
def answer (s : State) (code : Nat) (data : List Nat) : State := emit s (.manage code data)

/-- An answer whose data the spec does not give. -/
def answerFree (s : State) (code : Nat) (data : List Nat) (len : Nat) : State :=
  let (bs, s) := drawBytes s len
  answer s code (data ++ bs.map BitVec.toNat)

/-- The running firmware answers (R561). -/
def firmwareUp (s : State) : Bool := s.power.mc == .booted
/-- MCTP control and the firmware update commands are answered, recovery mode included (R561). -/
def updateUp (s : State) : Bool := s.power.mc == .booted || s.power.mc == .recovery

/-- The management state changed. -/
def modManage (s : State) (f : Manage → Manage) : State := { s with manage := f s.manage }

/-! ### MCTP control (R563) -/

/-- The bus controller enables or disables in-band interrupts; one is owed at once where ALERT_N is asserted (R550, log entry 44). -/
def interruptsEffect (s : State) (on : Bool) : State :=
  let due := on && s.power.alert && !s.power.ibi
  let s := { s with power := { s.power with ibi := on } }
  if due then emit s .inBandInterrupt else s

/-- A message to the endpoint. -/
def mctpEffect (s : State) : MctpControl → State
  | .setEndpointId eid =>
    if 8 ≤ eid ∧ eid ≤ 0xFE then answer (modManage s (fun m => { m with eid := eid })) 0 [eid] else answer s 2 []
  | .getEndpointId => answer s 0 [s.manage.eid]
  | .getMessageTypes => answer s 0 [1, 5, 6]
  | .other _ => answer s 5 []
  | .interrupts on => interruptsEffect s on

/-! ### PLDM (R564) -/

/-- The commands of a PLDM type, by their codes in its standard; none of a type that is not provided. -/
def pldmCommands (type : Nat) : Option (List Nat) :=
  if type = 0 then some [0x02, 0x03, 0x04, 0x05]
  else if type = 2 then some [0x11, 0x21, 0x31, 0x32, 0x51]
  else if type = 5 then some [0x01, 0x02, 0x10, 0x13, 0x14, 0x15, 0x16, 0x17, 0x18, 0x1A, 0x1B, 0x1D]
  else none

/-- SetNumericEffecterValue (R548). -/
def setEffecter (s : State) (effecter value : Nat) : State :=
  if effecter ≠ 1 then answer s 0x80 []
  else if value < 1000 ∨ 3200 < value then answer s 2 []
  else answer (modPower s (fun p => { p with effecter := value })) 0 []

/-- The image area that an update writes: the one that is not booted (R564). -/
def updateTarget (m : Manage) : Nat := 1 - m.image

/-- An image area replaced. -/
def putImage (m : Manage) (i : Nat) (img : List Byte) : Manage := if i = 0 then { m with imageA := img } else { m with imageB := img }

/-- The code that refuses an update command in a state that does not take it. -/
def wrongState (m : Manage) : Nat := if m.update = .idle then 0x80 else 0x84

/-- RequestUpdate. -/
def requestUpdateEffect (s : State) : State :=
  if s.manage.update = .idle then answer (modManage s (fun m => { m with update := .learn, updValid := false })) 0 []
  else answer s 0x81 []

/-- PassComponentTable: the module has one component. -/
def passTableEffect (s : State) : State :=
  if s.manage.update = .learn then answer (modManage s (fun m => { m with update := .readyXfer })) 0 []
  else answer s (wrongState s.manage) []

/-- UpdateComponent: the area of the image that is not booted is erased and takes the component. -/
def updateComponentEffect (s : State) (size : Nat) : State :=
  if s.manage.update ≠ .readyXfer then answer s (wrongState s.manage) []
  else if 0x1000000 < size then answer s 2 []
  else answer (modManage s (fun m => { putImage m (updateTarget m) [] with update := .download, updSize := size, updValid := false })) 0 []

/-- Bytes programmed over what an area holds: programming only changes bits from 1 to 0 (R532). -/
def program (img : List Byte) (off : Nat) (data : List Byte) : List Byte :=
  imageAt img 0 off ++ List.zipWith (· &&& ·) (imageAt img off data.length) data ++ img.drop (off + data.length)

/-- RequestFirmwareData: a piece of the component is programmed into the area. -/
def firmwareDataEffect (s : State) (off : Nat) (data : List Byte) : State :=
  if s.manage.update ≠ .download then answer s (wrongState s.manage) []
  else if s.manage.updSize < off + data.length then answer s 0x82 []
  else
    answer (modManage s (fun m => putImage m (updateTarget m) (program (imageOf m (updateTarget m)) off data))) 0 []

/-- TransferComplete. -/
def transferEffect (s : State) (ok : Bool) : State :=
  if s.manage.update ≠ .download then answer s (wrongState s.manage) []
  else answer (modManage s (fun m => { m with update := if ok then .verify else .readyXfer })) 0 []

/-- VerifyComplete: R559 applied to the new image; its data is the status it is rejected with, 0 for none. -/
def verifyEffect (s : State) : State :=
  if s.manage.update ≠ .verify then answer s (wrongState s.manage) []
  else
    match imageReject s.manage (imageOf s.manage (updateTarget s.manage)) with
    | none => answer (modManage s (fun m => { m with update := .apply })) 0 [0]
    | some st => answer (modManage s (fun m => { m with update := .readyXfer })) 0 [st]

/-- ApplyComplete. -/
def applyEffect (s : State) : State :=
  if s.manage.update ≠ .apply then answer s (wrongState s.manage) []
  else answer (modManage s (fun m => { m with update := .readyXfer, updValid := true })) 0 []

/-- ActivateFirmware: the management controller restarts while PWR_EN is deasserted, and otherwise at the next power cycle (R564). -/
def activateEffect (s : State) : State :=
  if s.manage.update ≠ .readyXfer then answer s (wrongState s.manage) []
  else if !s.manage.updValid then answer s 0x85 []
  else
    let s := answer (modManage s (fun m => { m with update := .idle, updValid := false, activation := true })) 0 []
    if s.power.pwrEn then s else bootMc s none false

/-- GetStatus: the update state by its number in the standard, and whether an activation is pending. -/
def updateNumber : UpdateState → Nat
  | .idle => 0
  | .learn => 1
  | .readyXfer => 2
  | .download => 3
  | .verify => 4
  | .apply => 5

/-- CancelUpdate. -/
def cancelEffect (s : State) : State :=
  if s.manage.update = .idle then answer s 0x80 []
  else answer (modManage s (fun m => { m with update := .idle, updValid := false })) 0 []

/-! ### The key store (R488 to R491, R566) -/

/-- The slots of a space. -/
def slotsOf (m : Manage) (space : Nat) : List KeySlot := if space = 0 then m.exportSlots else m.rootSlots

/-- A slot of a space. -/
def slotAt (m : Manage) (space slot : Nat) : KeySlot := (slotsOf m space).getD slot {}

/-- A slot changed. -/
def modSlot (m : Manage) (space slot : Nat) (f : KeySlot → KeySlot) : Manage :=
  if space = 0 then { m with exportSlots := modAt m.exportSlots slot f } else { m with rootSlots := modAt m.rootSlots slot f }

/-- The check value a slot reports, 0 while it is empty (R491). -/
def slotKcv (k : KeySlot) : Nat := if k.filled then keyCheck k.key else 0

/-- The session may use the key store: mutually authenticated, by the requester that configuration key 0x0010 names (R566). -/
def keySession (s : State) : Bool :=
  match s.manage.session, configValue s 0x10 with
  | some (h, true), some v => h == v
  | _, _ => false

/-- The slot exists. -/
def slotExists (space slot : Nat) : Bool := (space == 0 && decide (slot < 64)) || (space == 1 && decide (slot < 8))

/-- An answer of the key store: status, GEN and check value of the slot; a slot that does not exist has neither (R566, log entry 53). -/
def keyAnswer (s : State) (status space slot : Nat) : State :=
  let k := slotAt s.manage space slot
  answer s status (if slotExists space slot then [k.gen, slotKcv k] else [])

/-- The counts of an export slot go when it is filled anew (R481). -/
def freshCounts (b : CipherBank) (slot : Nat) : CipherBank := { b with exportCounts := b.exportCounts.filter (fun e => e.1 != slot) }

/-- FILL (R488, R490): AUTH_FAIL outside such a session and DESCRIPTOR_INVALID for operands that are not allowed (log entry 53). -/
def fillEffect (s : State) (space slot mode : Nat) (key : List Byte) : State :=
  if !keySession s then answer s 0x0A []
  else if !slotExists space slot || decide (1 < mode) || (space == 1 && mode != 0) || key.length != 32 then keyAnswer s 0x0E space slot
  else
    let s := modManage s (fun m => modSlot m space slot (fun k => { filled := true, openOnly := bit mode 0, gen := (k.gen + 1) % 256, key := key }))
    let s := if space = 0 then modBankC s 4 (fun b => freshCounts b slot) else s
    keyAnswer s 0 space slot

/-- ERASE (R490). -/
def eraseEffect (s : State) (space slot : Nat) : State :=
  if !keySession s then answer s 0x0A []
  else if !slotExists space slot then keyAnswer s 0x0E space slot
  else
    let s := modManage s (fun m => modSlot m space slot (fun k => { k with filled := false, openOnly := false, key := [] }))
    keyAnswer s 0 space slot

/-- STATUS (R566). -/
def statusEffect (s : State) (space slot : Nat) : State :=
  if !keySession s then answer s 0x0A []
  else if !slotExists space slot then keyAnswer s 0x0E space slot
  else keyAnswer s 0 space slot

/-! ### SPDM (R565) -/

/-- What measurement blocks 3 to 5 measure (Table 19.7a): fuses, configuration keys below 0x8000, and the key store without key bits. -/
def measuredState (s : State) (i : Nat) : List Nat :=
  let m := s.manage
  if i = 3 then m.keyHashes.flatten.map BitVec.toNat ++ m.revoked.map b2n ++ [m.counter]
  else if i = 4 then
    ((configKeys (activeJournal s.recorder)).filter (fun e => decide (e.1 < 0x8000))).flatMap (fun e => e.1 :: e.2.length :: e.2.map BitVec.toNat)
  else (m.exportSlots ++ m.rootSlots).flatMap (fun k => [b2n k.filled, k.gen])

/-- A measurement block's digest (R565). -/
def measurement (s : State) (i : Nat) : List Byte :=
  if i = 1 then sha256 Config.bootRom
  else if i = 2 then
    let img := imageOf s.manage s.manage.image
    sha256 (imageAt img 0 452 ++ imageAt img 16 32)
  else sha256 (Config.measured i (measuredState s i))

/-- A request to the responder, or the peer's answer to the module as requester; error codes are those of the standard, 0 is success.
NEGOTIATE_ALGORITHMS selects what R565 fixes, by the bits of the standard: RSAPSS 3,072, SHA-256, ffdhe3072, AES-256-GCM, and SHA-256 for
measurements (log entry 31). A session is mutually authenticated when the requester proves the key of the certificate that the module
has taken from it. -/
def spdmEffect (s : State) : SpdmRequest → State
  | .getVersion => answer s 0 [0x13]
  | .getCapabilities => answerFree s 0 [] 8
  | .negotiateAlgorithms => answer s 0 [0x8, 0x1, 0x2, 0x2, 0x2]
  | .getDigests => answerFree s 0 [1] 32
  | .getCertificate slot => if slot = 0 then answerFree s 0 [] 1024 else answer s 1 []
  | .challenge slot => if slot = 0 then answerFree s 0 [] 384 else answer s 1 []
  | .getMeasurements i =>
    if i = 0 then answer s 0 [5]
    else if i ≤ 5 then answer s 0 (i :: (measurement s i).map BitVec.toNat)
    else if i = 0xFF then answer s 0 ((span 1 5).flatMap (fun i => i :: (measurement s i).map BitVec.toNat))
    else answer s 1 []
  | .keyExchange slot =>
    if slot = 0 then answerFree (modManage s (fun m => { m with exchange := true, peer := none, session := none })) 0 [] 384 else answer s 1 []
  | .finish h proved =>
    if s.manage.exchange then answerFree (modManage s (fun m => { m with exchange := false, session := some (h, proved && m.peer == some h) })) 0 [] 32
    else answer s 4 []
  | .endSession => answer (modManage s (fun m => { m with exchange := false, peer := none, session := none })) 0 []
  | .certificate k => if s.manage.exchange then answer (modManage s (fun m => { m with peer := some (sha256 k) })) 0 [] else answer s 4 []
  | .other _ => answer s 7 []

/-! ### The commands -/

/-- A command that the running firmware answers. -/
def byFirmware (s : State) (f : State → State) : Host.Outcome State Fault Refusal := .next (if firmwareUp s then f s else s)
/-- A command that recovery mode answers too. -/
def byUpdater (s : State) (f : State → State) : Host.Outcome State Fault Refusal := .next (if updateUp s then f s else s)

/-- MCTP_CONTROL (R563). The I3C target hears the bus controller whenever the standby domain runs (R550, Table 19.4). -/
def execMctpControl (req : MctpControl) (s : State) : Host.Outcome State Fault Refusal :=
  match req with
  | .interrupts on => .next (if s.power.mc == .off then s else interruptsEffect s on)
  | _ => byUpdater s (fun s => mctpEffect s req)
/-- GET_TID (R564). -/
def execGetTid (s : State) : Host.Outcome State Fault Refusal := byFirmware s (fun s => answer s 0 [s.manage.tid])
/-- GET_PLDM_VERSION (R564): the version number is not stated. -/
def execGetPldmVersion (type : Nat) (s : State) : Host.Outcome State Fault Refusal :=
  byFirmware s (fun s => if (pldmCommands type).isSome then answerFree s 0 [] 4 else answer s 0x83 [])
/-- GET_PLDM_TYPES (R564). -/
def execGetPldmTypes (s : State) : Host.Outcome State Fault Refusal := byFirmware s (fun s => answer s 0 [0, 2, 5])
/-- GET_PLDM_COMMANDS (R564). -/
def execGetPldmCommands (type : Nat) (s : State) : Host.Outcome State Fault Refusal :=
  byFirmware s (fun s => match pldmCommands type with
    | some cs => answer s 0 cs
    | none => answer s 0x83 [])
/-- GET_PDR (R564): the records are not given. -/
def execGetPdr (_record : Nat) (s : State) : Host.Outcome State Fault Refusal := byFirmware s (fun s => answerFree s 0 [] 32)
/-- GET_SENSOR_READING (R564). -/
def execGetSensorReading (sensor : Nat) (s : State) : Host.Outcome State Fault Refusal :=
  byFirmware s (fun s => match sensorReading s sensor with
    | some v => answer s 0 [v]
    | none => answer s 0x80 [])
/-- GET_STATE_SENSOR_READINGS (R564): the state sensors are not given. -/
def execGetStateSensorReadings (_sensor : Nat) (s : State) : Host.Outcome State Fault Refusal := byFirmware s (fun s => answerFree s 0 [] 4)
/-- SET_NUMERIC_EFFECTER_VALUE (R548). -/
def execSetNumericEffecterValue (effecter value : Nat) (s : State) : Host.Outcome State Fault Refusal :=
  byFirmware s (fun s => setEffecter s effecter value)
/-- GET_NUMERIC_EFFECTER_VALUE (R564). -/
def execGetNumericEffecterValue (effecter : Nat) (s : State) : Host.Outcome State Fault Refusal :=
  byFirmware s (fun s => if effecter = 1 then answer s 0 [s.power.effecter] else answer s 0x80 [])
/-- QUERY_DEVICE_IDENTIFIERS (R564): the identifiers are not given. -/
def execQueryDeviceIdentifiers (s : State) : Host.Outcome State Fault Refusal := byUpdater s (fun s => answerFree s 0 [] 16)
/-- GET_FIRMWARE_PARAMETERS (R564): the active image's BUILD and SVN and the pending image's BUILD; the rest is not given. -/
def execGetFirmwareParameters (s : State) : Host.Outcome State Fault Refusal :=
  byUpdater s (fun s =>
    let m := s.manage
    answer s 0 ([m.image, m.build, m.svn] ++ (if m.activation then [imageBuild (imageOf m (updateTarget m))] else [])))
/-- REQUEST_UPDATE (R564). -/
def execRequestUpdate (s : State) : Host.Outcome State Fault Refusal := byUpdater s requestUpdateEffect
/-- PASS_COMPONENT_TABLE (R564). -/
def execPassComponentTable (s : State) : Host.Outcome State Fault Refusal := byUpdater s passTableEffect
/-- UPDATE_COMPONENT (R564). -/
def execUpdateComponent (size : Nat) (s : State) : Host.Outcome State Fault Refusal := byUpdater s (fun s => updateComponentEffect s size)
/-- REQUEST_FIRMWARE_DATA (R564). -/
def execRequestFirmwareData (off : Nat) (data : List Byte) (s : State) : Host.Outcome State Fault Refusal :=
  byUpdater s (fun s => firmwareDataEffect s off data)
/-- TRANSFER_COMPLETE (R564). -/
def execTransferComplete (ok : Bool) (s : State) : Host.Outcome State Fault Refusal := byUpdater s (fun s => transferEffect s ok)
/-- VERIFY_COMPLETE (R564). -/
def execVerifyComplete (s : State) : Host.Outcome State Fault Refusal := byUpdater s verifyEffect
/-- APPLY_COMPLETE (R564). -/
def execApplyComplete (s : State) : Host.Outcome State Fault Refusal := byUpdater s applyEffect
/-- ACTIVATE_FIRMWARE (R564). -/
def execActivateFirmware (s : State) : Host.Outcome State Fault Refusal := byUpdater s activateEffect
/-- GET_STATUS (R564). -/
def execGetStatus (s : State) : Host.Outcome State Fault Refusal :=
  byUpdater s (fun s => answer s 0 [updateNumber s.manage.update, b2n s.manage.activation])
/-- CANCEL_UPDATE (R564). -/
def execCancelUpdate (s : State) : Host.Outcome State Fault Refusal := byUpdater s cancelEffect
/-- SPDM_MESSAGE (R565). -/
def execSpdmMessage (req : SpdmRequest) (s : State) : Host.Outcome State Fault Refusal := byFirmware s (fun s => spdmEffect s req)
/-- KEY_FILL (R490). -/
def execKeyFill (space slot mode : Nat) (key : List Byte) (s : State) : Host.Outcome State Fault Refusal :=
  byFirmware s (fun s => fillEffect s space slot mode key)
/-- KEY_ERASE (R490). -/
def execKeyErase (space slot : Nat) (s : State) : Host.Outcome State Fault Refusal := byFirmware s (fun s => eraseEffect s space slot)
/-- KEY_STATUS (R566). -/
def execKeyStatus (space slot : Nat) (s : State) : Host.Outcome State Fault Refusal := byFirmware s (fun s => statusEffect s space slot)

end Sys2Proof.Machine
end

