-- ==== Sys2Proof/Machine/MemCtl.lean ====
section
/-! DEFINITION. The memory controllers as seen from outside: the BAR4 window (R159), patrol scrubbing (R170), the region table's writes (R161, R162), and
PCI Express configuration requests. -/

namespace Sys2Proof.Machine

/-! ### BAR4 (R159) -/

/-- Bytes of the BAR4 window. -/
def bar4Size (s : State) : Nat := 2 ^ s.power.bar4Log2

/-- The HBM offset that BAR4 offset `off` reaches. -/
def bar4Addr (s : State) (off : Nat) : Nat := rd64 s (mcReg 0 mcBar4BaseLo) + off

/-- A BAR4 access: outside the window or beyond HBM it is an Unsupported Request without effect. A poisoned byte sets EP on the completion (R175),
and data with EP = 1 poisons every block it is written into (R171). -/
def bar4Effect (s : State) (write : Bool) (off len : Nat) (data : List Byte) (ep : Bool) : State :=
  let a := bar4Addr s off
  if bar4Size s < off + len ∨ hbmTop < a + len then emit s (.unsupportedRequest off)
  else if write then
    let s := storeRange (poisonedTlp s ep) a data ep
    if ep then setOrigins s a len (.other 0) else s
  else
    let s := meetMem s a len
    emit s (.bar4Data off (readMem s.mem a len) (rangePoisoned s a len))

/-! ### The region table (R161, R162) -/

/-- Base and size of a region entry. -/
def regionBase (s : State) (i : Nat) : Nat := rd64 s (regionReg i regionBaseLo)
/-- SIZE of a region entry. -/
def regionSize (s : State) (i : Nat) : Nat := rd64 s (regionReg i regionSizeLo)
/-- EN of a region entry. -/
def regionOn (s : State) (i : Nat) : Bool := flag s (regionReg i regionCtrl) 31
/-- TYPE of a region entry. -/
def regionTypeOf (s : State) (i : Nat) : Nat := fld s (regionReg i regionCtrl) 3 0

/-- Entry `i` may not be enabled with TYPE `t` (R162). -/
def regionRefused (s : State) (i t : Nat) : Bool :=
  let b := regionBase s i
  let n := regionSize s i
  decide (5 < t) || b % 4096 != 0 || n % 4096 != 0 || n == 0 ||
  (List.range 16).any (fun j => j != i && regionOn s j &&
    ((decide (b < regionBase s j + regionSize s j) && decide (regionBase s j < b + n)) ||
     ((t == 3 || t == 5) && regionTypeOf s j == t)))

/-- The fields of a CTRL write that leaves the entry disabled, under R8: a reserved TYPE leaves TYPE, and it or a RSVD bit is counted once. -/
def regionDisabled (s : State) (src off i val : Nat) : State :=
  let k := regionReg i regionCtrl
  let bad := decide (5 < bits val 3 0)
  let s := if bad || val &&& 0x1FFFFFF0 != 0 then logError s 2 src off else s
  wr s k (bits val 30 29 * 2 ^ 29 + (if bad then regionTypeOf s i else bits val 3 0))

/-- A write of CTRL of entry `i` (R162), made at BAR0 offset `off`. -/
def regionCtrlWrite (s : State) (src off i val : Nat) : State :=
  let k := regionReg i regionCtrl
  let t := bits val 3 0
  if !bit val 31 then regionDisabled s src off i val
  else if !regionOn s i then
    (if regionRefused s i t then logError s 5 src off else wr s k (2 ^ 31 + bits val 30 29 * 2 ^ 29 + t))
  else if t ≠ regionTypeOf s i then logError s 4 src off
  else setFld s k 30 29 (bits val 30 29)

/-! ### Patrol scrub (R170) -/

/-- The scrub of HBM block `b`: it is read, a corrected block is written back, and an uncorrectable one has been written back poisoned
(R172). -/
def scrubEffect (s : State) (b : Nat) : State :=
  let m := stackOf (64 * b)
  if decide (64 * b < hbmTop) && flag s (mcReg m mcScrubCtrl) 31 && flag s (mcReg m mcMcStatus) 0 then
    clearFlaws (readBlock s b) (· == .hbm b)
  else s

/-! ### Configuration space (R159, R214, R216, R556) -/

/-- Log2 of the size of 64-bit BAR `j` (Table 8.2). -/
def barLog2 (s : State) (j : Nat) : Nat := if j = 0 then 26 else if j = 1 then 18 else s.power.bar4Log2

/-- Word `i` of the six BAR words: the address bits above the size, and in a low word the type, 64-bit and for BAR4 prefetchable (Table 8.2;
PRESUMED places, PCI Express, log entry 14). -/
def barWord (s : State) (i : Nat) : Nat :=
  let n := barLog2 s (i / 2)
  let a := s.power.bars.getD (i / 2) 0 / 2 ^ n * 2 ^ n
  if i % 2 = 1 then a / 2 ^ 32 else a % 2 ^ 32 + (if i = 4 then 0xC else 0x4)

/-- A write of BAR word `i`. -/
def barWrite (s : State) (i val : Nat) : State :=
  let put (a : Nat) : Nat := if i % 2 = 1 then a % 2 ^ 32 + 2 ^ 32 * (val % 2 ^ 32) else a / 2 ^ 32 * 2 ^ 32 + val % 2 ^ 32
  { s with power := { s.power with bars := modAt s.power.bars (i / 2) put } }

/-- The capabilities of Table 8.1: Power Management, PCI Express and MSI-X; AER, Device Serial Number, Resizable BAR, Secondary PCI
Express, Data Link Feature, Physical Layer 16.0, Lane Margining, Physical Layer 32.0 and 64.0 GT/s (PRESUMED ids, PCI Express, log entry
14). It has none of those the table marks as not provided. -/
def hasCapability (extended : Bool) (id : Nat) : Bool :=
  if extended then [0x01, 0x03, 0x15, 0x19, 0x25, 0x26, 0x27, 0x2A, 0x31].contains id else [0x01, 0x10, 0x11].contains id

/-- A 32-bit word of configuration space as it reads (PRESUMED places, PCI Express, log entry 14): Bus Master Enable with a capability
list and no INTx, the class code above a revision byte, a header of type 0 of one function, the BARs of Table 8.2, no Expansion ROM and no interrupt pin.
Every part that the spec does not give is a free value, the same at each read. -/
def configRead (s : State) (off : Nat) : Nat :=
  let i := off / 4
  let d := Config.openValue [8, i] % 2 ^ 32
  if i = 1 then setBits (setBits (setBits (setBits d 2 2 (b2n s.power.busMaster)) 10 10 0) 19 19 0) 20 20 1
  else if i = 2 then setBits d 31 8 0x120000
  else if i = 3 then setBits d 23 16 0
  else if 4 ≤ i ∧ i ≤ 9 then barWord s (i - 4)
  else if i = 12 then 0
  else if i = 15 then setBits d 15 8 0
  else d

/-- Bus Master Enable set; with it at 1, pending messages leave (R579). -/
def setBusMaster (s : State) (on : Bool) : State := flushVectors { s with power := { s.power with busMaster := on } }

/-- A 32-bit word of configuration space written: Bus Master Enable and the BARs; nothing else that the spec names stands at a place it
gives. -/
def configWrite (s : State) (off val : Nat) : State :=
  let i := off / 4
  if i = 1 then setBusMaster s (bit val 2) else if 4 ≤ i ∧ i ≤ 9 then barWrite s (i - 4) val else s

/-- A configuration request of a ready function. The link's own state is no request and has no completion. -/
def configEffect (s : State) : ConfigRequest → State
  | .read off => emit s (.configData off (configRead s off))
  | .write off val => emit (configWrite s off val) (.config false)
  | .capability ext id => emit s (.capability ext id (hasCapability ext id))
  | .serialNumber high => emit s (.serialNumber high (rd s (if high then idSerialLo + 4 else idSerialLo)))
  | .maxPayload n =>
    emit { s with power := { s.power with maxPayload := if [128, 256, 512].contains n then n else s.power.maxPayload } } (.config false)
  | .maxReadRequest n =>
    let ok := [128, 256, 512, 1024, 2048, 4096].contains n
    emit { s with power := { s.power with maxReadRequest := if ok then n else s.power.maxReadRequest } } (.config false)
  | .aerRead => emit s (.aerStatus s.power.aer)
  | .aerClear m => emit { s with power := { s.power with aer := s.power.aer - (s.power.aer &&& m) } } (.config false)
  | .resizeBar4 n =>
    emit { s with power := { s.power with bar4Log2 := if 30 ≤ n ∧ n ≤ 38 then n else s.power.bar4Log2 } } (.config false)
  | .busMaster on => setBusMaster (emit s (.config false)) on
  | .powerState d3 => flushVectors (emit { s with power := { s.power with d3hot := d3 } } (.config false))
  | .linkUp up => flushVectors { s with power := { s.power with linkUp := up } }

/-! ### The commands -/

/-- BAR4_ACCESS (R159). In D3hot the function answers no memory request. -/
def execBar4Access (write : Bool) (off len : Nat) (data : List Byte) (ep : Bool) (up : Upset) (s : State) : Host.Outcome State Fault Refusal :=
  if live s && s.power.ready && s.power.linkUp && okData write len data then
    .next (if s.power.d3hot then emit s (.unsupportedRequest off) else bar4Effect (plant s up) write off len data ep)
  else .next s

/-- PATROL_SCRUB (R170) with the bits that have gone wrong before it and the corrections by on-die ECC that its read reports (R184). -/
def execPatrolScrub (block : Nat) (flaws : List Flaw) (onDie : Nat) (s : State) : Host.Outcome State Fault Refusal :=
  .next (if live s then scrubEffect (plant s { flaws := flaws ++ if onDie = 0 then [] else [⟨.onDie block, 0, onDie⟩] }) block else s)

/-- CONFIGURATION_REQUEST (R159, R556): Configuration Request Retry Status until the function is ready. -/
def execConfigurationRequest (req : ConfigRequest) (s : State) : Host.Outcome State Fault Refusal :=
  if !live s then .next s
  else if s.power.ready then .next (configEffect s req)
  else
    match req with
    | .linkUp _ => .next s
    | _ => .next (emit s (.config true))

end Sys2Proof.Machine
end

