-- ==== Sys2Proof/Machine/Registers.lean ====
section
/-! DEFINITION. Register accesses (R7, R8, R12 to R16, R569 to R582): what each register shows, what a write of each does, the rows of the command
table that are register writes, and function-level reset (R217). -/

namespace Sys2Proof.Machine

/-! ### What registers show -/

/-- Port `p` shows its Ethernet view (R571). -/
def ethView (s : State) (p : Nat) : Bool := let m := fld s (portReg p portPortCtrl) 29 28; m == 1 || m == 2

/-- Two bits for a program slot of STREAM_STATE (Table 9.6). -/
def slotBits (p : Option Prog) : Nat := match p with | none => 0 | some p => if p.halted then 2 else 1

/-- STREAM_STATE of a core. -/
def streamState (k : Core) : Nat :=
  ([k.mx, k.vx, k.rx, k.mv].zipIdx.map (fun e => (slotBits e.1.step + 4 * slotBits e.1.side) * 16 ^ e.2)).sum

/-- PWR_STATUS, TEMP_MAX, BOOT_STATUS, BOOT_BUILD and BOARD (Table 19.7). -/
def powerView (s : State) (o : Nat) : Option Nat :=
  let hot (ids : List Nat) : Nat := ids.foldl (fun m i => max m (sget 0 s.power.shown i / 10)) 0
  let m := s.manage
  if o = glbPwrStatus then
    some (2 ^ 31 * b2n (s.power.gate != 0) + 2 ^ 30 * b2n (decide (s.power.inputDv < 660)) + s.power.gates.sum / 1000 * 2 ^ 16 +
      min 65535 (sget 0 s.power.shown 3))
  else if o = glbPwrLimitEff then some (effectiveLimit s)
  else if o = glbTempMax then some (min 255 (hot (span 40 47)) * 256 + min 255 (hot (span 16 36)))
  else if o = glbBootStatus then
    some (2 ^ 31 * m.image + 2 ^ 30 * b2n m.aRejected.isSome + 2 ^ 29 * b2n m.bRejected.isSome + 2 ^ 28 * b2n m.wdog + 256 * m.counter + m.svn)
  else if o = glbBootBuild then some m.build
  else if o = glbBoard then some s.power.boardPos
  else none

/-- The global control registers that are computed. -/
def globalView (s : State) (o : Nat) : Option Nat :=
  if o = glbGlbStatus then some (2 ^ 31 * b2n s.power.ready + bitMap 8 (fun m => flag s (mcReg m mcMcStatus) 0))
  else if o = glbUptimeLo then some (uptimeUs s % 2 ^ 32)
  else if o = glbUptimeHi then some (uptimeUs s / 2 ^ 32)
  else if o = glbPoolLive then some (poolLive s)
  else powerView s o

/-- A key-store slot as its mirror shows it (Table 16.7). -/
def slotView (k : KeySlot) : Nat := 2 ^ 31 * b2n k.filled + 2 ^ 30 * b2n k.openOnly + 2 ^ 16 * k.gen + slotKcv k

/-- The key-store mirrors of bank 4 (Table 16.7). -/
def keyView (s : State) (o : Nat) : Option Nat :=
  if o = ciphKsStatus then some (2 ^ 31 * b2n (pcUsable s) + s.recorder.pcc)
  else if ciphSlot ≤ o ∧ o < ciphSlot + 256 then some (slotView (slotAt s.manage 0 ((o - ciphSlot) / 4)))
  else if ciphRoot ≤ o ∧ o < ciphRoot + 32 then some (slotView (slotAt s.manage 1 ((o - ciphRoot) / 4)))
  else none

/-- The event recorder's registers (Table 18.7). -/
def recorderView (s : State) (o : Nat) : Nat :=
  let r := s.recorder
  let j := activeJournal r
  let t := opTime s
  if o = recRecIndex then r.index
  else if o = recRecStatus then 2 ^ 31 * b2n r.snapshot.isSome
  else if o = recRecFirst then ((eventRecords j).head?.map entrySeq).getD 0
  else if o = recRecNext then r.nextSeq
  else if o = recJrnStatus then 2 ^ 31 * b2n r.journalLost + 2 ^ 30 * b2n r.compacting + 2 ^ 29 * r.activeBank + j.entries.length % 2 ^ 18
  else if o = recJrnGen then j.gen
  else if o = recOpTime then t.1 % 2 ^ 20 * 4096 + t.2
  else if o = recPcc then r.pcc
  else if o = recEvtWritten then r.written
  else if o = recEvtMerged then r.mergedCount
  else if o = recEvtLost then r.lostCount
  else if o = recJrnTorn then r.torn
  else if o = recCompactions then r.compactions
  else leAt (r.snapshot.getD []) (o - recRecData) 4

/-- What the register with key `k` shows. -/
def regView (s : State) (k : Nat) : Nat :=
  if 0x1000 ≤ k ∧ k < 0x2000 then (globalView s (k - 0x1000)).getD (rd s k)
  else if k = bellReg bellBellStatus then rd s k + 2 ^ 29 * b2n (isMaster s) + 2 ^ 28 * b2n s.bell.armed.isSome
  else if k = irqReg irqEvtSummary then summaryWord s
  else if 0x10000 ≤ k ∧ k < 0x20000 ∧ k % 0x400 = ringState then setBits (rd s k) 1 0 (stateOfRing s ((k - 0x10000) / 0x400))
  else if 0x100000 ≤ k ∧ k < 0x140000 then
    let c := coreAt s ((k - 0x100000) / 0x1000)
    let o := k % 0x1000
    if o = coreStreamState then streamState c
    else if o = coreMxBanks then bankCode c.bank0.state + 4 * bankCode c.bank1.state
    else rd s k
  else if k = redReg redInFlight then (s.instances.filter (fun i => !i.complete)).length
  else if k = stlReg mktMktStatus then
    setBits (rd s k) 29 29 (b2n (leftShown s)) + 2 ^ 31 * b2n (isKeeper s) + 2 ^ 30 * b2n (isMasterSite s)
  else if 0x2C4000 ≤ k ∧ k < 0x2C5000 then (keyView s (k - 0x2C4000)).getD (rd s k)
  else if k = intReg intIntStatus then min 255 ((s.integrity.cases.filter (·.open_)).length + s.integrity.held.length) * 2 ^ 24
  else if 0x340000 ≤ k ∧ k < 0x348000 ∧ k % 0x1000 = mcMcStatus then
    rd s k + 4 * b2n (decide (850 ≤ sget 0 s.power.shown (40 + (k - 0x340000) / 0x1000)))
  else if 0x380000 ≤ k ∧ k < 0x381000 then recorderView s (k - 0x380000)
  else rd s k

/-! ### Reads (R13, R15, R16, R573) -/

/-- An RC counter cleared by a read (R15). -/
def clearCounter (s : State) (k : Nat) : State :=
  if k = recReg recEvtWritten then { s with recorder := { s.recorder with written := 0 } }
  else if k = recReg recEvtMerged then { s with recorder := { s.recorder with mergedCount := 0 } }
  else if k = recReg recEvtLost then { s with recorder := { s.recorder with lostCount := 0 } }
  else if k = recReg recJrnTorn then { s with recorder := { s.recorder with torn := 0 } }
  else if k = recReg recCompactions then { s with recorder := { s.recorder with compactions := 0 } }
  else wr s k 0

/-- The _LO registers of R573, by key. -/
def wideLo (k : Nat) : Bool :=
  k == bellReg bellBellNumLo || (decide (0x100000 ≤ k) && decide (k < 0x140000) && k % 0x1000 == coreSlotBellLo) ||
  k == stlReg mktLedgerRoundLo || k == bankReg 4 ciphGraceEndLo ||
  (decide (0x340000 ≤ k) && decide (k < 0x348000) && k % 0x1000 == mcErrAddrLo) ||
  k == glbReg glbUptimeLo || k == intReg errErrLastBellLo

/-- The number of a requester's latch (R573). -/
def latchOf : Requester → Nat
  | .host => 0
  | .core c => c + 1

/-- A read of the register with key `k`: its value, with the latch of a wide pair set or spent. -/
def readReg (s : State) (who : Requester) (k : Nat) (d : RegDef) : Nat × State :=
  let w := latchOf who
  if wideLo k then
    (regView s k, { s with latches := (w, k + 4, BitVec.ofNat 32 (regView s (k + 4))) :: s.latches.filter (fun l => l.1 != w) })
  else if wideLo (k - 4) then
    match s.latches.find? (fun l => l.1 == w && l.2.1 == k) with
    | some l => (l.2.2.toNat, { s with latches := s.latches.filter (fun l => l.1 != w) })
    | none => (regView s k, s)
  else (regView s k, if d.rc then clearCounter s k else s)

/-- `v` without the bits of a mask. -/
def without (v m : Nat) : Nat := v - (v &&& m)

/-- A 32-bit read at BAR0 offset `off`; reserved offsets and RSVD fields read 0 (R7, R569). -/
def read32 (s : State) (who : Requester) (off : Nat) : Nat × State :=
  match placeOf (ethView s) off with
  | .reg k d => readReg s who k d
  | .pendingSet o d => (without (setting s.pendingHalf o) d.rsvd, s)
  | .activeSet o d => (without (setting s.activeHalf o) d.rsvd, s)
  | .msix k _ => (rd s k, s)
  | .reserved => (0, s)

/-- A read of `width` bytes; eight aligned bytes are two reads, low first, and a narrow or misaligned one returns 0 and is counted (R12, R13). -/
def busValue (s : State) (who : Requester) (off width : Nat) : Nat × State :=
  if width = 4 ∧ off % 4 = 0 then read32 s who off
  else if width = 8 ∧ off % 8 = 0 then
    let lo := read32 s who off
    let hi := read32 lo.2 who (off + 4)
    (lo.1 + 2 ^ 32 * hi.1, hi.2)
  else (0, logError s 1 (sourceOf who) off)

/-- A host access past BAR0's 64 MiB, which here names BAR2's doorbell pages: the ring and the offset in its page (R216; DESIGN CHOICE of
the numbering, log entry 14). -/
def doorbellPage (who : Requester) (off : Nat) : Option (Nat × Nat) :=
  if who = .host ∧ 0x4000000 ≤ off ∧ off < 0x4040000 then some ((off - 0x4000000) / 0x1000, off % 0x1000) else none

/-- A bus read with its answer; a doorbell page reads 0 (R222). -/
def busRead (s : State) (who : Requester) (off width : Nat) : State :=
  match doorbellPage who off with
  | some _ => emit s (.readData off 0)
  | none =>
    let r := busValue s who off width
    emit r.2 (.readData off r.1)

/-! ### Writes -/

/-- The RW bits taken and the W1C bits cleared (Table 0.3). -/
def plainWrite (s : State) (k : Nat) (d : RegDef) (val : Nat) : State :=
  let kept := without (rd s k) d.rw + (val &&& d.rw)
  wr s k (without kept (val &&& d.w1c))

/-- A register that takes writes only while `ok` (cause 0x04). -/
def guarded (s : State) (ok : Bool) (src off k : Nat) (d : RegDef) (val : Nat) : State :=
  if d.rw = 0 then plainWrite s k d val else if ok then plainWrite s k d val else logError s 4 src off

/-- A write of PWR_LIMIT (R567). -/
def pwrLimitEffect (s : State) (src val : Nat) : State :=
  let w := bits val 11 0
  if w < 1000 ∨ 3200 < w then logError s 5 src (glbReg glbPwrLimit) else wr s (glbReg glbPwrLimit) w

/-- The bell of a port or handover write made as a bus write by `src`: a core's reach the registers through its mover and act for the bell
that its step slot, else its side slot, carries; the host's for the local bell (R328, R396; DESIGN CHOICE which slot, log entry 52). -/
def busBell (s : State) (src : Nat) : Nat :=
  if src < 0x1000 then bellNum s
  else (((progOf s (src - 0x1000) .mv .step).or (progOf s (src - 0x1000) .mv .side)).map Prog.bell).getD (bellNum s)

/-- Global control (Tables 20.5, 10.5, 11.7, 19.7). -/
def globalWrite (s : State) (src o : Nat) (d : RegDef) (val : Nat) : State :=
  let k := glbReg o
  if o = glbCommitPort then portWrite s src (busBell s src) val
  else if o = glbShardDirLo ∨ o = glbShardDirHi ∨ o = glbShardDirCount then guarded s (!flag s (glbReg glbUndoCtrl) 30) src k k d val
  else if o = glbUndoCtrl then (if bit val 31 then undoGoEffect s else s)
  else if o = glbDsRptr then
    (match diffRegion s with
    | some (_, size) => if val < size then plainWrite s k d val else logError s 5 src k
    | none => logError s 5 src k)
  else if o = glbPwrLimit then pwrLimitEffect s src val
  else plainWrite s k d val

/-- The bell unit (Table 9.7). -/
def bellWrite (s : State) (o : Nat) (d : RegDef) (val : Nat) : State :=
  if o = bellBellCtrl then bellCtrlWrite s val
  else if o = bellArmCtrl then armCtrlWrite s val
  else plainWrite s (bellReg o) d val

/-- A ring block (Table 8.15). -/
def ringWrite (s : State) (src r o : Nat) (d : RegDef) (val : Nat) (v : HostView) : State :=
  if o = ringCtrl then ringCtrlWrite s src r val v
  else if o = ringSqBaseLo ∨ o = ringSqBaseHi ∨ o = ringCqBaseLo ∨ o = ringCqBaseHi ∨ o = ringRptBaseLo ∨ o = ringRptBaseHi ∨ o = ringRptCfg then
    ringOtherWrite s src r o val
  else plainWrite s (ringReg r o) d val

/-- A DMA channel's CTRL (Table 7.6): OWNER outside IDLE and commands in the wrong state are dropped and counted. -/
def chanCtrlWrite (s : State) (c val : Nat) : State :=
  let k := chanReg c chanCtrl
  let moves := bit val 7 != flag s k 7
  let s := if moves && chanStateOf s c != 0 then chanDrop s c else setFlag s k 7 (bit val 7)
  let s := setFld s k 6 3 (bits val 6 3)
  let s := if bit val 31 then goEffect s c else s
  let s := if bit val 30 then abortEffect s c else s
  if bit val 29 then resumeEffect s c else s

/-- A DMA channel block (Table 7.6, R186). -/
def chanWrite (s : State) (c o : Nat) (d : RegDef) (val : Nat) : State :=
  if o = chanCtrl then chanCtrlWrite s c val
  else if chanDesc ≤ o ∧ o < chanStatus then
    (if chanOwner s c || chanStateOf s c == 1 || chanStateOf s c == 2 then chanDrop s c else plainWrite s (chanReg c o) d val)
  else plainWrite s (chanReg c o) d val

/-- PORT_CTRL (Table 12.9, R347, R348, R353, R373, R418). -/
def portCtrlWrite (s : State) (src p val : Nat) : State :=
  let k := portReg p portPortCtrl
  let on := portEnabled s p
  let was := ethView s p
  let oldMode := fld s k 29 28
  let oldDir := portDir s p
  let badMode := bits val 29 28 == 3
  let badDir := bits val 27 25 == 7
  let s := if badMode || badDir || val &&& 0xFFFFFF != 0 then logError s 2 src k else s
  let late := on && !badMode && bits val 29 28 != oldMode
  let s := if late then logError s 4 src k else s
  let mode := if badMode || late then oldMode else bits val 29 28
  let dir := if badDir then oldDir else bits val 27 25
  let third := bit val 31 && mode == 0 && dir != 0 && decide (2 ≤ sameDirection s p dir) && (!on || dir != oldDir)
  let s := if third then logError s 5 src k else s
  let en := bit val 31 && (on || !third)
  let dir := if third && on then oldDir else dir
  let put (s : State) (e : Bool) : State := wr s k (2 ^ 31 * b2n e + mode * 2 ^ 28 + dir * 2 ^ 25 + bits val 24 24 * 2 ^ 24)
  if en && !on then
    let s := put s true
    if mode = 0 then enableMopin s src p else s
  else if on && !en then
    let s := if was then disableEth s p else s
    let s := put s false
    if mode = 0 then disableMopin s p else s
  else
    let s := put s en
    if bit val 30 && en then (if mode = 0 then retrainMopin s src p else pcsEffect s p false) else s

/-- Some Mopin port is enabled (R349). -/
def anyMopinOn (s : State) : Bool := (List.range 8).any (fun p => portEnabled s p && isMopin s p)

/-- A port block in the Mopin view, and the module-wide fabric registers (Tables 12.9, 12.10). -/
def portWrite32 (s : State) (src off k : Nat) (d : RegDef) (val : Nat) : State :=
  if k = fabReg fabFabId ∨ k = fabReg fabTorusSize then
    (if anyMopinOn s then logError s 4 src off else { plainWrite s k d val with torusCounted := false })
  else if 0x3000 ≤ k % 0x4000 then plainWrite s k d val
  else if k % 0x4000 = portPortCtrl then portCtrlWrite s src ((k - 0x200000) / 0x4000) val
  else plainWrite s k d val

/-- STL_CTRL (R444, R446). -/
def stlCtrlWrite (s : State) (src val : Nat) : State :=
  let k := stlReg stlStlCtrl
  let on := stlOn s
  let moved := bits val 7 4 != fld s k 7 4
  let s := if on then (if moved then logError s 4 src k else s) else setFld s k 7 4 (bits val 7 4)
  if bit val 31 then enableStolcen s src else disableStolcen s

/-- The Stolcen and market engine (Tables 14.9, 15.9). -/
def stlWrite (s : State) (src o : Nat) (d : RegDef) (val : Nat) : State :=
  let k := stlReg o
  if o = stlStlCtrl then stlCtrlWrite s src val
  else if o = stlRxRptr then (if mktOn s.activeHalf then logError s 4 src k else plainWrite s k d val)
  else if o = stlRxSig then plainWrite s k d val
  else if o < 0x100 then guarded s (!stlOn s) src k k d val
  else if o = mktMktCmd then mktCommand s src (bits val 31 30) (bits val 1 0)
  else plainWrite s k d val

/-- A word of the region table. -/
def regionWrite (s : State) (src off k : Nat) (d : RegDef) (val : Nat) : State :=
  let i := (k - 0x340800) / 0x20
  if (k - 0x340800) % 0x20 = regionCtrl then regionCtrlWrite s src off i val
  else guarded s (!regionOn s i) src off k d val

/-- A register whose RSVD bits have a rule of their own (R8): COMMIT_PORT, BUCKET_READY, the region entries' CTRL and every word of an enabled
entry (R162), and PORT_CTRL, whose reserved codes are counted with its RSVD bits. -/
def ownReserved (s : State) (k : Nat) : Bool :=
  k == glbReg glbCommitPort || k == redReg redBucketReady ||
  (decide (0x340800 ≤ k) && decide (k < 0x340A00) &&
    ((k - 0x340800) % 0x20 == regionCtrl || regionOn s ((k - 0x340800) / 0x20))) ||
  (decide (0x200000 ≤ k) && decide (k < 0x220000) && k % 0x4000 == portPortCtrl)

/-- A write of `val` to the register with key `k`, made at BAR0 offset `off`. -/
def writeReg (s : State) (src : Nat) (v : HostView) (up : Upset) (off k : Nat) (d : RegDef) (val : Nat) : State :=
  if k < 0x1000 then s
  else if k < 0x2000 then globalWrite s src (k - 0x1000) d val
  else if k < 0x3000 then bellWrite s (k - 0x2000) d val
  else if k < 0x10000 then plainWrite s k d val
  else if k < 0x20000 then ringWrite s src ((k - 0x10000) / 0x400) (k % 0x400) d val v
  else if k < 0x24000 then chanWrite s ((k - 0x20000) / 0x200) (k % 0x200) d val
  else if k < 0x200000 then plainWrite s k d val
  else if k < 0x220000 then portWrite32 s src off k d val
  else if k < 0x280000 then (if k = redReg redBucketReady then readyWrite s v up (busBell s src) val else plainWrite s k d val)
  else if k < 0x2C0000 then stlWrite s src (k - 0x280000) d val
  else if k < 0x340000 then plainWrite s k d val
  else if k < 0x348000 then
    (if 0x340800 ≤ k ∧ k < 0x340A00 then regionWrite s src off k d val else plainWrite s k d val)
  else if k < 0x381000 then (if k = recReg recRecIndex then recIndexEffect s val else s)
  else if k < 0x4200000 then s
  else guarded s (!portEnabled s ((k - 0x4200000) / 0x4000)) src off k d val

/-- A write into the pending half (R8, R268): the word is stored whole; while the copy of R272 runs it wins over the copy. -/
def pendingWrite (s : State) (o val : Nat) : State :=
  let s := { s with pendingHalf := putSetting s.pendingHalf o val }
  if flag s (bellReg bellBellStatus) 27 then modBell s (fun b => { b with keep := setIns b.keep o }) else s

/-- A write that sets RSVD bits, `done` without the count (R8). Where it clears a flag of the error log in the clock of its own error, the flag
stays set: ERR_EVENT.NEW as it is, and ERR_FIRST with that error (R14, R580). -/
def reservedBits (s : State) (src off k : Nat) (done : State → State) : State :=
  if k = intReg errErrEvent then logError s 2 src off
  else if k = intReg errErrFirst then logError (done s) 2 src off
  else done (logError s 2 src off)

/-- A 32-bit write at BAR0 offset `off` by `src`. -/
def write32 (s : State) (src : Nat) (v : HostView) (up : Upset) (off val : Nat) : State :=
  match placeOf (ethView s) off with
  | .reserved => logError s 3 src off
  | .activeSet _ d => if val &&& d.rsvd != 0 then logError s 2 src off else s
  | .pendingSet o _ => pendingWrite s o val
  | .msix k d => flushVectors (plainWrite s k d val)
  | .reg k d =>
    let done (s : State) : State := writeReg s src v up off k d val
    if val &&& d.rsvd != 0 && !ownReserved s k then reservedBits s src off k done else done s

/-- A write of `width` bytes: eight aligned bytes are two writes, low first; a narrow or misaligned one is dropped and counted (R12, R13). A
doorbell page takes it as a doorbell write (R222, R223). -/
def busWrite (s : State) (who : Requester) (v : HostView) (up : Upset) (off width val : Nat) : State :=
  let src := sourceOf who
  match doorbellPage who off with
  | some (r, o) => doorbell s r o width val
  | none =>
  if width = 4 ∧ off % 4 = 0 then write32 s src v up off val
  else if width = 8 ∧ off % 8 = 0 then write32 (write32 s src v up off (val % 2 ^ 32)) src v up (off + 4) (val / 2 ^ 32)
  else logError s 1 src off

/-! ### Function-level reset (R211, R217, Table 20.4) -/

/-- Registers without those of the ring, DMA channel and interrupt blocks. -/
def flrRegs (m : Sparse Word) : Sparse Word :=
  m.filter (fun e => !((decide (0x10000 ≤ e.1) && decide (e.1 < 0x24000)) || (decide (0x4000 ≤ e.1) && decide (e.1 < 0xA000))))

/-- A replay without its DMA descriptors in flight, whose channels are reset; the witness's counts them as failed (R211, R517). -/
def dropDma (witness : Bool) (p : Replay) : Replay :=
  { p with
    inflight := p.inflight.filter (fun d => d.op != 2)
    failed := if witness then p.failed + (p.inflight.filter (fun d => d.op == 2)).length else p.failed
    stopped := p.stopped || (witness && p.inflight.any (fun d => d.op == 2)) }

/-- A function-level reset. Bus Master Enable, the power state, the BARs and the sizes of Device Control are PCI Express's own reset values
(PRESUMED, log entry 14). -/
def flrEffect (s : State) : State :=
  let s := stopReplays s
  let halt (p : Prog) : Prog := { p with halted := true }
  let s := (List.range 64).foldl (fun s c => units.foldl (fun s u => modPrograms s c u halt) s) s
  let s := { s with
    regs := flrRegs s.regs
    channels := List.replicate 32 {}
    rings := List.replicate 64 {}
    replays := s.replays.map (dropDma false)
    witness := s.witness.map (dropDma true)
    reports := s.reports.filter (fun r => !r.closed)
    power := { s.power with busMaster := false, d3hot := false, bars := [0, 0, 0], maxPayload := 128, maxReadRequest := 512 } }
  submitEvent (settleReplays s) 0x6002 0 0 []

/-! ### The commands -/

/-- An access by `who` while the registers are within its reach. -/
def regEvent (s : State) (who : Requester) (t : State) : Host.Outcome State Fault Refusal := .next (if live s && mayAsk s who then t else s)

/-- REGISTER_WRITE (R8). -/
def execRegisterWrite (who : Requester) (off width val : Nat) (host : HostView) (up : Upset) (s : State) : Host.Outcome State Fault Refusal :=
  regEvent s who (busWrite (plant s up) who host up off width val)

/-- RC_COUNTER_READ (R15). -/
def execRcCounterRead (who : Requester) (off width : Nat) (s : State) : Host.Outcome State Fault Refusal := regEvent s who (busRead s who off width)

/-- LO_HALF_READ (R573). -/
def execLoHalfRead (who : Requester) (off width : Nat) (s : State) : Host.Outcome State Fault Refusal := regEvent s who (busRead s who off width)

/-- FUNCTION_LEVEL_RESET (R217). -/
def execFunctionLevelReset (s : State) : Host.Outcome State Fault Refusal := .next (if live s && s.power.ready then flrEffect s else s)

/-- PWR_LIMIT_WRITE (R567). -/
def execPwrLimitWrite (who : Requester) (val : Nat) (s : State) : Host.Outcome State Fault Refusal :=
  regEvent s who (write32 s (sourceOf who) {} {} (glbReg glbPwrLimit) val)

/-- REC_INDEX_WRITE (R543). -/
def execRecIndexWrite (who : Requester) (seq : Nat) (s : State) : Host.Outcome State Fault Refusal :=
  regEvent s who (write32 s (sourceOf who) {} {} (recReg recRecIndex) seq)

/-- TALLY_WRITE (R283): signals of the same clock are added after the write. -/
def execTallyWrite (who : Requester) (core tally val signals : Nat) (s : State) : Host.Outcome State Fault Refusal :=
  regEvent s who (if okCore core && okTally tally then
      (List.range signals).foldl (fun s _ => signalTally s core tally) (write32 s (sourceOf who) {} {} (coreReg core coreTally + 4 * tally) val)
    else s)

/-- TALLY_SIGNAL (R283). -/
def execTallySignal (core tally : Nat) (s : State) : Host.Outcome State Fault Refusal :=
  .next (if live s && okCore core && okTally tally then signalTally s core tally else s)

/-- REGION_CTRL_WRITE (R162). -/
def execRegionCtrlWrite (who : Requester) (entry val : Nat) (s : State) : Host.Outcome State Fault Refusal :=
  regEvent s who (if okEntry entry then write32 s (sourceOf who) {} {} (regionReg entry regionCtrl) val else s)

/-- RING_ENABLE (R219): a write of CTRL with ENABLE = 1. -/
def execRingEnable (who : Requester) (ring val : Nat) (s : State) : Host.Outcome State Fault Refusal :=
  regEvent s who (if okRing ring && bit val 31 then write32 s (sourceOf who) {} {} (ringReg ring ringCtrl) val else s)

/-- RING_DISABLE (R221): a write of CTRL with ENABLE = 0. -/
def execRingDisable (who : Requester) (ring val : Nat) (s : State) : Host.Outcome State Fault Refusal :=
  regEvent s who (if okRing ring && !bit val 31 then write32 s (sourceOf who) {} {} (ringReg ring ringCtrl) val else s)

/-- BELL_ENABLE (R267): a write of BELL_CTRL with EN = 1. -/
def execBellEnable (who : Requester) (val : Nat) (s : State) : Host.Outcome State Fault Refusal :=
  regEvent s who (if bit val 31 then write32 s (sourceOf who) {} {} (bellReg bellBellCtrl) val else s)

/-- BELL_DISABLE (R267): a write of BELL_CTRL with EN = 0. -/
def execBellDisable (who : Requester) (val : Nat) (s : State) : Host.Outcome State Fault Refusal :=
  regEvent s who (if bit val 31 then s else write32 s (sourceOf who) {} {} (bellReg bellBellCtrl) val)

/-- ARM (R269): a write of ARM_CTRL with ARM = 1. -/
def execArm (who : Requester) (val : Nat) (s : State) : Host.Outcome State Fault Refusal :=
  regEvent s who (if bit val 31 then write32 s (sourceOf who) {} {} (bellReg bellArmCtrl) val else s)

/-- DISARM (R270). -/
def execDisarm (who : Requester) (s : State) : Host.Outcome State Fault Refusal :=
  regEvent s who (write32 s (sourceOf who) {} {} (bellReg bellArmCtrl) (2 ^ 30))

/-- PORT_ENABLE (R353): a write of PORT_CTRL with EN = 1. -/
def execPortEnable (who : Requester) (port val : Nat) (s : State) : Host.Outcome State Fault Refusal :=
  regEvent s who (if okPort port && bit val 31 then write32 s (sourceOf who) {} {} (portReg port portPortCtrl) val else s)

/-- PORT_DISABLE (R373): a write of PORT_CTRL with EN = 0. -/
def execPortDisable (who : Requester) (port val : Nat) (s : State) : Host.Outcome State Fault Refusal :=
  regEvent s who (if okPort port && !bit val 31 then write32 s (sourceOf who) {} {} (portReg port portPortCtrl) val else s)

/-- PORT_RETRAIN (R353, R418): RETRAIN set with the register's other fields as they stand. -/
def execPortRetrain (who : Requester) (port : Nat) (s : State) : Host.Outcome State Fault Refusal :=
  regEvent s who (if okPort port then
      write32 s (sourceOf who) {} {} (portReg port portPortCtrl) (setBits (rd s (portReg port portPortCtrl)) 30 30 1)
    else s)

/-- STL_ENABLE (R444): EN set with the register's other fields as they stand. -/
def execStlEnable (who : Requester) (_host : HostView) (s : State) : Host.Outcome State Fault Refusal :=
  regEvent s who (write32 s (sourceOf who) {} {} (stlReg stlStlCtrl) (setBits (rd s (stlReg stlStlCtrl)) 31 31 1))

/-- STL_DISABLE (R444): EN cleared with the register's other fields as they stand. -/
def execStlDisable (who : Requester) (s : State) : Host.Outcome State Fault Refusal :=
  regEvent s who (write32 s (sourceOf who) {} {} (stlReg stlStlCtrl) (setBits (rd s (stlReg stlStlCtrl)) 31 31 0))

/-- MKT_JOIN (R469). -/
def execMktJoin (who : Requester) (site : Nat) (s : State) : Host.Outcome State Fault Refusal :=
  regEvent s who (if site < 4 then write32 s (sourceOf who) {} {} (stlReg mktMktCmd) (2 ^ 30 + site) else s)

/-- MKT_LEAVE (R468). -/
def execMktLeave (who : Requester) (site : Nat) (s : State) : Host.Outcome State Fault Refusal :=
  regEvent s who (if site < 4 then write32 s (sourceOf who) {} {} (stlReg mktMktCmd) (2 ^ 31 + site) else s)

end Sys2Proof.Machine
end

