-- ==== Sys2Proof/Machine/Mover.lean ====
section
/-! DEFINITION. The memory movers: MV instructions, copies between scratchpad, device space and the link dies, compressed places, and the
responses that MOVEs through the link dies wait for (R176 to R183, R329, R380 to R384, R396, R414, R426, R586). -/

namespace Sys2Proof.Machine

/-! ### MV instruction fields (Table 6.6) -/

/-- OP. -/
def mvOp (w : Nat) : Nat := bits w 255 252
/-- SRC. -/
def mvSrc (w : Nat) : Nat := bits w 251 246
/-- DST. -/
def mvDst (w : Nat) : Nat := bits w 245 240
/-- SRC_SP. -/
def mvSrcSp (w : Nat) : Nat := bits w 239 238
/-- DST_SP. -/
def mvDstSp (w : Nat) : Nat := bits w 237 236
/-- CMP. -/
def mvCmp (w : Nat) : Bool := bit w 235
/-- RATE. -/
def mvRate (w : Nat) : Nat := bits w 234 233
/-- SRC_BASE. -/
def mvSrcBase (w : Nat) : Nat := bits w 223 160
/-- DST_BASE. -/
def mvDstBase (w : Nat) : Nat := bits w 159 96
/-- The wait is satisfied, or there is none. -/
def mvWait (s : State) (c w : Nat) : Bool := !bit w 95 || waitMet s c (bits w 94 89) (bits w 88 73)

/-- The MOVE compresses (R180). -/
def mvPacks (w : Nat) : Bool := mvCmp w && mvDstSp w == 1 && mvSrcSp w != 1
/-- The MOVE decompresses (R181). -/
def mvUnpacks (w : Nat) : Bool := mvCmp w && mvSrcSp w == 1 && mvDstSp w != 1

/-- The mover applies no block packing: an FMT 0x6 stream is one of single bytes (R177). FMTs are compared as the descriptors give them. -/
def SDesc.plain (d : SDesc) : SDesc := if d.fmt = 6 then { d with fmt := 0xA } else d

/-- The source descriptor. -/
def mvSrcDesc (s : State) (c w : Nat) : SDesc := (streamDesc s c (mvSrc w)).plain
/-- The destination descriptor. -/
def mvDstDesc (s : State) (c w : Nat) : SDesc := (streamDesc s c (mvDst w)).plain

/-- Byte `k` to `k + len − 1` of the remote target record of a MOVE (Table 12.8). -/
def mvRec (s : State) (c w k len : Nat) : Nat :=
  let base := if mvSrcSp w = 2 then mvSrcBase w else mvDstBase w
  leNat (readMem s.mem (scratchAddr c (base % 2 ^ 28 + k)) len)

/-- The module a record names. -/
def mvTarget (s : State) (c w : Nat) : Coord := coordOf (mvRec s c w 0 3)

/-! ### Validity (R179, R180, R381, R414) -/

/-- The cause codes of the word alone: spaces are judged in a SYNC too. A CMP that neither compresses nor decompresses breaks R180; a
reserved RATE is a reserved code (DESIGN CHOICE, log entry 50). -/
def mvWordCauses (w : Nat) : List Nat :=
  (if 2 ≤ mvOp w ∨ mvSrcSp w = 3 ∨ mvDstSp w = 3 ∨ (mvSrcSp w = 2 ∧ mvDstSp w = 2) then [1] else []) ++
  (if mvOp w = 1 && mvPacks w && mvRate w == 3 then [1] else []) ++
  (if mvOp w = 1 && mvCmp w && ((!mvPacks w && !mvUnpacks w) || (mvPacks w && mvSrcSp w != 0)) then [6] else []) ++
  (if bits w 232 224 ≠ 0 ∨ bits w 52 0 ≠ 0 then [8] else [])

/-- The cause codes of one descriptor; `sp` is its space and `packed` says that its elements are places. -/
def mvStreamCauses (d : SDesc) (sp : Nat) (packed : Bool) : List Nat :=
  (if 4 ≤ d.kind ∨ 0xD ≤ d.fmt ∨ (d.fmt = 0xC ∧ !packed) then [1] else []) ++
  (if d.wide && d.fmt != 0xB then [3] else []) ++
  (if sp = 0 ∧ d.kind = 0 ∧ d.ranges.any (fun r => decide (r.1 < 0) || decide ((scratchSize : Int) < r.2)) then [4] else []) ++
  (if d.kind = 1 ∧ scratchSize < d.indexAddr + d.n * d.idxSize then [4] else []) ++
  (if d.kind = 2 ∨ d.kind = 3 ∨ (7 ≤ d.fmt ∧ d.fmt ≤ 9) then [5] else []) ++
  (if packed && d.fmt != 0xC then [6] else []) ++
  (if d.rsvd then [8] else [])

/-- The cause codes of the remote target record (R381, R414). -/
def mvRecordCauses (s : State) (c w : Nat) : List Nat :=
  let base := if mvSrcSp w = 2 then mvSrcBase w else mvDstBase w
  let d := if mvSrcSp w = 2 then mvSrcDesc s c w else mvDstDesc s c w
  let kind := mvRec s c w 3 1
  let wide (d : SDesc) : Bool := d.fmt == 0xB && d.wide
  if mvSrcSp w ≠ 2 ∧ mvDstSp w ≠ 2 then []
  else if base / 2 ^ 28 ≠ 0 ∨ base % 32 ≠ 0 ∨ scratchSize < base + 32 then [1]
  else
    (if d.kind ≠ 0 ∨ 3 < kind ∨ mvRec s c w 4 4 ≠ 0 ∨ mvRec s c w 16 16 ≠ 0 ∨ (mvSrcSp w = 2 ∧ kind ≠ 0) then [1] else []) ++
    (if mvDstSp w = 2 ∧ kind = 2 ∧ !(wide (mvSrcDesc s c w) && wide (mvDstDesc s c w)) then [3] else [])

/-- FP32, BF16 or SQ32, not WIDE (R180). -/
def frcSource (d : SDesc) : Bool := (d.fmt == 1 || d.fmt == 2 || d.fmt == 0xB) && !d.wide

/-- The full-size place of element `g` of a stream of places, at a device address (R180). -/
def mvPlaceOf (s : State) (c base : Nat) (d : SDesc) (g : Nat) : Nat := unsigned 64 ((base : Int) + d.place s c g)

/-- Every place lies 64-byte aligned in HBM (R180); `size` is that of the values' format. -/
def placesFit (s : State) (c base size : Nat) (d : SDesc) : Bool :=
  (List.range d.n).all (fun g => mvPlaceOf s c base d g % 64 == 0 && decide (mvPlaceOf s c base d g + 256 * size ≤ hbmTop))

/-- The cause codes that descriptors, index tables and the record give; a table that lies outside the scratchpad has cause 0x4. The source
of a decompression must be a stream of the places of R180, one for each 256 destination elements; its destination may have any FMT (R181;
DEDUCED, log entry 50). -/
def mvTableCauses (s : State) (c w : Nat) : List Nat :=
  if scratchSize < stabAt s c (mvSrc w) + 64 ∨ scratchSize < stabAt s c (mvDst w) + 64 then [4]
  else
    let a := mvSrcDesc s c w
    let b := mvDstDesc s c w
    let cs := mvStreamCauses a (mvSrcSp w) (mvUnpacks w) ++ mvStreamCauses b (mvDstSp w) (mvPacks w) ++ mvRecordCauses s c w ++
      (if !mvCmp w && ((streamDesc s c (mvSrc w)).fmt != (streamDesc s c (mvDst w)).fmt || a.wide != b.wide || a.n != b.n)
        then [3] else []) ++
      (if (mvPacks w && (!frcSource a || a.n != 256 * b.n)) || (mvUnpacks w && b.n != 256 * a.n) then [6] else [])
    cs ++ (if cs.any (fun x => decide (x ≤ 6)) then []
      else if mvPacks w && !placesFit s c (mvDstBase w) a.size b then [6]
      else if mvUnpacks w && !placesFit s c (mvSrcBase w) b.size a then [6]
      else [])

/-- The invalidity of an MV instruction: its word's, and where the word has none, from the clock its wait holds its tables' (R140, R179). -/
def mvCause (s : State) (c w : Nat) : Option Nat :=
  match lowest (mvWordCauses w) with
  | some cause => some cause
  | none => if mvOp w = 1 ∧ mvWait s c w then lowest (mvTableCauses s c w) else none

/-- The addresses and lengths of the descriptors and of the remote target record that the instruction reads (R124, R381). -/
def mvTables (s : State) (c w : Nat) : List (Nat × Nat) :=
  padRanges c ([(stabAt s c (mvSrc w), 64), (stabAt s c (mvDst w), 64)] ++
    (if mvSrcSp w = 2 then [(mvSrcBase w, 32)] else []) ++ (if mvDstSp w = 2 then [(mvDstBase w, 32)] else []))

/-- The address of a poisoned descriptor or remote target record (R586). -/
def mvControl (s : State) (c w : Nat) : Option Nat := poisonedTable s (mvTables s c w)

/-! ### Elements (R128, R157, R177, R178) -/

/-- The device address of element `j` of a stream in scratchpad (0) or device space (1); none where a gathered or scattered element falls
outside the scratchpad (R128). -/
def mvPlace (s : State) (c sp base : Nat) (d : SDesc) (j : Nat) : Option Nat :=
  let a := d.place s c j
  if sp = 0 then (if inPad a d.size then some (scratchAddr c a.toNat) else none) else some (unsigned 64 ((base : Int) + a))

/-- A copy under way: the state so far, the bytes put in memory, and the directory entries of the port writes made (R329). -/
structure MvAcc where
  s : State
  puts : List Put
  ports : List Nat
  deriving DecidableEq, Repr

/-- An element that R178 speaks of, counted. -/
def mvMissed (s : State) (c : Nat) : State := count s (coreReg c coreMvOob)

/-- `size` bytes read for core `c` at a place, and whether they come from a poisoned block (R128, R157, R178). -/
def mvRead (s : State) (c : Nat) (v : HostView) (at_ : Option Nat) (size : Nat) : List Byte × Bool × State :=
  match at_ with
  | none => (List.replicate size 0, false, count s (coreReg c coreGatherOob))
  | some a =>
    match spaceOf a with
    | .regs off => let r := busValue s (.core c) off size; (leBytes size r.1, false, r.2)
    | _ =>
      if devFails s v a size then (List.replicate size 0, true, mvMissed s c)
      else let g := devRead s v a size; (g.bytes, g.bad, poisonedTlp s (inHost a && g.bad))

/-- A 32-bit register write of core `c`'s mover for work of bell `n`: COMMIT_PORT and BUCKET_READY act for that bell (R328, R396). The
directory entry of a port write is answered. -/
def mvWrite32 (s : State) (c n : Nat) (v : HostView) (up : Upset) (off val : Nat) : State × List Nat :=
  match placeOf (ethView s) off with
  | .reg k _ =>
    if k = glbReg glbCommitPort then (portWrite s (coreSource c) n val, [bits val 13 0])
    else if k = redReg redBucketReady then (readyWrite s v up n val, [])
    else (write32 s (coreSource c) v up off val, [])
  | _ => (write32 s (coreSource c) v up off val, [])

/-- A register write of core `c`'s mover (R12, R13, R157). -/
def mvRegWrite (s : State) (c n : Nat) (v : HostView) (up : Upset) (off : Nat) (bs : List Byte) : State × List Nat :=
  if bs.length = 4 ∧ off % 4 = 0 then mvWrite32 s c n v up off (leNat bs)
  else if bs.length = 8 ∧ off % 8 = 0 then
    let lo := mvWrite32 s c n v up off (leNat (bs.take 4))
    let hi := mvWrite32 lo.1 c n v up (off + 4) (leNat (bs.drop 4))
    (hi.1, lo.2 ++ hi.2)
  else (logError s 1 (coreSource c) off, [])

/-- Bytes put in memory with the mark a part of a block leaves (R173); a byte of a failed stack is dropped (R171). -/
def mvStore (t : MvAcc) (a : Nat) (bs : List Byte) (bad : Bool) : MvAcc :=
  let puts := (putsOf a bs bad).filter (fun p => !deadStack t.s p.1)
  { t with
    s := { t.s with
      mem := puts.foldl (fun m p => writeMem m p.1 [p.2.1]) t.s.mem
      poison := if bad then (puts.map (fun p => p.1 / 64)).foldl setIns t.s.poison else t.s.poison }
    puts := puts ++ t.puts }

/-- An element written at a place (R128, R157, R178). -/
def mvWrite (t : MvAcc) (c n : Nat) (v : HostView) (up : Upset) (at_ : Option Nat) (bs : List Byte) (bad : Bool) : MvAcc :=
  match at_ with
  | none => { t with s := count t.s (coreReg c coreGatherOob) }
  | some a =>
    match spaceOf a with
    | .regs off => let r := mvRegWrite t.s c n v up off bs; { t with s := r.1, ports := t.ports ++ r.2 }
    | .host x => if hostReachable t.s && decide (a + bs.length ≤ 2 ^ 64) then { t with s := emit t.s (.hostWrite x bs bad) }
        else { t with s := mvMissed t.s c }
    | .hole => { t with s := mvMissed t.s c }
    | _ => if memoryRange a bs.length then mvStore t a bs bad else { t with s := mvMissed t.s c }

/-- The bytes of a copy taken together: blocks covered whole by clean bytes become clean, HBM blocks covered in part are counted, and new
marks take the origin of the data (R168, R173, log entry 9). -/
def mvSettle (t : MvAcc) (o : MarkOrigin) : State :=
  let bs := (t.puts.map (fun p => p.1 / 64)).dedup
  inheritOrigin (countPartial { t.s with poison := bs.foldl (putMark t.puts) t.s.poison } t.puts) t.puts o

/-- A copy made after the merges that its writes need: what it covers in part is read first (R166, R168). -/
def merged (s : State) (copy : State → MvAcc) : MvAcc := if s.flaws.isEmpty then copy s else copy (mergePuts s (copy s).puts)

/-! ### The copies -/

/-- A MOVE being carried out: its word and bell, and its descriptors as read at issue. -/
structure MvRun where
  c : Nat
  w : Nat
  bell : Nat
  src : SDesc
  dst : SDesc
  host : HostView
  up : Upset
  deriving DecidableEq, Repr

/-- The place of source element `j`. -/
def MvRun.srcPlace (r : MvRun) (s : State) (j : Nat) : Option Nat := mvPlace s r.c (mvSrcSp r.w) (mvSrcBase r.w) r.src j
/-- The place of destination element `j`. -/
def MvRun.dstPlace (r : MvRun) (s : State) (j : Nat) : Option Nat := mvPlace s r.c (mvDstSp r.w) (mvDstBase r.w) r.dst j

/-- One element copied: its read sees the writes before it (R177). -/
def MvRun.copyOne (r : MvRun) (t : MvAcc) (j : Nat) : MvAcc :=
  let g := mvRead t.s r.c r.host (r.srcPlace t.s j) r.src.size
  mvWrite { t with s := g.2.2 } r.c r.bell r.host r.up (r.dstPlace g.2.2 j) g.1 g.2.1

/-- Elements read in stream order. -/
def MvRun.readAll (r : MvRun) (s : State) (js : List Nat) : List (List Byte × Bool) × State :=
  js.foldl (fun a j => let g := mvRead a.2 r.c r.host (r.srcPlace a.2 j) r.src.size; (a.1 ++ [(g.1, g.2.1)], g.2.2)) ([], s)

/-- The metadata of a place's first block written (Table 6.4): CMP = 1 with a tag, or CMP = 0 where the tag is 0. A failed stack drops it (R171). -/
def setFrc (s : State) (a tag : Nat) : State := if deadStack s a then s else { s with frc := sput 0 s.frc (a / 64) tag }

/-- Group `g` compressed into its place, or written in full where R45 refuses it (R180). -/
def MvRun.packOne (r : MvRun) (t : MvAcc) (g : Nat) : MvAcc :=
  let rd := r.readAll t.s ((List.range 256).map (· + 256 * g))
  let a := mvPlaceOf rd.2 r.c (mvDstBase r.w) r.dst g
  let t := { t with s := rd.2 }
  match frcEncode (mvRate r.w) (r.src.fmt == 0xB) (rd.1.map (fun e => decodeElem r.src.fmt (leNat e.1))) with
  | some (q, payload) =>
    let t := mvStore t a payload (rd.1.any (·.2))
    { t with s := setFrc t.s a (frcTag (mvRate r.w) r.src.fmt q) }
  | none =>
    let t := rd.1.zipIdx.foldl (fun t e => mvStore t (a + r.src.size * e.2) e.1.1 e.1.2) t
    { t with s := setFrc t.s a 0 }

/-- The blocks of a place that a decompression reads: the prefix that RATE gives, or all (R181). -/
def placeBlocks (s : State) (a size fmt : Nat) : List Nat :=
  let tag := sget 0 s.frc (a / 64)
  if tag = 0 then blocksOf a (256 * size) else if bits tag 13 10 = fmt then blocksOf a (32 * frcBits (bits tag 15 14)) else blocksOf a 64

/-- The 256 elements of the place of group `g`, all of one mark (R181). A WIDE destination takes an SQ32 value with its sign, and a place with
CMP = 0 is copied at the destination's element size (DESIGN CHOICE, log entry 50). -/
def MvRun.unpack (r : MvRun) (s : State) (g : Nat) : List (List Byte × Bool) :=
  let a := mvPlaceOf s r.c (mvSrcBase r.w) r.src g
  let size := r.dst.size
  let tag := sget 0 s.frc (a / 64)
  let bad := (placeBlocks s a size r.dst.fmt).any (fun b => poisoned s (64 * b))
  if tag = 0 then (chunks size 256 (readMem s.mem a (256 * size))).map (fun e => (e, bad))
  else if bits tag 13 10 ≠ r.dst.fmt then List.replicate 256 (List.replicate size 0, true)
  else
    let rate := bits tag 15 14
    (frcDecode rate (signed 8 (bits tag 7 0)) (readMem s.mem a (32 * frcBits rate))).map
      (fun x =>
        let e := (convert r.dst.fmt x .rne).enc
        (leBytes size (if r.dst.wide then unsigned 64 (signed 32 e) else e), bad))

/-- Group `g` decompressed. -/
def MvRun.unpackOne (r : MvRun) (t : MvAcc) (g : Nat) : MvAcc :=
  (r.unpack t.s g).zipIdx.foldl (fun t e => mvWrite t r.c r.bell r.host r.up (r.dstPlace t.s (256 * g + e.2)) e.1.1 e.1.2) t

/-- The whole of a MOVE into scratchpad or device space. -/
def MvRun.copy (r : MvRun) (s : State) : MvAcc :=
  let t : MvAcc := ⟨s, [], []⟩
  if mvPacks r.w then (List.range r.dst.n).foldl r.packOne t
  else if mvUnpacks r.w then (List.range r.src.n).foldl r.unpackOne t
  else (List.range r.src.n).foldl r.copyOne t

/-- The blocks that a stream's elements and index table lie in, for the errors and the poison its reads meet. -/
def mvBlocks (s : State) (c sp base : Nat) (d : SDesc) (size : Nat) (data : Bool) : List Nat :=
  (List.range d.n).flatMap (fun j =>
    (if d.kind = 1 then blocksOf (scratchAddr c (d.indexAddr + j * d.idxSize)) d.idxSize else []) ++
    (if data && sp != 2 then
      (match mvPlace s c sp base d j with
       | some a => if memoryRange a size then blocksOf a size else []
       | none => [])
     else []))

/-- Every block a MOVE reads, but for the remote side. -/
def MvRun.blocks (r : MvRun) (s : State) : List Nat :=
  let src := if mvUnpacks r.w then
      mvBlocks s r.c 1 0 r.src 1 false ++
      (List.range r.src.n).flatMap (fun g => placeBlocks s (mvPlaceOf s r.c (mvSrcBase r.w) r.src g) r.dst.size r.dst.fmt)
    else mvBlocks s r.c (mvSrcSp r.w) (mvSrcBase r.w) r.src r.src.size true
  (src ++ mvBlocks s r.c (mvDstSp r.w) 0 r.dst 1 false).dedup

/-! ### The link dies (R381 to R384, R414, R426) -/

/-- Elements of `size` bytes at remote addresses cut into runs of at most 224 bytes: where each starts and which elements it holds
(R382). -/
def runsOf (size : Nat) (as : List Nat) : List (Nat × List Nat) :=
  (as.zipIdx.foldl (fun rs e =>
    match rs with
    | (a, js) :: rest => if a + size * js.length = e.1 ∧ size * (js.length + 1) ≤ 224 then (a, js ++ [e.2]) :: rest else (e.1, [e.2]) :: rs
    | [] => [(e.1, [e.2])]) []).reverse

/-- The remote address of element `j` (R381). -/
def remotePlace (s : State) (c w : Nat) (d : SDesc) (j : Nat) : Nat := unsigned 64 ((mvRec s c w 8 8 : Int) + d.place s c j)

/-- The transport type a record's KIND sends (Tables 12.6 and 12.8). -/
def kindType (k : Nat) : Nat := if k = 1 then 3 else if k = 2 then 5 else if k = 3 then 4 else 1

/-- How an outstanding response is named among a MOVE's: reads and messages apart. -/
def respName (read : Bool) (tag : Nat) : Nat := tag + 65536 * b2n read

/-- A packet of a MOVE put on its way: step work's may be held back (R519). -/
def mvSend (s : State) (k : DescKey) (c : Nat) (p : Packet) : State :=
  match stepBellOf k with
  | some n => sendStep s n (some c) p
  | none => inject s c none p

/-- The message of a MOVE into link-die space sent; the names of the responses it waits for (R382, R384). -/
def MvRun.send (r : MvRun) (s : State) (k : DescKey) (es : List (List Byte × Bool)) : State × List Nat :=
  let size := if mvUnpacks r.w then r.dst.size else r.src.size
  let target := mvTarget s r.c r.w
  let kind := mvRec s r.c r.w 3 1
  let runs := runsOf size ((List.range es.length).map (remotePlace s r.c r.w r.dst))
  let (tag, s) := takeTag s
  let s := { s with requests := s.requests ++ [{ tag := tag, kind := .move r.c, target := target, read := false, dests := [] }] }
  let s := runs.zipIdx.foldl (fun s e =>
    let mine := e.1.2.map (fun j => es.getD j ([], false))
    let data := mine.flatMap (·.1)
    let bad := mine.flatMap (fun x => x.1.map (fun _ => x.2))
    mvSend s k r.c
      { ttype := kindType kind, first := e.2 == 0, last := e.2 + 1 == runs.length, ackReq := e.2 + 1 == runs.length, status := 0,
        dst := target, src := ownXyz s, tag := tag, addr := e.1.1, data := data,
        poison := bitMap ((data.length + 31) / 32) (fun g => ((bad.drop (32 * g)).take 32).any id) }) s
  (s, [respName false tag])

/-- Where destination element `j` of a read out of link-die space goes; 2⁶⁴ for one that falls outside the scratchpad. -/
def MvRun.fillPlace (r : MvRun) (s : State) (j : Nat) : Nat := (r.dstPlace s j).getD (2 ^ 64)

/-- The reads of a MOVE out of link-die space: remote address and request of each (R382). -/
def MvRun.reads (r : MvRun) (s : State) : List (Nat × FabReq) :=
  let target := mvTarget s r.c r.w
  (runsOf r.src.size ((List.range r.src.n).map (remotePlace s r.c r.w r.src))).map (fun e =>
    (e.1, { tag := 0, kind := .move r.c, target := target, read := true, dests := e.2.map (r.fillPlace s), size := r.src.size }))

/-- The READ_REQs of a MOVE sent in order, as far as there are tags for them (R380, R382; log entry 36). -/
def askReads (s : State) (o : MoveOp) : State × MoveOp :=
  o.unasked.foldl (fun a e =>
    match a.2.unasked, readTag a.1 (e.2.size * e.2.dests.length), e.2.kind with
    | [], some tag, .move c =>
      let s := { a.1 with requests := a.1.requests ++ [{ e.2 with tag := tag }] }
      (mvSend s o.key c { barePacket 2 e.2.target (ownXyz s) tag 0 with addr := e.1 }, { a.2 with tags := a.2.tags ++ [respName true tag] })
    | _, _, _ => (a.1, { a.2 with unasked := a.2.unasked ++ [e] })) (s, { o with unasked := [] })

/-- The reads that waited for a tag sent, once a response has freed one. -/
def askWaiting (s : State) : State :=
  (List.range 64).foldl (fun s c =>
    if (coreAt s c).mvOps.all (fun o => o.unasked.isEmpty) then s
    else
      let r := (coreAt s c).mvOps.foldl (fun (a : State × List MoveOp) o => let x := askReads a.1 o; (x.1, a.2 ++ [x.2])) (s, [])
      modCore r.1 c (fun k => { k with mvOps := r.2 })) s

/-! ### Issue -/

/-- The slot's next MV instruction could issue now. -/
def mvCanIssue (s : State) (c : Nat) (sl : Slot) : Bool :=
  match (progOf s c .mv sl).bind (fun p => (nextIndex p).map (fun i => (p, i))) with
  | none => false
  | some (p, i) =>
    let w := headWord s c .mv p i
    !headPoisoned s c .mv p i && mvWait s c w && (mvOp w == 0 || (mvControl s c w).isNone) && (mvCause s c w).isNone

/-- It is this slot's turn (R288, R319). -/
def mvTurn (s : State) (c : Nat) (sl : Slot) : Bool := sl == .step || sideAllowed s (coreAt s c).mv (mvCanIssue s c .step)

/-- An MV SYNC issues and signals (R73, R176). Another instruction at the head is judged by its word alone (R140). -/
def mvSyncEffect (s : State) (c : Nat) (sl : Slot) : State :=
  match headOf s c .mv sl with
  | (s, none) => s
  | (s, some (p, i, w)) =>
    match lowest (mvWordCauses w) with
    | some cause => haltInvalid s c .mv sl i cause
    | none =>
      if mvOp w = 0 && mvWait s c w && mvTurn s c sl then
        instrDone (signalIf (advance s c .mv sl) (bit w 72) (bits w 71 66) (bits w 65 60)) p.key c
      else s

/-- The work of an issued MOVE, after the errors its reads meet: it copies, sends or asks, and waits for what is left (R176 to R182, R381
to R383). -/
def MvRun.start (r : MvRun) (s : State) (sl : Slot) (p : Prog) : State :=
  let blocks := r.blocks s
  let s := strike s blocks
  let marked := (blocks.filter (fun b => poisoned s (64 * b))).map (fun b => (b, originOf s (64 * b)))
  let origin := originAmong s blocks []
  let s := marked.foldl (fun s b => poisonRead s p.key p.job r.c 3 0 (some (64 * b.1)) b.2) s
  let op : MoveOp := { slot := sl, key := p.key, word := r.w, bell := r.bell, reading := true, tags := [], ports := [] }
  let (s, op) : State × MoveOp :=
    if mvSrcSp r.w = 2 then askReads s { op with unasked := r.reads s }
    else if mvDstSp r.w = 2 then
      let es := if mvUnpacks r.w then ((List.range r.src.n).flatMap (r.unpack s), s) else r.readAll s (List.range r.src.n)
      let a := r.send es.2 p.key es.1
      (poisonSent a.1 marked, { op with tags := a.2 })
    else
      let t := merged s r.copy
      (mvSettle t origin, { op with ports := t.ports })
  modCore s r.c (fun k => { k with mvOps := k.mvOps ++ [op] })

/-- A MOVE issues (R26, R177, R179, R586); its port writes act for the bell that its slot carries (R328, R396). -/
def mvMoveEffect (s : State) (c : Nat) (sl : Slot) (v : HostView) (up : Upset) : State :=
  match headOf s c .mv sl with
  | (s, none) => s
  | (s, some (p, i, w)) =>
    match lowest (mvWordCauses w) with
    | some cause => haltInvalid s c .mv sl i cause
    | none =>
      if mvOp w = 1 && mvWait s c w && mvTurn s c sl then
        let s := strike s (rangeBlocks (mvTables s c w))
        match mvControl s c w with
        | some a => haltPoisoned s c .mv sl a
        | none =>
          match mvCause s c w with
          | some cause => haltInvalid s c .mv sl i cause
          | none =>
            let r : MvRun := { c := c, w := w, bell := p.bell, src := mvSrcDesc s c w, dst := mvDstDesc s c w, host := v, up := up }
            r.start (advance s c .mv sl) sl p
      else s

/-! ### Ends (R176, R329, R383) -/

/-- A packet of a MOVE's message or requests has not left the core. -/
def unsent (s : State) (c : Nat) (o : MoveOp) : Bool :=
  let mine (q : Packet) : Bool := o.tags.contains (respName (q.ttype == 2) q.tag)
  (coreAt s c).sendQ.any (fun e => mine e.2) || s.withheld.any (fun x => x.2.1 == some c && mine x.2.2)

/-- The MOVE's reads have ended, or its last packet has left. -/
def moveRead (s : State) (c : Nat) (o : MoveOp) : Bool :=
  if mvSrcSp o.word = 2 then o.tags.isEmpty && o.unasked.isEmpty else !unsent s c o

/-- The MOVE's responses and port writes are complete. -/
def moveWritten (s : State) (o : MoveOp) : Bool :=
  o.tags.isEmpty && o.ports.all (fun i => !s.flipWait.any (fun e => e.1 == i) && !s.diffs.any (fun d => d.index == i))

/-- The reads of a MOVE end, and RSIG_EN signals. -/
def mvReadsEffect (s : State) (c : Nat) : State :=
  match (coreAt s c).mvOps.find? (fun o => o.reading && moveRead s c o) with
  | none => s
  | some o =>
    let s := modCore s c (fun k => { k with mvOps := k.mvOps.map (fun x => if x = o then { x with reading := false } else x) })
    signalIf s (bit o.word 59) c (bits o.word 58 53)

/-- The last write of a MOVE completes, and SIG_EN signals. -/
def mvWritesEffect (s : State) (c : Nat) : State :=
  match (coreAt s c).mvOps.find? (fun o => !o.reading && moveWritten s o) with
  | none => s
  | some o =>
    let s := modCore s c (fun k => { k with mvOps := k.mvOps.erase o })
    signalIf (instrDone s o.key c) (bit o.word 72) (bits o.word 71 66) (bits o.word 65 60)

/-! ### Responses (R379, R380, R383) -/

/-- The request that a response with this tag answers: its module's, or another's where the answer came from on the way (R372). -/
def requestOf (s : State) (read : Bool) (tag : Nat) (src : Coord) : Option FabReq :=
  match s.requests.find? (fun q => q.read == read && q.tag == tag && q.target == src) with
  | some q => some q
  | none => s.requests.find? (fun q => q.read == read && q.tag == tag)

/-- A failed response counted, and for a MOVE recorded (R383). -/
def respFailed (s : State) (q : FabReq) (status : Nat) : State :=
  let s := count s (fabReg fabRemoteFail)
  match q.kind with
  | .move c => logError (raiseFlag s 3 (fabReg fabFabEvent) 31) 0x12 (coreSource c) (coordBits q.target + status * 2 ^ 24)
  | _ => s

/-- The elements a READ_RESP fills: its data with its marks, or zero bytes from a poisoned block (R379, R383). -/
def fillRead (s : State) (c n : Nat) (q : FabReq) (status : Nat) (data : List Byte) (poison : Nat)
    (o : MarkOrigin) : State :=
  let t := merged s (fun s => q.dests.zipIdx.foldl (fun (t : MvAcc) e =>
    let off := q.size * e.2
    let ok : Bool := status == 0 && decide (off + q.size ≤ data.length)
    let bs := if ok then slice data off q.size else List.replicate q.size 0
    let bad := !ok || (span (off / 32) ((off + q.size - 1) / 32)).any (fun g => bit poison g)
    mvWrite t c n {} {} (if e.1 = 2 ^ 64 then none else some e.1) bs bad) ⟨s, [], []⟩)
  let s := mvSettle t o
  modCore s c (fun k => { k with
    mvOps := modWhere k.mvOps (fun o => o.tags.contains (respName true q.tag)) (fun o => { o with ports := o.ports ++ t.ports }) })

/-- A request is answered with a status, data, marks and where they come from; its tag may serve a read that waits. -/
def answerRequest (s : State) (q : FabReq) (status : Nat) (data : List Byte) (poison : Nat) (o : MarkOrigin) : State :=
  let s := { s with requests := s.requests.erase q }
  let s := if status = 0 then s else respFailed s q status
  match q.kind with
  | .move c =>
    let name := respName q.read q.tag
    match (coreAt s c).mvOps.find? (fun o => o.tags.contains name) with
    | none => s
    | some m =>
      let s := if q.read then fillRead s c m.bell q status data poison o else s
      askWaiting (modCore s c (fun k => { k with
        mvOps := modWhere k.mvOps (fun x => x.tags.contains name) (fun x => { x with tags := x.tags.erase name }) }))
  | .deliver p seq => deliverAnswered s p seq status
  | .transport => s
  | .digest => askWaiting (digestAnswered s (if status = 0 ∧ poison = 0 then some data else none))

/-- The transport type of the response to a request. -/
def respType (read : Bool) : Nat := if read then 0x10 else 0x11

/-- The next response of a kind that answers an outstanding request. -/
def respEffect (s : State) (read : Bool) : State :=
  match nextOf s (respType read) (fun p => (requestOf s read p.tag p.src).isSome) with
  | none => s
  | some i =>
    match requestOf s read i.pkt.tag i.pkt.src with
    | none => s
    | some q =>
      let o := if i.pkt.status = 0 then MarkOrigin.flit i.pkt.src (portSource i.port) else .other (portSource i.port)
      answerRequest (consume s i) q i.pkt.status i.pkt.data i.pkt.poison o

/-- A request whose response has not arrived acts as if answered with TIMEOUT (R380). -/
def responseTimeoutEffect (s : State) (tag : Nat) : State :=
  match s.requests.find? (fun q => q.tag == tag) with
  | none => s
  | some q => answerRequest { s with expired := s.expired ++ [(q.read, q.tag)] } q 0x0D [] 0 (.other 0)

/-- A response that answers no outstanding request is discarded and counted (R380). -/
def lateEffect (s : State) : State :=
  let late (read : Bool) : Option InPkt := nextOf s (respType read) (fun p => (requestOf s read p.tag p.src).isNone)
  let drop (s : State) (read : Bool) (i : InPkt) : State :=
    askWaiting (count { consume s i with expired := s.expired.erase (read, i.pkt.tag) } (fabReg fabLateResp))
  match late true, late false with
  | some i, _ => drop s true i
  | none, some i => drop s false i
  | none, none => s

/-! ### The commands -/

/-- MV_SYNC (R176). -/
def execMvSync (core : Nat) (slot : Slot) (up : Upset) (s : State) : Host.Outcome State Fault Refusal :=
  coreEvent s core (mvSyncEffect (plant s up) core slot)

/-- MV_MOVE (R177). -/
def execMvMove (core : Nat) (slot : Slot) (host : HostView) (up : Upset) (s : State) : Host.Outcome State Fault Refusal :=
  coreEvent s core (mvMoveEffect (plant s up) core slot host up)

/-- MV_READS_END (R176). -/
def execMvReadsEnd (core : Nat) (s : State) : Host.Outcome State Fault Refusal := coreEvent s core (mvReadsEffect s core)

/-- MV_WRITES_COMPLETE (R176). -/
def execMvWritesComplete (core : Nat) (s : State) : Host.Outcome State Fault Refusal := coreEvent s core (mvWritesEffect s core)

/-- READ_RESP (R383). -/
def execReadResp (s : State) : Host.Outcome State Fault Refusal := .next (if live s then respEffect s true else s)

/-- WRITE_ACK (R383). -/
def execWriteAck (s : State) : Host.Outcome State Fault Refusal := .next (if live s then respEffect s false else s)

/-- RESPONSE_TIMEOUT (R380). -/
def execResponseTimeout (tag : Nat) (s : State) : Host.Outcome State Fault Refusal := .next (if live s then responseTimeoutEffect s tag else s)

/-- LATE_RESPONSE (R380). -/
def execLateResponse (s : State) : Host.Outcome State Fault Refusal := .next (if live s then lateEffect s else s)

end Sys2Proof.Machine
end

