-- ==== Sys2Proof/Machine/Dispatch.lean ====
section
/-! DEFINITION. The meaning of each command: one arm per constructor, each one direct call. -/

namespace Sys2Proof.Machine

def exec (i : Instr) (s : State) : Host.Outcome State Fault Refusal :=
  match i with
  | .registerWrite who off width val host up => Sys2Proof.Machine.execRegisterWrite who off width val host up s
  | .rcCounterRead who off width => Sys2Proof.Machine.execRcCounterRead who off width s
  | .loHalfRead who off width => Sys2Proof.Machine.execLoHalfRead who off width s
  | .bar4Access write off len data ep up => Sys2Proof.Machine.execBar4Access write off len data ep up s
  | .functionLevelReset => Sys2Proof.Machine.execFunctionLevelReset s
  | .standbyPowerOn inputDv boardPos => Sys2Proof.Machine.execStandbyPowerOn inputDv boardPos s
  | .bootComplete => Sys2Proof.Machine.execBootComplete s
  | .bootWatchdog => Sys2Proof.Machine.execBootWatchdog s
  | .pwrEnAssert => Sys2Proof.Machine.execPwrEnAssert s
  | .mainDomainUp => Sys2Proof.Machine.execMainDomainUp s
  | .pwrEnDeassert => Sys2Proof.Machine.execPwrEnDeassert s
  | .undervoltageLockout inputDv => Sys2Proof.Machine.execUndervoltageLockout inputDv s
  | .thermalTrip sensor temp => Sys2Proof.Machine.execThermalTrip sensor temp s
  | .sensorUpdate sensor value => Sys2Proof.Machine.execSensorUpdate sensor value s
  | .powerSample watts => Sys2Proof.Machine.execPowerSample watts s
  | .pwrLimitWrite who val => Sys2Proof.Machine.execPwrLimitWrite who val s
  | .perstNAssert => Sys2Proof.Machine.execPerstNAssert s
  | .perstNDeassert => Sys2Proof.Machine.execPerstNDeassert s
  | .packageLeaveReset => Sys2Proof.Machine.execPackageLeaveReset s
  | .functionReady trained => Sys2Proof.Machine.execFunctionReady trained s
  | .mctpControl req => Sys2Proof.Machine.execMctpControl req s
  | .getTid => Sys2Proof.Machine.execGetTid s
  | .getPldmVersion type => Sys2Proof.Machine.execGetPldmVersion type s
  | .getPldmTypes => Sys2Proof.Machine.execGetPldmTypes s
  | .getPldmCommands type => Sys2Proof.Machine.execGetPldmCommands type s
  | .getPdr record => Sys2Proof.Machine.execGetPdr record s
  | .getSensorReading sensor => Sys2Proof.Machine.execGetSensorReading sensor s
  | .getStateSensorReadings sensor => Sys2Proof.Machine.execGetStateSensorReadings sensor s
  | .setNumericEffecterValue effecter value => Sys2Proof.Machine.execSetNumericEffecterValue effecter value s
  | .getNumericEffecterValue effecter => Sys2Proof.Machine.execGetNumericEffecterValue effecter s
  | .queryDeviceIdentifiers => Sys2Proof.Machine.execQueryDeviceIdentifiers s
  | .getFirmwareParameters => Sys2Proof.Machine.execGetFirmwareParameters s
  | .requestUpdate => Sys2Proof.Machine.execRequestUpdate s
  | .passComponentTable => Sys2Proof.Machine.execPassComponentTable s
  | .updateComponent size => Sys2Proof.Machine.execUpdateComponent size s
  | .requestFirmwareData off data => Sys2Proof.Machine.execRequestFirmwareData off data s
  | .transferComplete ok => Sys2Proof.Machine.execTransferComplete ok s
  | .verifyComplete => Sys2Proof.Machine.execVerifyComplete s
  | .applyComplete => Sys2Proof.Machine.execApplyComplete s
  | .activateFirmware => Sys2Proof.Machine.execActivateFirmware s
  | .getStatus => Sys2Proof.Machine.execGetStatus s
  | .cancelUpdate => Sys2Proof.Machine.execCancelUpdate s
  | .spdmMessage req => Sys2Proof.Machine.execSpdmMessage req s
  | .keyFill space slot mode key => Sys2Proof.Machine.execKeyFill space slot mode key s
  | .keyErase space slot => Sys2Proof.Machine.execKeyErase space slot s
  | .keyStatus space slot => Sys2Proof.Machine.execKeyStatus space slot s
  | .configWrite key value => Sys2Proof.Machine.execConfigWrite key value s
  | .eventSubmit code source status payload => Sys2Proof.Machine.execEventSubmit code source status payload s
  | .eventRecordWrite => Sys2Proof.Machine.execEventRecordWrite s
  | .repeatEntryTimer => Sys2Proof.Machine.execRepeatEntryTimer s
  | .timeEntryTimer => Sys2Proof.Machine.execTimeEntryTimer s
  | .recIndexWrite who seq => Sys2Proof.Machine.execRecIndexWrite who seq s
  | .tallyWrite who core tally val signals => Sys2Proof.Machine.execTallyWrite who core tally val signals s
  | .tallySignal core tally => Sys2Proof.Machine.execTallySignal core tally s
  | .mxSync core slot up => Sys2Proof.Machine.execMxSync core slot up s
  | .mxTileIssue core slot up => Sys2Proof.Machine.execMxTileIssue core slot up s
  | .tilePassStart core up => Sys2Proof.Machine.execTilePassStart core up s
  | .tilePassEnd core up => Sys2Proof.Machine.execTilePassEnd core s up
  | .tileBankComplete core up => Sys2Proof.Machine.execTileBankComplete core up s
  | .auditStart core => Sys2Proof.Machine.execAuditStart core s
  | .auditEnd core differs host => Sys2Proof.Machine.execAuditEnd core differs s host
  | .vxSync core slot up => Sys2Proof.Machine.execVxSync core slot up s
  | .vxRecipeIssue core slot up => Sys2Proof.Machine.execVxRecipeIssue core slot up s
  | .vxReadsEnd core => Sys2Proof.Machine.execVxReadsEnd core s
  | .vxWritesComplete core => Sys2Proof.Machine.execVxWritesComplete core s
  | .rxSync core slot up => Sys2Proof.Machine.execRxSync core slot up s
  | .rxReduce core slot up => Sys2Proof.Machine.execRxReduce core slot up s
  | .rxReadsEnd core => Sys2Proof.Machine.execRxReadsEnd core s
  | .rxWritesComplete core => Sys2Proof.Machine.execRxWritesComplete core s
  | .mvSync core slot up => Sys2Proof.Machine.execMvSync core slot up s
  | .mvMove core slot host up => Sys2Proof.Machine.execMvMove core slot host up s
  | .mvReadsEnd core => Sys2Proof.Machine.execMvReadsEnd core s
  | .mvWritesComplete core => Sys2Proof.Machine.execMvWritesComplete core s
  | .patrolScrub block flaws onDie => Sys2Proof.Machine.execPatrolScrub block flaws onDie s
  | .regionCtrlWrite who entry val => Sys2Proof.Machine.execRegionCtrlWrite who entry val s
  | .dmaGo who chan => Sys2Proof.Machine.execDmaGo who chan s
  | .dmaAbort who chan => Sys2Proof.Machine.execDmaAbort who chan s
  | .dmaResume who chan => Sys2Proof.Machine.execDmaResume who chan s
  | .dmaBurstReadDone chan host up => Sys2Proof.Machine.execDmaBurstReadDone chan host up s
  | .dmaBusError chan answer => Sys2Proof.Machine.execDmaBusError chan answer s
  | .dmaRetryTimer chan host => Sys2Proof.Machine.execDmaRetryTimer chan host s
  | .dmaDescEnd chan => Sys2Proof.Machine.execDmaDescEnd chan s
  | .sqTailDoorbell ring width val => Sys2Proof.Machine.execSqTailDoorbell ring width val s
  | .cqHeadDoorbell ring width val => Sys2Proof.Machine.execCqHeadDoorbell ring width val s
  | .rptHeadDoorbell ring width val => Sys2Proof.Machine.execRptHeadDoorbell ring width val s
  | .ringEnable who ring val => Sys2Proof.Machine.execRingEnable who ring val s
  | .ringDisable who ring val => Sys2Proof.Machine.execRingDisable who ring val s
  | .ringFlush who ring host => Sys2Proof.Machine.execRingFlush who ring host s
  | .ringResume who ring => Sys2Proof.Machine.execRingResume who ring s
  | .descStart src host up => Sys2Proof.Machine.execDescStart src host up s
  | .nop src => Sys2Proof.Machine.execNop src s
  | .run src host => Sys2Proof.Machine.execRun src host s
  | .runPartEnd src index core host => Sys2Proof.Machine.execRunPartEnd src index core host s
  | .runTimeout src index host => Sys2Proof.Machine.execRunTimeout src index host s
  | .dma src host up => Sys2Proof.Machine.execDma src host up s
  | .streamHalt src => Sys2Proof.Machine.execStreamHalt src s
  | .streamResume src => Sys2Proof.Machine.execStreamResume src s
  | .streamReset src => Sys2Proof.Machine.execStreamReset src s
  | .waitBell src => Sys2Proof.Machine.execWaitBell src s
  | .signal src => Sys2Proof.Machine.execSignal src s
  | .completionWrite ring => Sys2Proof.Machine.execCompletionWrite ring s
  | .coalescingTimer ring => Sys2Proof.Machine.execCoalescingTimer ring s
  | .bellEdge host up => Sys2Proof.Machine.execBellEdge host up s
  | .stepReportWrite => Sys2Proof.Machine.execStepReportWrite s
  | .pendingSyncCopy => Sys2Proof.Machine.execPendingSyncCopy s
  | .curfew bell => Sys2Proof.Machine.execCurfew bell s
  | .bellEnable who val => Sys2Proof.Machine.execBellEnable who val s
  | .bellDisable who val => Sys2Proof.Machine.execBellDisable who val s
  | .arm who val => Sys2Proof.Machine.execArm who val s
  | .disarm who => Sys2Proof.Machine.execDisarm who s
  | .bellMessageSend => Sys2Proof.Machine.execBellMessageSend s
  | .bellMessageReceive => Sys2Proof.Machine.execBellMessageReceive s
  | .bellInFall => Sys2Proof.Machine.execBellInFall s
  | .poolWaitAdmit => Sys2Proof.Machine.execPoolWaitAdmit s
  | .flip who slot unit index => Sys2Proof.Machine.execFlip who slot unit index s
  | .mark who slot unit index => Sys2Proof.Machine.execMark who slot unit index s
  | .revert who slot unit index => Sys2Proof.Machine.execRevert who slot unit index s
  | .diffRecordWrite => Sys2Proof.Machine.execDiffRecordWrite s
  | .undoGo who => Sys2Proof.Machine.execUndoGo who s
  | .portEnable who port val => Sys2Proof.Machine.execPortEnable who port val s
  | .portDisable who port val => Sys2Proof.Machine.execPortDisable who port val s
  | .portRetrain who port => Sys2Proof.Machine.execPortRetrain who port s
  | .signalDetect port lanes => Sys2Proof.Machine.execSignalDetect port lanes s
  | .equaliseDone port lanes => Sys2Proof.Machine.execEqualiseDone port lanes s
  | .trainingBlockReceive port block lane => Sys2Proof.Machine.execTrainingBlockReceive port block s lane
  | .calibrateDone port probes => Sys2Proof.Machine.execCalibrateDone port probes s
  | .trainAttemptTimeout port => Sys2Proof.Machine.execTrainAttemptTimeout port s
  | .laneSignalLoss port lane => Sys2Proof.Machine.execLaneSignalLoss port lane s
  | .codewordPairReceive port pairs lanes wrong => Sys2Proof.Machine.execCodewordPairReceive port pairs lanes wrong s
  | .dataFlitReceive port flit crc => Sys2Proof.Machine.execDataFlitReceive port flit crc s
  | .idleFlitReceive port flit crc => Sys2Proof.Machine.execIdleFlitReceive port flit crc s
  | .nakFlitReceive port flit crc => Sys2Proof.Machine.execNakFlitReceive port flit crc s
  | .nakHoldoffTimer port => Sys2Proof.Machine.execNakHoldoffTimer port s
  | .resendTimeout port => Sys2Proof.Machine.execResendTimeout port s
  | .flitTransmit port wrong => Sys2Proof.Machine.execFlitTransmit port s wrong
  | .writePkt up => Sys2Proof.Machine.execWritePkt up s
  | .readReq up => Sys2Proof.Machine.execReadReq up s
  | .barnWrite up => Sys2Proof.Machine.execBarnWrite up s
  | .addWrite up => Sys2Proof.Machine.execAddWrite up s
  | .readResp => Sys2Proof.Machine.execReadResp s
  | .writeAck => Sys2Proof.Machine.execWriteAck s
  | .writeAckSend => Sys2Proof.Machine.execWriteAckSend s
  | .tsignal => Sys2Proof.Machine.execTsignal s
  | .responseTimeout tag => Sys2Proof.Machine.execResponseTimeout tag s
  | .lateResponse => Sys2Proof.Machine.execLateResponse s
  | .bucketReady who slot unit val up host => Sys2Proof.Machine.execBucketReady who slot unit val up s host
  | .reduce up => Sys2Proof.Machine.execReduce up s
  | .instanceComplete bucket bell => Sys2Proof.Machine.execInstanceComplete bucket bell s
  | .stepSummaryFinal bell => Sys2Proof.Machine.execStepSummaryFinal bell s
  | .ethFrameReceive port frame fcsOk => Sys2Proof.Machine.execEthFrameReceive port frame fcsOk s
  | .pcsLinkChange port aligned => Sys2Proof.Machine.execPcsLinkChange port aligned s
  | .stlEnable who host => Sys2Proof.Machine.execStlEnable who host s
  | .stlDisable who => Sys2Proof.Machine.execStlDisable who s
  | .submit => Sys2Proof.Machine.execSubmit s
  | .sendShard => Sys2Proof.Machine.execSendShard s
  | .recvShard => Sys2Proof.Machine.execRecvShard s
  | .deliver host => Sys2Proof.Machine.execDeliver host s
  | .keepaliveTimer road => Sys2Proof.Machine.execKeepaliveTimer road s
  | .roadDeadTimer road => Sys2Proof.Machine.execRoadDeadTimer road s
  | .windowUpdate => Sys2Proof.Machine.execWindowUpdate s
  | .reassemblyTimeout partner seq group => Sys2Proof.Machine.execReassemblyTimeout partner seq group s
  | .ackDelayTimer partner => Sys2Proof.Machine.execAckDelayTimer partner s
  | .rtoExpiry partner seq group => Sys2Proof.Machine.execRtoExpiry partner seq group s
  | .ack => Sys2Proof.Machine.execAck s
  | .nak => Sys2Proof.Machine.execNak s
  | .cipherMessageDone bank core => Sys2Proof.Machine.execCipherMessageDone bank core s
  | .urgentSuspend bank => Sys2Proof.Machine.execUrgentSuspend bank s
  | .contrib host => Sys2Proof.Machine.execContrib s host
  | .ledger host => Sys2Proof.Machine.execLedger s host
  | .arrived => Sys2Proof.Machine.execArrived s
  | .stateReq host => Sys2Proof.Machine.execStateReq s host
  | .stateMsg host => Sys2Proof.Machine.execStateMsg s host
  | .mktJoin who site => Sys2Proof.Machine.execMktJoin who site s
  | .mktLeave who site => Sys2Proof.Machine.execMktLeave who site s
  | .checkFailureReport report => Sys2Proof.Machine.execCheckFailureReport report s
  | .parityError stepBell core unit desc => Sys2Proof.Machine.execParityError stepBell core unit desc s
  | .hold => Sys2Proof.Machine.execHold s
  | .holdAck => Sys2Proof.Machine.execHoldAck s
  | .replayReq => Sys2Proof.Machine.execReplayReq s
  | .replayEnd digest => Sys2Proof.Machine.execReplayEnd digest s
  | .verdict => Sys2Proof.Machine.execVerdict s
  | .closeNotice => Sys2Proof.Machine.execCloseNotice s
  | .configurationRequest req => Sys2Proof.Machine.execConfigurationRequest req s
  | .standbyPowerLoss => Sys2Proof.Machine.execStandbyPowerLoss s
  | .latchClearTimer => Sys2Proof.Machine.execLatchClearTimer s
  | .undoWalkEnd => Sys2Proof.Machine.execUndoWalkEnd s
  | .compactionEnd => Sys2Proof.Machine.execCompactionEnd s
  | .bellOutRelease => Sys2Proof.Machine.execBellOutRelease s

end Sys2Proof.Machine
end

