-- ==== Sys2Proof/Safety.lean ====
section
/-! DEFINITION. The terms statements use: what a command leads to, and the invariant of the state. -/

namespace Sys2Proof.Machine

/-- Command `i` takes `s` to a next state of which `P` holds. -/
def Leads (i : Instr) (s : State) (P : State → Prop) : Prop := ∃ t, exec i s = .next t ∧ P t

/-- The registers are listed in canonical form: keys strictly rising, none at its reset value. -/
def State.regsCanonical (s : State) : Prop :=
  s.regs.Pairwise (fun x y => x.1 < y.1) ∧ ∀ e ∈ s.regs, e.2 ≠ BitVec.ofNat 32 (regReset e.1)

/-- The module has its 64 cores, 64 rings, 32 channels, 8 ports and 5 cipher banks (R19, Table 20.1). -/
def State.sized (s : State) : Prop :=
  s.cores.length = 64 ∧ s.rings.length = 64 ∧ s.channels.length = 32 ∧ s.ports.length = 8 ∧ s.banks.length = 5

/-- What every step keeps: memory and registers in canonical form, the poison marks strictly rising, the right number of each unit. -/
def State.Sound (s : State) : Prop :=
  Memory.wf s.mem = true ∧ s.regsCanonical ∧ s.poison.Pairwise (· < ·) ∧ s.sized

/-- The package runs and `who` exists and reaches its registers. -/
def Reaches (s : State) (who : Requester) : Prop := live s = true ∧ mayAsk s who = true

/-- The state is `u` with one error counted in the global error log (R580, R581): ERR_COUNT, the counter of its cause, ERR_EVENT.NEW, ERR_LAST and
ERR_LAST_ARG follow it, and no other register but the error log's and pending message bits changes; a message may leave. -/
def Counted (u t : State) (cause source arg : Nat) : Prop :=
  rd t (intReg errErrCount) = satAdd (rd u (intReg errErrCount)) 1 ∧
  rd t (intReg errErrCause + 4 * cause) = satAdd (rd u (intReg errErrCause + 4 * cause)) 1 ∧
  rd t (intReg errErrLast) = 2 ^ 31 + cause * 65536 + source ∧ rd t (intReg errErrLastArg) = arg % 2 ^ 32 ∧
  flag t (intReg errErrEvent) 31 = true ∧
  (∀ k, ¬ (0x9000 ≤ k ∧ k < 0x9020) → ¬ (intReg errErrEvent ≤ k ∧ k < intReg errErrCause + 0x80) → rd t k = rd u k) ∧
  (∃ msgs, t.out = u.out ++ msgs ∧ ∀ m ∈ msgs, ∃ v a d, m = .msi v a d) ∧ t = { u with regs := t.regs, out := t.out }

/-- Tally `n` of core `c` has one more in `t` than in `s` where `en`, and no tally changed beside it. -/
def Signalled (s t : State) (en : Bool) (c n : Nat) : Prop :=
  ∀ x < 64, ∀ y < 64, tally t x y = if en = true ∧ x = c ∧ y = n then (tally s x y + 1) % 65536 else tally s x y

/-- Descriptor `d` of key `k` has ended with a status: an enabled ring keeps it until its completion is written, every other queue has
let it go. -/
def Concluded (s t : State) (k : DescKey) (d : Desc) (status detail partMap : Nat) : Prop :=
  match k.src with
  | .ring r =>
    if ringEnabled s r then
      { d with progress := .ended, status := status, detail := detail, partMap := partMap, bell := bellNum s } ∈ (ringAt t r).inflight
    else ∀ e ∈ (ringAt t r).inflight, e.has k = false
  | _ => ∀ e ∈ inflightOf t k, e.has k = false

/-- The MSI-X message of vector `v` (R254). -/
def msiOf (s : State) (v : Nat) : Out := .msi v (rd64 s (0x8000 + 16 * v)) (rd s (0x8000 + 16 * v + 8))

/-- Vector `v` is unmasked and the host can be reached. -/
def Unmasked (s : State) (v : Nat) : Prop := bit (rd s (0x8000 + 16 * v + 12)) 0 = false ∧ hostReachable s = true

/-- No block is poisoned, nothing stored is wrong and no stack failed training. -/
def Clean (s : State) : Prop := s.poison = [] ∧ s.flaws = [] ∧ ∀ m < 8, flag s (mcReg m mcMcStatus) 1 = false

/-- Memory holds `bs` from `a` on in `t`, and every other byte as in `s`. -/
def Stored (s t : State) (a : Nat) (bs : List Byte) : Prop :=
  readMem t.mem a bs.length = bs ∧ ∀ x, (x < a ∨ a + bs.length ≤ x) → readByte t.mem x = readByte s.mem x

end Sys2Proof.Machine
end

