-- ==== Sys2Proof/Certificates/Slice0/Obligations.lean ====
section
/-! DEFINITION. The statements about the model, one definition each. -/

open Sys2Proof Sys2Proof.Machine

/-! ### Power, resets and boot -/

/-- PWR_EN_ASSERT, MAIN_DOMAIN_UP, PERST_N_DEASSERT and PACKAGE_LEAVE_RESET (R547, R554, R556): the assertion of PWR_EN turns the main domain on
exactly where the management controller has booted, the input is at 63.0 V or more, nothing is latched, the domain is off and no deassertion of
less than 100 ms came before it (that such an assertion is not acted on later either is the model's reading, log entry 44); PWR_GOOD
follows; PERST_N is released; the package leaves reset only with PWR_GOOD high and PERST_N released. Nothing but the power state changes.
LATCH_CLEAR_TIMER (R547): once PWR_EN has been deasserted for 100 ms nothing is latched and the next assertion is acted on; only the power
state and what is sent change, and the main domain is not turned on by it. -/
def Obligations.PowerUpSequence : Prop :=
  (∀ s : State,
    exec .pwrEnAssert s = .next { s with power := { s.power with
      pwrEn := true
      mainOn := s.power.mainOn ||
        (!s.power.rest && s.power.mc == .booted && decide (630 ≤ s.power.inputDv) && s.power.latch.isNone) } } ∧
    (s.power.mainOn = true → exec .mainDomainUp s = .next { s with power := { s.power with pwrGood := true } }) ∧
    exec .perstNDeassert s = .next { s with power := { s.power with perst := false } } ∧
    (s.power.pwrGood = true → s.power.perst = false → s.power.running = false →
      exec .packageLeaveReset s = .next { s with power := { s.power with running := true, leftAt := s.now } }) ∧
    (s.power.pwrGood = false ∨ s.power.perst = true → exec .packageLeaveReset s = .next s)) ∧
  (∀ s : State, s.power.pwrEn = false → s.power.mc ≠ .off →
    Leads .latchClearTimer s (fun t =>
      t.power.latch = none ∧ t.power.rest = false ∧ t.power.mainOn = s.power.mainOn ∧ t.power.pwrEn = false ∧
      t = { s with power := t.power, out := t.out }))

/-- FUNCTION_READY (R556): training ends, the function becomes ready and the link is up; MC_STATUS.READY is set in each stack that trained and
MC_STATUS.TRAIN_FAIL in each that did not. Only the power state, these registers and the event queue change. -/
def Obligations.FunctionReadyMarksStacks : Prop :=
  ∀ (s : State) (trained : Nat), s.power.running = true → s.power.ready = false →
    Leads (.functionReady trained) s (fun t =>
      t.power = { s.power with ready := true, linkUp := true } ∧
      (∀ m < 8, ∀ i < 32, flag t (mcReg m mcMcStatus) i = (decide (i = if bit trained m then 0 else 1) || flag s (mcReg m mcMcStatus) i)) ∧
      (∀ k, (∀ m < 8, k ≠ mcReg m mcMcStatus) → rd t k = rd s k) ∧
      t = { s with power := t.power, regs := t.regs, recorder := t.recorder })

/-- PERST_N_ASSERT with the main domain on (R556, R554): every register reads its reset value, channels, rings and ports are as after reset,
HBM keeps its bytes and their marks, scratchpads and instruction memories read zero, the compressed-place tags stay; the management
controller, the recorder and the queue of commands are untouched, and no sideband pin changes: a low pulse on BELL_OUT goes on. That what no
register shows is empty too, here the cores, the packets that have arrived, the requests, the channels and the ports, is the model's reading
(log entry 11). -/
def Obligations.PerstResetsPackage : Prop :=
  ∀ s : State, s.power.mainOn = true →
    Leads .perstNAssert s (fun t =>
      (∀ k, rd t k = (BitVec.ofNat 32 (regReset k)).toNat) ∧
      t.cores = List.replicate 64 {} ∧ t.channels = List.replicate 32 {} ∧ t.rings = List.replicate 64 {} ∧ t.ports = List.replicate 8 {} ∧
      t.inbox = [] ∧ t.requests = [] ∧ t.activeHalf = [] ∧ t.pendingHalf = [] ∧
      (∀ a < hbmTop, readByte t.mem a = readByte s.mem a) ∧ (∀ a, hbmTop ≤ a → readByte t.mem a = 0) ∧
      (∀ b, 64 * b < hbmTop → (b ∈ t.poison ↔ b ∈ s.poison)) ∧ t.frc = s.frc ∧
      t.power.running = false ∧ t.power.ready = false ∧ t.power.perst = true ∧ t.power.mainOn = true ∧
      t.bell.outLow = s.bell.outLow ∧ t.out = s.out ∧
      t.manage = s.manage ∧ t.recorder = s.recorder ∧ t.pending = s.pending ∧ t.now = s.now)

/-- PWR_EN_DEASSERT, UNDERVOLTAGE_LOCKOUT, THERMAL_TRIP and STANDBY_POWER_LOSS with the main domain on (R491, R547, R552, R557): the main domain
goes off, PWR_GOOD is no longer driven and HBM contents are lost (that a lost byte then reads 0 is the model's choice, log entry 5); a lockout
and a trip latch, a trip asserts THERM_TRIP_N, and the loss of standby power empties the key store and stops the management controller. -/
def Obligations.MainDomainGoesOff : Prop :=
  ∀ s : State, s.power.mainOn = true →
    let off (t : State) : Prop := t.power.mainOn = false ∧ t.power.pwrGood = false ∧ t.power.running = false ∧ t.mem = [] ∧ t.poison = [] ∧
      t.regs = [] ∧ t.pending = s.pending
    (s.power.pwrEn = true → Leads .pwrEnDeassert s (fun t => off t ∧ t.power.pwrEn = false ∧ t.power.latch = s.power.latch ∧ t.manage = s.manage)) ∧
    (∀ dv < 600, Leads (.undervoltageLockout dv) s (fun t =>
      off t ∧ t.power.inputDv = dv ∧ t.power.latch = some (s.power.latch.getD .lockout) ∧ t.power.alert = true ∧ t.manage = s.manage)) ∧
    (∀ id temp l, tempLimits id = some l → l.2.2 ≤ temp → s.power.mc ≠ .off → s.power.latch ≠ some .trip →
      Leads (.thermalTrip id temp) s (fun t =>
        off t ∧ t.power.latch = some .trip ∧ t.power.thermTrip = true ∧ t.power.alert = true ∧ t.manage = s.manage)) ∧
    (s.power.mc ≠ .off → Leads .standbyPowerLoss s (fun t =>
      off t ∧ t.power.mc = .off ∧ t.manage.exportSlots = List.replicate 64 {} ∧ t.manage.rootSlots = List.replicate 8 {} ∧
      t.manage.session = none ∧ t.recorder.bank0 = s.recorder.bank0 ∧ t.recorder.bank1 = s.recorder.bank1 ∧ t.recorder.pcc = s.recorder.pcc))

/-- STANDBY_POWER_ON, BOOT_COMPLETE and BOOT_WATCHDOG (R555, R558 to R562): standby power from off with the input at 63.0 V or more samples
BOARD_POS and starts the boot ROM with an empty key store and the main domain off; it boots the image of higher BUILD, image A when both are
equal, the other where the first is rejected, or enters recovery where both are. Boot complete ends booting, queues event 0x0002 for each
rejection and then 0x0001 with the image and its BUILD where the queue has room, raises the anti-rollback counter where the other image allows
it, and starts the main domain where it may start (that PWR_EN asserted while the controller boots counts once it has booted is the model's
reading, log entry 44; that memory reads 0 after standby power comes is its choice, log entry 5). The watchdog sets WDOG and tries the other
image first, with an empty key store. -/
def Obligations.BootSelectsImage : Prop :=
  ∀ s : State,
    let passes (i : Nat) : Prop := imageReject s.manage (imageOf s.manage i) = none
    let tried (t : State) (i : Nat) : Prop :=
      (passes i → t.power.mc = .booting ∧ t.manage.image = i) ∧ (¬ passes i → passes (1 - i) → t.power.mc = .booting ∧ t.manage.image = 1 - i) ∧
      (¬ passes i → ¬ passes (1 - i) → t.power.mc = .recovery) ∧
      t.manage.exportSlots = List.replicate 64 {} ∧ t.manage.rootSlots = List.replicate 8 {} ∧ t.manage.session = none
    (∀ dv pos, s.power.mc = .off → 630 ≤ dv →
      Leads (.standbyPowerOn dv pos) s (fun t =>
        t.power.inputDv = dv ∧ t.power.boardPos = pos % 8 ∧ t.power.mainOn = false ∧ t.power.running = false ∧ t.manage.wdog = false ∧
        tried t (if imageBuild s.manage.imageA < imageBuild s.manage.imageB then 1 else 0) ∧ t.mem = [] ∧ t.regs = [] ∧
        t.pending = s.pending)) ∧
    (s.power.mc = .booting →
      Leads .bootComplete s (fun t =>
        t.power = { s.power with
          mc := .booted
          mainOn := s.power.mainOn || (s.power.pwrEn && !s.power.rest && decide (630 ≤ s.power.inputDv) && s.power.latch.isNone) } ∧
        (s.recorder.queue.length + 3 ≤ 1024 → (∀ e ∈ s.recorder.queue, e.at_ = s.now → e.source ≤ 0x7000) →
          t.recorder.queue = s.recorder.queue ++ s.manage.aRejected.toList.map (fun st => eventNow s 0x0002 0x7000 st [0]) ++
            s.manage.bRejected.toList.map (fun st => eventNow s 0x0002 0x7000 st [1]) ++
            [eventNow s 0x0001 0x7000 0 (leBytes 1 s.manage.image ++ leBytes 4 s.manage.build)]) ∧
        (let other := imageOf s.manage (1 - s.manage.image)
         t.manage = { s.manage with counter :=
           if s.manage.counter < s.manage.svn ∧ imageReject s.manage other = none ∧ s.manage.svn ≤ imageSvn other then s.manage.svn
           else s.manage.counter }) ∧
        t = { s with power := t.power, manage := t.manage, recorder := t.recorder })) ∧
    (s.power.mc = .booting →
      Leads .bootWatchdog s (fun t =>
        t.manage.wdog = true ∧ tried t (1 - s.manage.image) ∧ t.power = { s.power with mc := t.power.mc } ∧
        t = { s with power := t.power, manage := t.manage, recorder := t.recorder, banks := t.banks }))

/-- SENSOR_UPDATE (R550, R551) of a temperature sensor below its trip threshold, and POWER_SAMPLE (R548, R549): the reading is kept; at the
throttle threshold the sensor holds the gating share up; at the warning threshold ALERT_N is asserted, and as it is asserted an in-band
interrupt is sent where the bus controller has enabled it; MC_STATUS.HOT of a stack shows whether its sensor is at or above its warning
threshold. A power sample is kept as the newest;
above the effective limit the gating share rises, at 100 percent it stays, and within the limits, with no sensor holding it, it does not
rise. PWR_LIMIT_WRITE (R567): a value from 1,000 W to 3,200 W is taken into PWR_LIMIT; any other leaves every register but those of the
global error log and pending message bits as it was and is counted there with cause 0x05. -/
def Obligations.SensorsAndPowerLimit : Prop :=
  (∀ s : State,
    (∀ id v l, tempLimits id = some l → v < l.2.2 → s.power.mc ≠ .off →
      Leads (.sensorUpdate id v) s (fun t =>
        sget 0 t.power.sensors id = v ∧ (l.2.1 ≤ v → id ∈ t.power.throttled) ∧ (v + 20 ≤ l.2.1 → id ∉ t.power.throttled) ∧
        (l.1 ≤ v → t.power.alert = true ∧
          (s.power.alert = false → s.power.ibi = true → t.out = s.out ++ [.inBandInterrupt])) ∧
        (∀ m < 8, id = 40 + m → flag s (mcReg m mcMcStatus) 2 = false → bit (regView t (mcReg m mcMcStatus)) 2 = decide (850 ≤ v)) ∧
        t.power.mainOn = s.power.mainOn ∧ t = { s with power := t.power, draws := t.draws, out := t.out })) ∧
    (∀ w, s.power.mainOn = true →
      Leads (.powerSample w) s (fun t =>
        t.power.samples.head? = some w ∧
        (overLimit (effectiveLimit s) ((w :: s.power.samples).take 100000) = true → s.power.gate < t.power.gate ∨ 100 ≤ t.power.gate) ∧
        (overLimit (effectiveLimit s) ((w :: s.power.samples).take 100000) = false → t.power.gate ≤ s.power.gate) ∧
        (s.power.gate ≤ 100 → t.power.gate ≤ 100) ∧
        (∀ k, k ≠ glbReg glbGatedClocks → rd t k = rd s k) ∧
        t = { s with power := t.power, draws := t.draws, regs := t.regs }))) ∧
  (∀ (s : State) (who : Requester) (val : Nat), Reaches s who → val < 4096 →
    (1000 ≤ val → val ≤ 3200 → Leads (.pwrLimitWrite who val) s (fun t =>
      rd t (glbReg glbPwrLimit) = val ∧ (∀ k, k ≠ glbReg glbPwrLimit → rd t k = rd s k) ∧ t = { s with regs := t.regs })) ∧
    ((val < 1000 ∨ 3200 < val) → Leads (.pwrLimitWrite who val) s (fun t => Counted s t 5 (sourceOf who) (glbReg glbPwrLimit))))

/-! ### The event recorder -/

/-- EVENT_SUBMIT (R536): an event of Table 18.5, with a status and a source of its tables, joins the recorder's queue of 1,024 with the time of its
occurrence, its payload padded to 40 bytes: at the end, but before events of the same clock that have a greater SOURCE (that the queue keeps
them in that order is how the model records events of one clock in order of SOURCE, log entry 43); an event that finds the queue full is
lost and counted in EVT_LOST. Nothing else changes. Any other event is none of the module's, and changes nothing (log entry 43).
EVENT_RECORD_WRITE (R534, R535): an event with the code, source, status and payload of the
newest record is merged into it, writing no entry; any other becomes a new record with the next SEQ and the time of the event at the end of
the active bank, once nothing was lost and no merge waits. Only the recorder changes. -/
def Obligations.EventsQueuedMergedRecorded : Prop :=
  (∀ (s : State) (code source status : Nat) (payload : List Byte), s.power.mc ≠ .off →
    (okEvent code source status = true → s.recorder.queue.length < 1024 → Leads (.eventSubmit code source status payload) s (fun t =>
      (∃ before after, s.recorder.queue = before ++ after ∧ t.recorder.queue = before ++ eventNow s code source status payload :: after ∧
        (∀ x ∈ after, x.at_ = s.now ∧ source < x.source) ∧ (∀ x, before.getLast? = some x → x.at_ = s.now → x.source ≤ source)) ∧
      t = { s with recorder := { s.recorder with queue := t.recorder.queue } })) ∧
    (okEvent code source status = true → 1024 ≤ s.recorder.queue.length → exec (.eventSubmit code source status payload) s = .next
      { s with recorder := { s.recorder with lost := s.recorder.lost + 1, lostCount := satAdd s.recorder.lostCount 1 } }) ∧
    (okEvent code source status = false → exec (.eventSubmit code source status payload) s = .next s)) ∧
  (∀ (s : State) (e : EventRec) (rest : List EventRec), recorderFree s = true → s.recorder.merged = none → s.recorder.lost = 0 →
    s.recorder.queue = e :: rest → (activeJournal s.recorder).entries.length + 1 < compactAt →
    (∀ rec, newestRecord (activeJournal s.recorder) = some rec → identical e rec = true →
      Leads .eventRecordWrite s (fun t =>
        t = { s with recorder := { s.recorder with
          queue := rest
          merged := some (min 65535 (journalRepeat (activeJournal s.recorder) rec + 1))
          mergedCount := satAdd s.recorder.mergedCount 1 } })) ∧
    ((∀ rec, newestRecord (activeJournal s.recorder) = some rec → identical e rec = false) →
      Leads .eventRecordWrite s (fun t =>
        (activeJournal t.recorder).entries = (activeJournal s.recorder).entries ++
          [entryBytes e.code e.source s.recorder.nextSeq e.time s.recorder.pcc 1 e.status e.payload] ∧
        t.recorder.queue = rest ∧ t.recorder.nextSeq = (s.recorder.nextSeq + 1) % 2 ^ 32 ∧
        t.recorder.written = satAdd s.recorder.written 1 ∧ t = { s with recorder := t.recorder })))

/-- REPEAT_ENTRY_TIMER, TIME_ENTRY_TIMER and COMPACTION_END (R534, R539, R540): a merge not yet written gets a REPEAT entry naming the newest
record's SEQ; the operating time gets a TIME entry once 600 s have passed; a compaction ends with the other bank ACTIVE, the old one RETIRED
and COMPACTIONS counted. CONFIG_WRITE (R537): a value of at most 37 bytes under a key other than 0x0010, with room among 4,096 keys and in the bank, is what
the key reads from then on, every other key keeping its value; deleting a key removes it. Only the recorder changes, and the answer OK
leaves. REC_INDEX_WRITE (R543): REC_INDEX takes the SEQ written and REC_DATA becomes the record of the active bank with that SEQ, or none; that
its REPEAT and CRC are recomputed is the model's reading (log entry 43), as is a recorder that works while the controller boots and in
recovery. Only the recorder changes. -/
def Obligations.JournalEntriesAndConfig : Prop :=
  (∀ s : State,
    (∀ k e, recorderFree s = true → s.recorder.merged = some k → newestRecord (activeJournal s.recorder) = some e →
      (activeJournal s.recorder).entries.length + 1 < compactAt →
      Leads .repeatEntryTimer s (fun t =>
        (activeJournal t.recorder).entries = (activeJournal s.recorder).entries ++
          [entryBytes 0xF001 0x7000 0xFFFFFFFF (opTime s) s.recorder.pcc 0 0 (leBytes 4 (entrySeq e) ++ leBytes 2 k)] ∧
        t.recorder.merged = none ∧ t = { s with recorder := t.recorder })) ∧
    (let u := advanceTo s (s.recorder.since + 600 * clocksPerSecond)
     s.power.mc ≠ .off → (activeJournal u.recorder).entries.length < bankPositions →
      Leads .timeEntryTimer s (fun t =>
        (activeJournal t.recorder).entries = (activeJournal u.recorder).entries ++
          [entryBytes 0xF003 0x7000 0xFFFFFFFF (opTime u) u.recorder.pcc 0 0 []] ∧
        opTime t = opTime u ∧ u.now = max s.now (s.recorder.since + 600 * clocksPerSecond) ∧ t = { u with recorder := t.recorder })) ∧
    (s.power.mc ≠ .off → s.recorder.compacting = true → s.recorder.activeBank < 2 →
      Leads .compactionEnd s (fun t =>
        t.recorder.activeBank = 1 - s.recorder.activeBank ∧ (activeJournal t.recorder).entries = compacted s ∧
        (activeJournal t.recorder).state = .active ∧
        (if s.recorder.activeBank = 0 then t.recorder.bank0 else t.recorder.bank1) = { activeJournal s.recorder with state := .retired } ∧
        t.recorder.compacting = false ∧ t.recorder.compactions = satAdd s.recorder.compactions 1 ∧ t.recorder.queue = s.recorder.queue ∧
        t = { s with recorder := t.recorder }))) ∧
  (∀ (s : State) (key : Nat) (value : Option (List Byte)), s.power.mc = .booted → key < 65536 → key ≠ 0x10 →
    (∀ bs, value = some bs → bs.length ≤ 37) → (configKeys (activeJournal s.recorder)).length < 4096 →
    (activeJournal s.recorder).entries.length < bankPositions →
    Leads (.configWrite key value) s (fun t =>
      configValue t key = value ∧ (∀ k, k ≠ key → configValue t k = configValue s k) ∧
      t = { s with recorder := t.recorder, out := s.out ++ [.manage 0 []] })) ∧
  (∀ (s : State) (who : Requester) (seq : Nat), Reaches s who → seq < 2 ^ 32 →
    Leads (.recIndexWrite who seq) s (fun t =>
      t.recorder = { s.recorder with index := seq, snapshot := snapshotOf s.recorder seq } ∧ t = { s with recorder := t.recorder }))

/-! ### The management path -/

/-- KEY_FILL, KEY_ERASE and KEY_STATUS in a mutually authenticated session of the owner (R488, R490, R566): FILL stores the key, raises GEN
modulo 256 and sets OPEN_ONLY, and an export slot's message counts begin anew; ERASE empties the slot and keeps GEN; each answers GEN and the
check value; no other slot changes. Outside such a session each changes nothing; that it is then answered with AUTH_FAIL, and that an empty
slot's check value is 0, are the model's (log entry 53). -/
def Obligations.KeyStoreCommands : Prop :=
  ∀ (s : State) (space slot mode : Nat) (key : List Byte), s.power.mc = .booted → slotExists space slot = true →
    s.manage.exportSlots.length = 64 → s.manage.rootSlots.length = 8 → s.banks.length = 5 →
    let others (t : State) : Prop := ∀ sp sl, slotExists sp sl = true → (sp, sl) ≠ (space, slot) → slotAt t.manage sp sl = slotAt s.manage sp sl
    (keySession s = true → mode ≤ 1 → (space = 1 → mode = 0) → key.length = 32 →
      Leads (.keyFill space slot mode key) s (fun t =>
        slotAt t.manage space slot = { filled := true, openOnly := mode == 1, gen := ((slotAt s.manage space slot).gen + 1) % 256, key := key } ∧
        others t ∧ (bankAt t 4).exportCounts = (if space = 0 then (bankAt s 4).exportCounts.filter (fun e => e.1 != slot) else (bankAt s 4).exportCounts) ∧
        t = { s with manage := t.manage, banks := t.banks, out := s.out ++ [.manage 0 [((slotAt s.manage space slot).gen + 1) % 256, keyCheck key]] })) ∧
    (keySession s = true →
      Leads (.keyErase space slot) s (fun t =>
        slotAt t.manage space slot = { filled := false, openOnly := false, gen := (slotAt s.manage space slot).gen, key := [] } ∧
        others t ∧ t = { s with manage := t.manage, out := s.out ++ [.manage 0 [(slotAt s.manage space slot).gen, 0]] })) ∧
    (keySession s = true →
      exec (.keyStatus space slot) s = .next { s with
        out := s.out ++ [.manage 0 [(slotAt s.manage space slot).gen, slotKcv (slotAt s.manage space slot)]] }) ∧
    (keySession s = false → ∀ i ∈ ([.keyFill space slot mode key, .keyErase space slot, .keyStatus space slot] : List Instr),
      exec i s = .next { s with out := s.out ++ [.manage 0x0A []] })

/-- SPDM_MESSAGE (R565): measurements 1 to 5 are answered with their digests, the first image's digests over what the boot ROM verified; a key
exchange ends the session and FINISH of an exchange under way opens one, mutually authenticated where the requester proved the key of the
certificate that the module took from it; the algorithms selected are those the manual fixes. The MCTP and
PLDM commands that read (R548, R563, R564): each answers once and changes nothing but the answers and free values drawn; the answers whose
data the manual names are stated. MCTP_CONTROL Set Endpoint ID and SET_NUMERIC_EFFECTER_VALUE (R548, R563): an endpoint id from 8 to 0xFE is
taken; effecter 1 takes a limit from 1,000 W to 3,200 W and refuses any other with ERROR_INVALID_DATA. The numbers of commands, types,
algorithms and completion codes are those of the DMTF standards (presumed, log entry 31). -/
def Obligations.ManagementAnswers : Prop :=
  (∀ s : State, s.power.mc = .booted →
    (∀ i, 1 ≤ i → i ≤ 5 → exec (.spdmMessage (.getMeasurements i)) s = .next { s with
      out := s.out ++ [.manage 0 (i :: (measurement s i).map BitVec.toNat)] }) ∧
    Leads (.spdmMessage (.keyExchange 0)) s (fun t =>
      t.manage = { s.manage with exchange := true, peer := none, session := none } ∧ t.out.length = s.out.length + 1 ∧
      t = { s with manage := t.manage, out := t.out, draws := t.draws }) ∧
    exec (.spdmMessage .negotiateAlgorithms) s = .next { s with out := s.out ++ [.manage 0 [8, 1, 2, 2, 2]] } ∧
    (∀ k, s.manage.exchange = true → exec (.spdmMessage (.certificate k)) s = .next { s with
      manage := { s.manage with peer := some (sha256 k) }, out := s.out ++ [.manage 0 []] }) ∧
    (∀ h proved, s.manage.exchange = true → Leads (.spdmMessage (.finish h proved)) s (fun t =>
      t.manage = { s.manage with exchange := false, session := some (h, proved && s.manage.peer == some h) } ∧ t.out.length = s.out.length + 1 ∧
      t = { s with manage := t.manage, out := t.out, draws := t.draws })) ∧
    (∀ req, Leads (.spdmMessage req) s (fun t => t = { s with manage := t.manage, out := t.out, draws := t.draws } ∧ t.out.length = s.out.length + 1))) ∧
  (∀ s : State, s.power.mc = .booted →
    let tells (i : Instr) (code : Nat) (data : List Nat) : Prop := exec i s = .next { s with out := s.out ++ [.manage code data] }
    tells .getTid 0 [s.manage.tid] ∧ tells .getPldmTypes 0 [0, 2, 5] ∧
    tells (.getPldmCommands 2) 0 [0x11, 0x21, 0x31, 0x32, 0x51] ∧
    (∀ id v, sensorReading s id = some v → tells (.getSensorReading id) 0 [v]) ∧
    tells (.getNumericEffecterValue 1) 0 [s.power.effecter] ∧
    tells .getStatus 0 [updateNumber s.manage.update, b2n s.manage.activation] ∧
    tells (.mctpControl .getEndpointId) 0 [s.manage.eid] ∧
    (s.manage.activation = false → tells .getFirmwareParameters 0 [s.manage.image, s.manage.build, s.manage.svn]) ∧
    (s.manage.activation = true → tells .getFirmwareParameters 0
      [s.manage.image, s.manage.build, s.manage.svn, imageBuild (imageOf s.manage (updateTarget s.manage))]) ∧
    (∀ i ∈ ([.getPldmVersion 0, .getPldmVersion 2, .getPldmVersion 5, .getPdr 0, .getStateSensorReadings 0, .queryDeviceIdentifiers] : List Instr),
      Leads i s (fun t => t.out.length = s.out.length + 1 ∧ t = { s with out := t.out, draws := t.draws }))) ∧
  (∀ s : State, s.power.mc = .booted →
    (∀ eid, 8 ≤ eid → eid ≤ 0xFE → exec (.mctpControl (.setEndpointId eid)) s = .next { s with
      manage := { s.manage with eid := eid }, out := s.out ++ [.manage 0 [eid]] }) ∧
    (∀ w, 1000 ≤ w → w ≤ 3200 → exec (.setNumericEffecterValue 1 w) s = .next { s with
      power := { s.power with effecter := w }, out := s.out ++ [.manage 0 []] }) ∧
    (∀ w, w < 1000 ∨ 3200 < w → exec (.setNumericEffecterValue 1 w) s = .next { s with out := s.out ++ [.manage 2 []] }))

/-- The firmware update (R564): each command is taken in the state before it and answered OK, the component goes to the image that is not
booted, whose area is erased first and then holds each piece at its place, no other byte of it changing; the booted image never changes, and
an activation with PWR_EN asserted stays pending. The states, their order and the codes are those of the PLDM standard (presumed, log entry
31); a piece sent twice to one place leaves the bits that both have set, flash being programmed from 1 to 0 (R532). -/
def Obligations.FirmwareUpdateStates : Prop :=
  ∀ s : State, s.power.mc = .booted → s.manage.image < 2 →
    let target (t : State) : List Byte := imageOf t.manage (updateTarget s.manage)
    let goes (i : Instr) (a b : UpdateState) (P : State → Prop) : Prop := s.manage.update = a → Leads i s (fun t =>
      t.manage.update = b ∧ t.out = s.out ++ [.manage 0 []] ∧ imageOf t.manage s.manage.image = imageOf s.manage s.manage.image ∧
      t = { s with manage := t.manage, out := t.out } ∧ P t)
    let same (t : State) : Prop := target t = target s
    updateTarget s.manage ≠ s.manage.image ∧
    goes .requestUpdate .idle .learn same ∧ goes .passComponentTable .learn .readyXfer same ∧
    (∀ size ≤ 0x1000000, goes (.updateComponent size) .readyXfer .download (fun t => target t = [] ∧ t.manage.updSize = size)) ∧
    (∀ off data, off + data.length ≤ s.manage.updSize → goes (.requestFirmwareData off data) .download .download (fun t =>
      ∀ j, imageAt (target t) j 1 = if off ≤ j ∧ j < off + data.length then [(imageAt (target s) j 1).headD 0 &&& data.getD (j - off) 0]
        else imageAt (target s) j 1)) ∧
    goes (.transferComplete true) .download .verify same ∧ goes .applyComplete .apply .readyXfer (fun t => same t ∧ t.manage.updValid = true) ∧
    (s.manage.update ≠ .idle → goes .cancelUpdate s.manage.update .idle same) ∧
    (s.manage.update = .verify → imageReject s.manage (imageOf s.manage (updateTarget s.manage)) = none →
      exec .verifyComplete s = .next { s with manage := { s.manage with update := .apply }, out := s.out ++ [.manage 0 [0]] }) ∧
    (s.manage.update = .readyXfer → s.manage.updValid = true → s.power.pwrEn = true →
      exec .activateFirmware s = .next { s with
        manage := { s.manage with update := .idle, updValid := false, activation := true }, out := s.out ++ [.manage 0 []] })

/-! ### Registers -/

/-- REGISTER_WRITE (R8, R12, Table 0.3) of a register of a core, an interrupt-routing, a cipher or an integrity block: each RW bit takes the bit
written, each W1C bit written 1 clears, every other bit keeps its value; no other register changes, and nothing else but the stored bits that
the command says have gone wrong, while no RSVD bit is written. A 64-bit write of two of them writes the lower with bits 31:0 and the upper
with bits 63:32. REGISTER_WRITE where there is no register, and of a posted setting (R8, R268, R580, R581): where there is no register the
write is dropped and counted once in the global error log, with cause 0x03, its source and its offset, and no register but those of the error
log and pending message bits changes; a write to a posted setting of the pending half is taken whole. -/
def Obligations.RegisterWrites : Prop :=
  let plain (k : Nat) : Prop := (0x4000 ≤ k ∧ k < 0x10000) ∨ (0x100000 ≤ k ∧ k < 0x200000) ∨ (0x2C0000 ≤ k ∧ k < 0x340000)
  let takes (s t : State) (k : Nat) (d : RegDef) (val : Nat) : Prop :=
    ∀ i < 32, bit (rd t k) i = if bit d.w1c i then bit (rd s k) i && !bit val i else if bit d.rw i then bit val i else bit (rd s k) i
  (∀ (s : State) (who : Requester) (off key val : Nat) (d : RegDef) (host : HostView) (up : Upset), Reaches s who → off % 4 = 0 → val < 2 ^ 32 →
    placeOf (ethView s) off = .reg key d → d.rw &&& d.w1c = 0 → val &&& d.rsvd = 0 → plain key →
    Leads (.registerWrite who off 4 val host up) s (fun t =>
      takes s t key d val ∧ (∀ k, k ≠ key → rd t k = rd s k) ∧ t = { plant s up with regs := t.regs })) ∧
  (∀ (s : State) (who : Requester) (off lo hi l h : Nat) (dl dh : RegDef) (host : HostView) (up : Upset), Reaches s who → off % 8 = 0 →
    l < 2 ^ 32 → h < 2 ^ 32 → placeOf (ethView s) off = .reg lo dl → placeOf (ethView s) (off + 4) = .reg hi dh → lo ≠ hi →
    dl.rw &&& dl.w1c = 0 → dh.rw &&& dh.w1c = 0 → l &&& dl.rsvd = 0 → h &&& dh.rsvd = 0 → plain lo → plain hi →
    Leads (.registerWrite who off 8 (l + 2 ^ 32 * h) host up) s (fun t =>
      takes s t lo dl l ∧ takes s t hi dh h ∧ (∀ k, k ≠ lo → k ≠ hi → rd t k = rd s k) ∧ t = { plant s up with regs := t.regs })) ∧
  (∀ (s : State) (who : Requester) (off width val : Nat) (host : HostView) (up : Upset), Reaches s who → doorbellPage who off = none →
    (width = 4 → off % 4 = 0 → placeOf (ethView s) off = .reserved →
      Leads (.registerWrite who off width val host up) s (fun t => Counted (plant s up) t 3 (sourceOf who) off)) ∧
    (∀ o d, width = 4 → off % 4 = 0 → placeOf (ethView s) off = .pendingSet o d → flag s (bellReg bellBellStatus) 27 = false →
      exec (.registerWrite who off width val host up) s = .next { plant s up with pendingHalf := putSetting s.pendingHalf o val }))

/-- RC_COUNTER_READ (R15) of any RC counter but one of a wide pair, which are none: a read returns its value before the clear and clears it; no
other register changes. The recorder's own counters, which its registers show, clear in the recorder. LO_HALF_READ of an _HI (R573) by a requester
that holds no latch of its pair, but maybe one of another pair, returns the current half and leaves every latch as it is (the model's choice,
log entry 12). -/
def Obligations.CounterReadClears : Prop :=
  (∀ (s : State) (who : Requester) (off key : Nat) (d : RegDef), Reaches s who → doorbellPage who off = none → off % 4 = 0 →
    placeOf (ethView s) off = .reg key d → d.rc = true → wideLo key = false → wideLo (key - 4) = false →
    (∀ o ∈ [recEvtWritten, recEvtMerged, recEvtLost, recJrnTorn, recCompactions], key ≠ recReg o) →
    Leads (.rcCounterRead who off 4) s (fun t =>
      t.out = s.out ++ [.readData off (regView s key)] ∧ rd t key = 0 ∧ (∀ k, k ≠ key → rd t k = rd s k) ∧
      t = { s with regs := t.regs, out := t.out })) ∧
  (∀ (s : State) (who : Requester), Reaches s who →
    let clears (o v : Nat) (r : Recorder) : Prop := exec (.rcCounterRead who (recReg o) 4) s =
      .next { s with recorder := r, out := s.out ++ [.readData (recReg o) v] }
    clears recEvtWritten s.recorder.written { s.recorder with written := 0 } ∧
    clears recEvtMerged s.recorder.mergedCount { s.recorder with mergedCount := 0 } ∧
    clears recEvtLost s.recorder.lostCount { s.recorder with lostCount := 0 } ∧
    clears recJrnTorn s.recorder.torn { s.recorder with torn := 0 } ∧
    clears recCompactions s.recorder.compactions { s.recorder with compactions := 0 }) ∧
  (∀ (s : State) (who : Requester) (off key : Nat) (d : RegDef), Reaches s who → off % 4 = 0 → placeOf (ethView s) off = .reg key d →
    wideLo key = false → wideLo (key - 4) = true → s.latches.find? (fun l => l.1 == latchOf who && l.2.1 == key) = none →
    exec (.loHalfRead who off 4) s = .next { s with out := s.out ++ [.readData off (regView s key)] })

/-- LO_HALF_READ (R573): a read of _LO latches _HI for its requester, the host's one latch or the core's own; that requester's next read
of _HI returns the latched half, which is spent; a read of _HI that follows no read of _LO returns the current half. No other latch changes.
The registers covered are listed. -/
def Obligations.LowHalfLatchesHigh : Prop :=
  (∀ k, wideLo k = true ↔ k = bellReg bellBellNumLo ∨ (∃ c < 64, k = coreReg c coreSlotBellLo) ∨ k = stlReg mktLedgerRoundLo ∨
    k = bankReg 4 ciphGraceEndLo ∨ (∃ m < 8, k = mcReg m mcErrAddrLo) ∨ k = glbReg glbUptimeLo ∨ k = intReg errErrLastBellLo) ∧
  (∀ c, latchOf (.core c) ≠ latchOf .host ∧ ∀ d, latchOf (.core c) = latchOf (.core d) → c = d) ∧
  ∀ (s : State) (who : Requester) (off key : Nat) (d : RegDef), Reaches s who → off % 4 = 0 → placeOf (ethView s) off = .reg key d →
    let latch (t : State) (w k : Nat) : Option Word := (t.latches.find? (fun l => l.1 == w && l.2.1 == k)).map (fun l => l.2.2)
    let answers (v : Nat) (mine : Nat → Option Word) : Prop := Leads (.loHalfRead who off 4) s (fun t =>
      t.out = s.out ++ [.readData off v] ∧ (∀ k, latch t (latchOf who) k = mine k) ∧
      (∀ w k, w ≠ latchOf who → latch t w k = latch s w k) ∧ t = { s with latches := t.latches, out := t.out })
    (wideLo key = true →
      answers (regView s key) (fun k => if k = key + 4 then some (BitVec.ofNat 32 (regView s (key + 4))) else none)) ∧
    (wideLo key = false → wideLo (key - 4) = true →
      (∀ h, latch s (latchOf who) key = some h → answers h.toNat (fun _ => none)) ∧
      ((∀ k, latch s (latchOf who) k = none) → exec (.loHalfRead who off 4) s = .next { s with out := s.out ++ [.readData off (regView s key)] }))

/-- R13, whole, for BAR0 (the doorbell pages of BAR2 are no part of it). An access narrower than 32 bits or not naturally aligned: a write is dropped, a read returns zero, and each is counted in the
global error log with cause 0x01. No register but those of the error log and pending message bits changes. -/
def Obligations.NarrowAccessCounted : Prop :=
  ∀ (s : State) (who : Requester) (off width val : Nat) (host : HostView) (up : Upset), Reaches s who →
    (width = 1 ∨ width = 2 ∨ (width = 4 ∧ off % 4 ≠ 0) ∨ (width = 8 ∧ off % 8 ≠ 0)) →
    doorbellPage who off = none →
    let counted (i : Instr) (answer : List Out) (u : State) : Prop := Leads i s (fun t =>
      rd t (intReg errErrCount) = satAdd (rd s (intReg errErrCount)) 1 ∧
      rd t (intReg errErrCause + 4) = satAdd (rd s (intReg errErrCause + 4)) 1 ∧
      rd t (intReg errErrLast) = 2 ^ 31 + 65536 + sourceOf who ∧ rd t (intReg errErrLastArg) = off % 2 ^ 32 ∧
      (∀ k, ¬ (0x9000 ≤ k ∧ k < 0x9020) → ¬ (intReg errErrEvent ≤ k ∧ k < intReg errErrCause + 0x80) → rd t k = rd s k) ∧
      (∃ msgs, t.out = s.out ++ msgs ++ answer ∧ ∀ m ∈ msgs, ∃ v a d, m = .msi v a d) ∧ t = { u with regs := t.regs, out := t.out })
    counted (.registerWrite who off width val host up) [] (plant s up) ∧ counted (.rcCounterRead who off width) [.readData off 0] s ∧
    counted (.loHalfRead who off width) [.readData off 0] s

/-- TALLY_SIGNAL (R283): a signal adds 1 modulo 65,536 to the tally it names; no other register and nothing else changes. TALLY_WRITE (R283):
the write is applied first and the signals of its clock are added to the written value. -/
def Obligations.TalliesTakeSignalsAndWrites : Prop :=
  (∀ (s : State) (core n : Nat), live s = true → core < 64 → n < 64 →
    Leads (.tallySignal core n) s (fun t =>
      tally t core n = (tally s core n + 1) % 65536 ∧ (∀ k, k ≠ coreReg core coreTally + 4 * n → rd t k = rd s k) ∧ t = { s with regs := t.regs })) ∧
  (∀ (s : State) (who : Requester) (core n val signals : Nat), Reaches s who → core < 64 → n < 64 → val < 65536 →
    Leads (.tallyWrite who core n val signals) s (fun t =>
      tally t core n = (val + signals) % 65536 ∧ (∀ k, k ≠ coreReg core coreTally + 4 * n → rd t k = rd s k) ∧ t = { s with regs := t.regs }))

/-! ### The whole machine -/

/-- A wait on tally t for count c is satisfied exactly where (VALUE − c) mod 65,536 is below 32,768 (R284): the wait of an instruction of
each unit is its tally and count read from the word (Tables of R73, R122, R144 and R176), and a SYNC or TILE at the head of the step slot of
the matrix arrays whose wait is not satisfied is only fetched: nothing else changes. That a fetched word is held until it issues is the
model's choice (log entry 49). -/
def Obligations.WaitsOnTallies : Prop :=
  ∀ (s : State) (core : Nat),
    let met (t n : Nat) : Prop := ((tally s core t : Int) - n) % 65536 < 32768
    (∀ t n, waitMet s core t n = true ↔ met t n) ∧
    (∀ w, (mxWait s core w = true ↔ bit w 50 = false ∨ met (bits w 49 44) (bits w 43 28)) ∧
      (vxWait s core w = true ↔ bit w 103 = false ∨ met (bits w 102 97) (bits w 96 81)) ∧
      (rxWait s core w = true ↔ bit w 71 = false ∨ met (bits w 70 65) (bits w 64 49)) ∧
      (mvWait s core w = true ↔ bit w 95 = false ∨ met (bits w 94 89) (bits w 88 73))) ∧
    (∀ i p, live s = true → core < 64 → s.flaws = [] → progOf s core .mx .step = some p → nextIndex p = some i → headPoisoned s core .mx p i = false →
      let w := headWord s core .mx p i
      mxCause w = none → mxWait s core w = false → ∀ ins, ins = Instr.mxSync core .step {} ∨ ins = Instr.mxTileIssue core .step {} →
        Leads ins s (fun t => progOf t core .mx .step = some { p with fetched := some w } ∧ t = { s with cores := t.cores }))

/-! ### Registers -/

/-- FUNCTION_LEVEL_RESET (R211, R217): the ring, DMA-channel, interrupt-routing and MSI-X registers return to reset, rings and channels lose
their work, every core stream halts, no closed step report stays to be written, and the standing step program is
replayed no further; Bus Master Enable clears,
the function is in D0, and the BARs and the payload sizes are as after reset (the model's, log entry 14). Memory, its marks, the posted settings, the
ports, the key store and every other register but BELL_STATUS, whose overrun fields follow the replays, stay. -/
def Obligations.FunctionLevelReset : Prop :=
  ∀ s : State, live s = true → s.power.ready = true → s.cores.length = 64 →
    let clears (k : Nat) : Prop := (0x10000 ≤ k ∧ k < 0x24000) ∨ (0x4000 ≤ k ∧ k < 0xA000)
    Leads .functionLevelReset s (fun t =>
      (∀ k, clears k → rd t k = (BitVec.ofNat 32 (regReset k)).toNat) ∧
      (∀ k, ¬ clears k → k ≠ bellReg bellBellStatus → rd t k = rd s k) ∧
      t.channels = List.replicate 32 {} ∧ t.rings = List.replicate 64 {} ∧
      (∀ c < 64, ∀ u sl, progOf t c u sl = (progOf s c u sl).map (fun p => { p with halted := true })) ∧
      (∀ r ∈ t.reports, r.closed = false) ∧ (∀ p ∈ t.replays, p.stopped = true) ∧
      t.power = { s.power with busMaster := false, d3hot := false, bars := [0, 0, 0], maxPayload := 128, maxReadRequest := 512 } ∧
      t.mem = s.mem ∧ t.poison = s.poison ∧ t.frc = s.frc ∧ t.ports = s.ports ∧ t.pendingHalf = s.pendingHalf ∧ t.activeHalf = s.activeHalf ∧
      t.manage = s.manage ∧ t.bell = s.bell ∧ t.out = s.out ∧ t.pending = s.pending)

/-! ### Memory seen from the host, the region table and the scrub -/

/-- BAR4_ACCESS (R159, R171, R173, R175) with nothing stored wrong: within the window and HBM a write stores its bytes at BAR4_BASE plus the offset
and no other byte; data with EP = 1 poisons every block it touches, other data makes clean every block it covers and leaves every other mark;
a read returns the bytes with the mark of any poisoned block and changes nothing; an access that reaches beyond the window or HBM completes
as an Unsupported Request without effect. CONFIGURATION_REQUEST (R159, R207, R214, R216, R556): before the function is ready every request is
answered with Configuration Request Retry Status; then a read is answered with a word, in which Bus Master Enable, the class code and the
type and size of each BAR stand at PCI Express's places (the model's, log entry 14), a look for a capability with whether the function has
it, the Device Serial Number with that of the identification block; BAR4 takes a size from 1 GiB to 256 GiB, and Bus Master Enable, the power state and the link follow what is asked. -/
def Obligations.HostWindowAndConfiguration : Prop :=
  (∀ (s : State) (off len : Nat), live s = true → s.power.ready = true → s.power.linkUp = true → s.power.d3hot = false → s.flaws = [] →
    let a := bar4Addr s off
    (off + len ≤ bar4Size s → a + len ≤ hbmTop →
      (∀ (data : List Byte) (ep : Bool), data.length = len → deadStack s a = false → (∀ b ∈ blocksOf a len, deadStack s (64 * b) = false) →
        Leads (.bar4Access true off len data ep {}) s (fun t =>
          readMem t.mem a len = data ∧ (∀ x, (x < a ∨ a + len ≤ x) → readByte t.mem x = readByte s.mem x) ∧
          (∀ b, b ∈ t.poison ↔ if ep = true then b ∈ s.poison ∨ b ∈ blocksOf a len else b ∈ s.poison ∧ ¬ (a ≤ 64 * b ∧ 64 * b + 64 ≤ a + len)) ∧
          (ep = false → t = { s with mem := t.mem, poison := t.poison, regs := t.regs }) ∧
          t = { s with mem := t.mem, poison := t.poison, regs := t.regs, power := t.power, integrity := t.integrity })) ∧
      exec (.bar4Access false off len [] false {}) s = .next { s with out := s.out ++ [.bar4Data off (readMem s.mem a len) (rangePoisoned s a len)] }) ∧
    ((bar4Size s < off + len ∨ hbmTop < a + len) → ∀ (write : Bool) (data : List Byte) (ep : Bool), okData write len data = true →
      exec (.bar4Access write off len data ep {}) s = .next { s with out := s.out ++ [.unsupportedRequest off] })) ∧
  (∀ s : State, live s = true →
    (s.power.ready = false → ∀ req, (∀ up, req ≠ .linkUp up) → exec (.configurationRequest req) s = .next { s with out := s.out ++ [.config true] }) ∧
    (s.power.ready = true →
      (30 ≤ s.power.bar4Log2 → ∀ off, Leads (.configurationRequest (.read off)) s (fun t =>
        ∃ d, t = { s with out := s.out ++ [.configData off d] } ∧ (off / 4 = 1 → bit d 2 = s.power.busMaster) ∧ (off / 4 = 2 → d / 256 = 0x120000) ∧
          (off / 4 = 4 → d % 2 ^ 26 = 4) ∧ (off / 4 = 6 → d % 2 ^ 18 = 4) ∧ (off / 4 = 8 → d % 2 ^ 30 = 0xC))) ∧
      (∀ high, exec (.configurationRequest (.serialNumber high)) s = .next { s with
        out := s.out ++ [.serialNumber high (rd s (if high then idSerialLo + 4 else idSerialLo))] }) ∧
      (∀ ext id, exec (.configurationRequest (.capability ext id)) s = .next { s with out := s.out ++ [.capability ext id (hasCapability ext id)] }) ∧
      (∀ n, 30 ≤ n → n ≤ 38 → exec (.configurationRequest (.resizeBar4 n)) s = .next { s with
        power := { s.power with bar4Log2 := n }, out := s.out ++ [.config false] }) ∧
      (∀ on, Leads (.configurationRequest (.busMaster on)) s (fun t =>
        t.power = { s.power with busMaster := on } ∧ (s.out ++ [.config false]) <+: t.out ∧ t = { s with power := t.power, regs := t.regs, out := t.out })) ∧
      (∀ d3, Leads (.configurationRequest (.powerState d3)) s (fun t =>
        t.power = { s.power with d3hot := d3 } ∧ (s.out ++ [.config false]) <+: t.out ∧ t = { s with power := t.power, regs := t.regs, out := t.out })) ∧
      (∀ up, Leads (.configurationRequest (.linkUp up)) s (fun t =>
        t.power = { s.power with linkUp := up } ∧ s.out <+: t.out ∧ t = { s with power := t.power, regs := t.regs, out := t.out }))))

/-- REGION_CTRL_WRITE (R162): an entry that passes the checks is enabled with the fields written; an enabled entry keeps its TYPE and takes
REMOTE_W and REMOTE_R; a write that breaks a check is counted with cause 0x05 and changes no entry, no register but those of the error log and
pending message bits changing; so is, with cause 0x04, a change of TYPE of an enabled entry, and a write of its BASE or SIZE; a write with EN
= 0 disables the entry with the fields written, a reserved TYPE leaving TYPE, and it or a RSVD bit being counted with cause 0x02.
PATROL_SCRUB (R167, R170, R172, R184) of a block
of a trained stack with the scrub on, nothing else stored wrong: a clean block changes nothing; corrections by on-die ECC count in
ONDIE_COUNT; wrong symbols that the code corrects count in CE_COUNT, and one wrong symbol named right leaves every byte as it was; an
uncorrectable block is written back poisoned, counted in UE_COUNT and its offset recorded in ERR_ADDR, and no byte of another block changes. -/
def Obligations.RegionsAndPatrolScrub : Prop :=
  (∀ (s : State) (who : Requester) (i val : Nat), Reaches s who → i < 16 → val < 2 ^ 32 → bit val 31 = true →
    let k := regionReg i regionCtrl
    (regionOn s i = false → regionRefused s i (bits val 3 0) = false → Leads (.regionCtrlWrite who i val) s (fun t =>
      regionOn t i = true ∧ regionTypeOf t i = bits val 3 0 ∧ flag t k 30 = bit val 30 ∧ flag t k 29 = bit val 29 ∧
      (∀ j, j ≠ k → rd t j = rd s j) ∧ t = { s with regs := t.regs })) ∧
    (regionOn s i = false → regionRefused s i (bits val 3 0) = true → Leads (.regionCtrlWrite who i val) s (fun t =>
      Counted s t 5 (sourceOf who) k)) ∧
    (regionOn s i = true → bits val 3 0 ≠ regionTypeOf s i → Leads (.regionCtrlWrite who i val) s (fun t =>
      Counted s t 4 (sourceOf who) k)) ∧
    (regionOn s i = true → bits val 3 0 = regionTypeOf s i → Leads (.regionCtrlWrite who i val) s (fun t =>
      regionOn t i = true ∧ regionTypeOf t i = regionTypeOf s i ∧ flag t k 30 = bit val 30 ∧ flag t k 29 = bit val 29 ∧
      (∀ j, j ≠ k → rd t j = rd s j) ∧ t = { s with regs := t.regs }))) ∧
  (∀ (s : State) (who : Requester) (i val : Nat) (host : HostView) (up : Upset), Reaches s who → i < 16 → val < 2 ^ 32 →
    let k := regionReg i regionCtrl
    (bit val 31 = false → val &&& 0x1FFFFFF0 = 0 → bits val 3 0 ≤ 5 → Leads (.regionCtrlWrite who i val) s (fun t =>
      rd t k = val ∧ (∀ j, j ≠ k → rd t j = rd s j) ∧ t = { s with regs := t.regs })) ∧
    (bit val 31 = false → 5 < bits val 3 0 ∨ val &&& 0x1FFFFFF0 ≠ 0 → Leads (.regionCtrlWrite who i val) s (fun t =>
      Counted (wr s k (bits val 30 29 * 2 ^ 29 + (if 5 < bits val 3 0 then regionTypeOf s i else bits val 3 0))) t 2 (sourceOf who) k)) ∧
    (regionOn s i = true → ∀ o ∈ [regionBaseLo, regionBaseLo + 4, regionSizeLo, regionSizeLo + 4],
      Leads (.registerWrite who (regionReg i o) 4 val host up) s (fun t => Counted (plant s up) t 4 (sourceOf who) (regionReg i o)))) ∧
  (∀ (s : State) (block : Nat) (fs : List Flaw), live s = true → 64 * block < hbmTop → s.flaws = [] →
    let m := stackOf (64 * block)
    flag s (mcReg m mcScrubCtrl) 31 = true → flag s (mcReg m mcMcStatus) 0 = true →
    exec (.patrolScrub block [] 0) s = .next s ∧
    (∀ n, 0 < n → n < 256 → Leads (.patrolScrub block [] n) s (fun t =>
      rd t (mcReg m mcOndieCount) = satAdd (rd s (mcReg m mcOndieCount)) n ∧ t = { s with regs := t.regs, flaws := t.flaws })) ∧
    (fs ≠ [] → (∀ f ∈ fs, f.place = .hbm block ∧ f.sym < 72 ∧ 0 < f.err ∧ f.err < 256) → (fs.map Flaw.sym).Nodup →
      let read := rsRead (applyFlaws fs (blockSymbols s block))
      (∀ sym err, read = .corrected sym err → Leads (.patrolScrub block fs 0) s (fun t =>
        rd t (mcReg m mcCeCount) = satAdd (rd s (mcReg m mcCeCount)) 1 ∧
        (fs = [⟨.hbm block, sym, err⟩] → ∀ x, readByte t.mem x = readByte s.mem x) ∧
        t = { s with mem := t.mem, poison := t.poison, frc := t.frc, regs := t.regs })) ∧
      (read = .uncorrectable → Leads (.patrolScrub block fs 0) s (fun t =>
        block ∈ t.poison ∧ (∀ b, b ≠ block → (b ∈ t.poison ↔ b ∈ s.poison)) ∧
        rd t (mcReg m mcUeCount) = satAdd (rd s (mcReg m mcUeCount)) 1 ∧ rd t (mcReg m mcErrAddrLo) = 64 * block % 2 ^ 32 ∧
        flag t (mcReg m mcErrAddrHi) 31 = true ∧ (∀ x, x / 64 ≠ block → readByte t.mem x = readByte s.mem x) ∧
        t = { s with mem := t.mem, poison := t.poison, frc := t.frc, regs := t.regs, integrity := t.integrity, recorder := t.recorder, out := t.out }))))

/-! ### Core streams -/

/-- MX_SYNC, VX_SYNC, RX_SYNC and MV_SYNC of the step slot (R73, R122, R144, R176, R227): a valid SYNC whose wait is satisfied issues, signals
the tally it names where SIG_EN is 1, and its program moves on, the slot freeing after its last instruction. No other tally, no byte of
memory and no mark changes. An invalid word halts its program unissued, and the unit's FAULT register takes VALID, the cause and the index
(R75, R140, R179); that it does so where VALID still stands from an earlier halt is the model's choice (log entry 49). -/
def Obligations.SyncIssuesAndSignals : Prop :=
  ∀ (s : State) (core i : Nat) (p : Prog), live s = true → core < 64 → s.cores.length = 64 → s.flaws = [] → nextIndex p = some i →
    let done (ins : Instr) (u : CoreUnit) (en : Bool) (sc st : Nat) : Prop :=
      progOf s core u .step = some p → headPoisoned s core u p i = false →
      Leads ins s (fun t =>
        progOf t core u .step = (if p.issued + 1 < p.count then some { p with issued := p.issued + 1, fetched := none } else none) ∧
        Signalled s t en sc st ∧
        t = { s with cores := t.cores, regs := t.regs, rings := t.rings, replays := t.replays, witness := t.witness, reports := t.reports })
    let halts (ins : Instr) (u : CoreUnit) (cause hi : Nat) : Prop :=
      progOf s core u .step = some p → headPoisoned s core u p i = false → i ≤ 2 ^ (hi + 1) - 1 →
      Leads ins s (fun t =>
        progOf t core u .step = some { p with halted := true, fail := 0x0E, fetched := none } ∧
        flag t (coreReg core (faultReg u)) 31 = true ∧ fld t (coreReg core (faultReg u)) 30 (faultShift u) = cause ∧
        fld t (coreReg core (faultReg u)) hi 0 = i ∧ Signalled s t false 0 0 ∧
        t = { s with cores := t.cores, regs := t.regs, rings := t.rings, replays := t.replays, witness := t.witness, out := t.out })
    (let w := headWord s core .mx p i;
      (mxOp w = 0 → mxCause w = none → mxWait s core w = true → done (.mxSync core .step {}) .mx (bit w 27) (bits w 26 21) (bits w 20 15)) ∧
      (∀ cause, mxCause w = some cause → halts (.mxSync core .step {}) .mx cause 11)) ∧
    (let w := headWord s core .vx p i;
      (vxOp w = 0 → lowest (vxWordCauses w) = none → vxWait s core w = true →
        done (.vxSync core .step {}) .vx (bit w 80) (bits w 79 74) (bits w 73 68)) ∧
      (∀ cause, lowest (vxWordCauses w) = some cause → halts (.vxSync core .step {}) .vx cause 10)) ∧
    (let w := headWord s core .rx p i;
      (rxOp w = 0 → lowest (rxWordCauses w) = none → rxWait s core w = true →
        done (.rxSync core .step {}) .rx (bit w 48) (bits w 47 42) (bits w 41 36)) ∧
      (∀ cause, lowest (rxWordCauses w) = some cause → halts (.rxSync core .step {}) .rx cause 11)) ∧
    (let w := headWord s core .mv p i;
      (mvOp w = 0 → lowest (mvWordCauses w) = none → mvWait s core w = true →
        done (.mvSync core .step {}) .mv (bit w 72) (bits w 71 66) (bits w 65 60)) ∧
      (∀ cause, lowest (mvWordCauses w) = some cause → halts (.mvSync core .step {}) .mv cause 10))

/-- MX_TILE_ISSUE of the step slot (R80, R81, R87, R587) with nothing poisoned or stored wrong: a TILE that may issue opens its bank, closes it to
others where REL is 1, and becomes the instruction being loaded; its load has read the weight bytes of its first clock where a pass runs, and
none otherwise. Its program moves on and no byte of memory or bank word changes. -/
def Obligations.TileIssueLoadsWeights : Prop :=
  ∀ (s : State) (core i : Nat) (p : Prog), live s = true → core < 64 → s.cores.length = 64 → progOf s core .mx .step = some p →
    nextIndex p = some i → mxCanIssue s core .step = true → s.poison = [] → s.flaws = [] →
    let w := headWord s core .mx p i
    mxOp w = 1 →
    Leads (.mxTileIssue core .step {}) s (fun t =>
      (∃ op, (coreAt t core).loading = some op ∧ op.word = w ∧ op.bell = p.bell ∧ op.slot = .step ∧ op.index = i ∧
        op.loadClk = (if (coreAt s core).pass.isSome then 1 else 0) ∧ op.weights = padRead s core (mxWeight w) (128 * op.loadClk) ∧
        op.poisonAll = none) ∧
      (bankOf (coreAt t core) (mxBank w)).state = .opened ∧ (mxRel w = true → (bankOf (coreAt t core) (mxBank w)).closing = true) ∧
      (∀ b, (bankOf (coreAt t core) b).words = (bankOf (coreAt s core) b).words) ∧
      progOf t core .mx .step = (if p.issued + 1 < p.count then some { p with issued := p.issued + 1, fetched := none } else none) ∧
      t = { s with cores := t.cores, regs := t.regs })

/-- TILE_PASS_START, TILE_PASS_END and TILE_BANK_COMPLETE (R81 to R83, R87, R94, R587) with nothing poisoned or stored wrong: a loaded TILE becomes
the running pass once the arrays are free, its load complete; weights not read in clocks of their own before are read then, as memory holds
them (the model's choice where commands leave no clocks between, log entry 16); at its end the pass drains, failed
checks are counted, and RSIG_EN signals; 13 clocks later its sums are the bank's words, REL releases the bank and SIG_EN signals.
AUDIT_START and AUDIT_END (R505, R506): a pending audit whose handover or flip waits takes the arrays once no pass runs, and a weight load that
had begun starts again after it; an audit that nothing waits for ends, counted in AUDITS_RUN; a difference is also recorded and flagged. -/
def Obligations.TilePassBankAudit : Prop :=
  (∀ (s : State) (core : Nat), live s = true → core < 64 → s.cores.length = 64 → s.poison = [] → s.flaws = [] →
    (∀ op, (coreAt s core).loading = some op → (coreAt s core).pass = none → (coreAt s core).audit = none →
      Leads (.tilePassStart core {}) s (fun t =>
        (coreAt t core).loading = none ∧
        (∃ op', (coreAt t core).pass = some op' ∧ op'.word = op.word ∧ op'.bell = op.bell ∧ op'.passClk = op.passClk + 1 ∧
          (op.loadClk = 0 → op.weights = [] → op'.weights = padRead s core (mxWeight op.word) (tileBytes (mxFmtW op.word)))) ∧
        t = { s with cores := t.cores })) ∧
    (∀ op, (coreAt s core).pass = some op →
      Leads (.tilePassEnd core {}) s (fun t =>
        (coreAt t core).pass = none ∧
        (∃ op', (coreAt t core).drain = (coreAt s core).drain ++ [op'] ∧ op'.word = op.word ∧ op'.weights = op.weights ∧
          (passClocks op.word ≤ op.passClk → op' = op)) ∧
        Signalled s t (bit op.word 14) core (bits op.word 13 8) ∧ t = { s with cores := t.cores, regs := t.regs }) ∧
      (∀ check, (∀ a ∈ check, a < 4) → Leads (.tilePassEnd core { check := check }) s (fun t =>
        rd t (coreReg core coreMxResidue) = satAdd (rd s (coreReg core coreMxResidue)) check.length ∧ (coreAt t core).pass = none ∧
        (s.instances = [] → t.mem = s.mem)))) ∧
    (∀ op rest, (coreAt s core).drain = op :: rest → (mxAcc op.word = true → (bankOf (coreAt s core) (mxBank op.word)).poison = []) →
      Leads (.tileBankComplete core {}) s (fun t =>
        (coreAt t core).drain = rest ∧
        (bankOf (coreAt t core) (mxBank op.word)).words = (runPass op (bankOf (coreAt s core) (mxBank op.word)).words).words ∧
        (bankOf (coreAt t core) (mxBank op.word)).state =
          (if mxRel op.word then .released else (bankOf (coreAt s core) (mxBank op.word)).state) ∧
        Signalled s t (bit op.word 27) (bits op.word 26 21) (bits op.word 20 15) ∧
        t = { s with cores := t.cores, regs := t.regs, rings := t.rings, replays := t.replays, witness := t.witness, reports := t.reports }))) ∧
  (∀ (s : State) (core : Nat) (a : Audit) (host : HostView), live s = true → core < 64 → s.cores.length = 64 → (coreAt s core).audit = some a →
    (a.running = false → (coreAt s core).pass = none → auditAwaited s a.bell = true →
      Leads (.auditStart core) s (fun t =>
        (coreAt t core).audit = some { a with running := true } ∧ (coreAt t core).loading = (coreAt s core).loading.map TileOp.unread ∧
        t = { s with cores := t.cores })) ∧
    (a.running = true → s.handWait = [] → s.flipWait = [] →
      Leads (.auditEnd core false host) s (fun t =>
        (coreAt t core).audit = none ∧ rd t (intReg intAuditsRun) = satAdd (rd s (intReg intAuditsRun)) 1 ∧
        t = { s with cores := t.cores, regs := t.regs })) ∧
    (a.running = true → s.handWait = [] → s.flipWait = [] →
      Leads (.auditEnd core true host) s (fun t =>
        (coreAt t core).audit = none ∧ rd t (intReg intAuditsRun) = satAdd (rd s (intReg intAuditsRun)) 1 ∧
        rd t (intReg intAuditFail) = satAdd (rd s (intReg intAuditFail)) 1 ∧
        t.recorder.queue.length + t.recorder.lost ≥ s.recorder.queue.length + s.recorder.lost + 1 ∧
        flag t (intReg intIntEvent) 29 = true ∧ (s.flaws = [] → s.instances = [] → t.mem = s.mem))))

/-- VX_RECIPE_ISSUE and RX_REDUCE of the step slot (R121, R138, R145): with nothing poisoned or stored wrong, an instruction that may issue joins
its unit's instructions in flight, reading, and its program moves on; its results are not in memory before its last write completes (that
they land together then is the model's choice, log entry 16).
VX_READS_END, VX_WRITES_COMPLETE, RX_READS_END and RX_WRITES_COMPLETE (R139, R144, R147): when its reads end an instruction frees the read
path and RSIG_EN signals; when its last write completes its bytes are in memory, it is no longer in flight and SIG_EN signals. -/
def Obligations.VectorAndReducerRun : Prop :=
  (∀ (s : State) (core i : Nat) (p : Prog), live s = true → core < 64 → s.cores.length = 64 → nextIndex p = some i → Clean s →
    (coreAt s core).bank0.poison = [] → (coreAt s core).bank1.poison = [] →
    let out (t : State) (u : CoreUnit) : Prop :=
      progOf t core u .step = (if p.issued + 1 < p.count then some { p with issued := p.issued + 1, fetched := none } else none) ∧
      t.mem = s.mem ∧ t.poison = s.poison
    (progOf s core .vx .step = some p → vxCanIssue s core .step = true → vxOp (headWord s core .vx p i) = 1 →
      (∀ o ∈ (coreAt s core).vxOps, ∀ x ∈ o.writes, x.2.2 = false) →
      Leads (.vxRecipeIssue core .step {}) s (fun t =>
        out t .vx ∧ ∃ o, (coreAt t core).vxOps = (coreAt s core).vxOps ++ [o] ∧ o.word = headWord s core .vx p i ∧ o.reading = true ∧
          o.bell = p.bell ∧ o.key = p.key)) ∧
    (progOf s core .rx .step = some p → rxCanIssue s core .step = true → rxOp (headWord s core .rx p i) = 1 →
      (∀ o ∈ (coreAt s core).rxOps, ∀ x ∈ o.writes, x.2.2 = false) →
      Leads (.rxReduce core .step {}) s (fun t =>
        out t .rx ∧ ∃ o, (coreAt t core).rxOps = (coreAt s core).rxOps ++ [o] ∧ o.word = headWord s core .rx p i ∧ o.reading = true ∧
          o.bell = p.bell ∧ o.key = p.key))) ∧
  (∀ (s : State) (core : Nat) (o : FlowOp), live s = true → core < 64 → s.cores.length = 64 →
    ((coreAt s core).vxOps.find? FlowOp.reading = some o → Leads (.vxReadsEnd core) s (fun t =>
      (coreAt t core).vxOps = modWhere (coreAt s core).vxOps FlowOp.reading (fun o => { o with reading := false }) ∧
      Signalled s t (bit o.word 67) core (bits o.word 66 61) ∧ t = { s with cores := t.cores, regs := t.regs })) ∧
    ((coreAt s core).rxOps.find? FlowOp.reading = some o → Leads (.rxReadsEnd core) s (fun t =>
      (coreAt t core).rxOps = modWhere (coreAt s core).rxOps FlowOp.reading (fun o => { o with reading := false }) ∧
      Signalled s t (bit o.word 35) core (bits o.word 34 29) ∧ t = { s with cores := t.cores, regs := t.regs })) ∧
    (s.flaws = [] → o.normCheck = [] → (coreAt s core).vxOps.find? (fun o => !o.reading) = some o → Leads (.vxWritesComplete core) s (fun t =>
      (coreAt t core).vxOps = (coreAt s core).vxOps.erase o ∧ t.mem = (putBytes s o.writes).mem ∧ t.poison = (putBytes s o.writes).poison ∧
      Signalled s t (bit o.word 80) (bits o.word 79 74) (bits o.word 73 68) ∧
      t = { s with cores := t.cores, regs := t.regs, mem := t.mem, poison := t.poison, integrity := t.integrity, rings := t.rings,
                   replays := t.replays, witness := t.witness, reports := t.reports })) ∧
    (s.flaws = [] → o.normCheck = [] → (coreAt s core).rxOps.find? (fun o => !o.reading) = some o → Leads (.rxWritesComplete core) s (fun t =>
      (coreAt t core).rxOps = (coreAt s core).rxOps.erase o ∧ t.mem = (putBytes s o.writes).mem ∧ t.poison = (putBytes s o.writes).poison ∧
      Signalled s t (bit o.word 48) (bits o.word 47 42) (bits o.word 41 36) ∧
      t = { s with cores := t.cores, regs := t.regs, mem := t.mem, poison := t.poison, integrity := t.integrity, rings := t.rings,
                   replays := t.replays, witness := t.witness, reports := t.reports })))

/-- MV_MOVE of the step slot (R126, R177): a valid MOVE without CMP between PATTERN streams of this core's scratchpad whose destination elements
overlap neither each other nor any source element copies element j to element j, changes no byte outside the destination elements, and joins
the mover's instructions in flight. MV_READS_END and MV_WRITES_COMPLETE (R176, R329, R383): a MOVE that waits for no response and no packet
ends its reads and RSIG_EN signals; once its port writes are complete too it is no longer in flight and SIG_EN signals. -/
def Obligations.MoveCopiesAndEnds : Prop :=
  (∀ (s : State) (core i : Nat) (p : Prog), live s = true → core < 64 → s.cores.length = 64 → progOf s core .mv .step = some p →
    nextIndex p = some i → mvCanIssue s core .step = true → s.poison = [] → s.flaws = [] →
    let w := headWord s core .mv p i
    let src := mvSrcDesc s core w
    let dst := mvDstDesc s core w
    mvOp w = 1 → mvSrcSp w = 0 → mvDstSp w = 0 → mvCmp w = false → src.kind = 0 → dst.kind = 0 →
    let at_ (d : SDesc) (j : Nat) : Nat := scratchAddr core (d.place s core j).toNat
    (∀ j < src.n, ∀ k < src.n, at_ dst j + src.size ≤ at_ src k ∨ at_ src k + src.size ≤ at_ dst j) →
    (∀ j < src.n, ∀ k < src.n, j ≠ k → at_ dst j + src.size ≤ at_ dst k ∨ at_ dst k + src.size ≤ at_ dst j) →
    Leads (.mvMove core .step {} {}) s (fun t =>
      (∀ j < src.n, readMem t.mem (at_ dst j) src.size = readMem s.mem (at_ src j) src.size) ∧
      (∀ x, (∀ j < src.n, x < at_ dst j ∨ at_ dst j + src.size ≤ x) → readByte t.mem x = readByte s.mem x) ∧ t.poison = [] ∧
      ∃ o, (coreAt t core).mvOps = (coreAt s core).mvOps ++ [o] ∧ o.word = w ∧ o.bell = p.bell ∧ o.tags = [] ∧
      progOf t core .mv .step = (if p.issued + 1 < p.count then some { p with issued := p.issued + 1, fetched := none } else none) ∧
      t = { s with cores := t.cores, regs := t.regs, mem := t.mem, integrity := t.integrity })) ∧
  (∀ (s : State) (core : Nat) (o : MoveOp), live s = true → core < 64 → s.cores.length = 64 →
    ((coreAt s core).mvOps.find? (fun o => o.reading && moveRead s core o) = some o → Leads (.mvReadsEnd core) s (fun t =>
      { o with reading := false } ∈ (coreAt t core).mvOps ∧
      Signalled s t (bit o.word 59) core (bits o.word 58 53) ∧ t = { s with cores := t.cores, regs := t.regs })) ∧
    ((coreAt s core).mvOps.find? (fun o => !o.reading && moveWritten s o) = some o → Leads (.mvWritesComplete core) s (fun t =>
      (coreAt t core).mvOps = (coreAt s core).mvOps.erase o ∧
      Signalled s t (bit o.word 72) (bits o.word 71 66) (bits o.word 65 60) ∧
      t = { s with cores := t.cores, regs := t.regs, rings := t.rings, replays := t.replays, witness := t.witness, reports := t.reports })))

/-! ### DMA channels -/

/-- DMA_GO, DMA_ABORT and DMA_RESUME (R186, R187, R188, R191, R204, R205, R209): GO on an IDLE or STOPPED channel with OWNER = 0 starts the
descriptor in its window from its first element, RESUME on a STOPPED one continues the one in its window at the residue that the STATUS
registers hold; its checks end it with 0x0E or 0x0B, a host window that cannot be reached with 0x03, and nothing left to move with OK; ABORT keeps the oldest burst of a RUNNING channel alone, or ends a RETRY_WAIT one with 0x02; in any other state the command is dropped
and counted. -/
def Obligations.DmaChannelCommands : Prop :=
  ∀ (s : State) (who : Requester) (c : Nat), Reaches s who → c < 32 → s.channels.length = 32 →
    let d := chanDescOf s c
    let verdict (pos : Nat) : Option Nat :=
      if d.valid = false then some 0x0E
      else if keyReady s d = false then some 0x0B
      else if d.src.n ≤ pos then some 0
      else if inHost d.src.addr = true ∧ hostReachable s = false then some 3
      else none
    let dropped (i : Instr) : Prop := Leads i s (fun t =>
      rd t (chanReg c chanCmdDrop) = satAdd (rd s (chanReg c chanCmdDrop)) 1 ∧ (∀ k, k ≠ chanReg c chanCmdDrop → rd t k = rd s k) ∧
      t = { s with regs := t.regs })
    let runs (t : State) (pos : Nat) : Prop :=
      chanStateOf t c = 1 ∧ (chanAt t c).pos = pos ∧ (chanAt t c).ending = verdict pos ∧
      (verdict pos = none → (chanAt t c).bursts.head? = some ⟨pos, min d.burst (d.src.n - pos)⟩) ∧
      (∀ k, k ≠ chanReg c chanState → rd t k = rd s k) ∧ t = { s with channels := t.channels, regs := t.regs }
    (chanOwner s c = false → chanStateOf s c = 0 ∨ chanStateOf s c = 3 → Leads (.dmaGo who c) s (fun t => runs t 0)) ∧
    ((chanOwner s c = true ∨ (chanStateOf s c ≠ 0 ∧ chanStateOf s c ≠ 3)) → dropped (.dmaGo who c)) ∧
    (∀ b rest, chanStateOf s c = 1 → (chanAt s c).ending = none → (chanAt s c).bursts = b :: rest →
      Leads (.dmaAbort who c) s (fun t => chanAt t c = { chanAt s c with aborting := true, bursts := [b] } ∧ t = { s with channels := t.channels })) ∧
    (chanStateOf s c = 2 → Leads (.dmaAbort who c) s (fun t =>
      chanStateOf t c = 1 ∧ (chanAt t c).ending = some 2 ∧ (chanAt t c).bursts = [] ∧ (∀ k, k ≠ chanReg c chanState → rd t k = rd s k) ∧
      t = { s with channels := t.channels, regs := t.regs })) ∧
    (chanStateOf s c ≠ 1 → chanStateOf s c ≠ 2 → dropped (.dmaAbort who c)) ∧
    (chanStateOf s c = 3 → Leads (.dmaResume who c) s (fun t => runs t (residuePos s c d))) ∧
    (chanStateOf s c ≠ 3 → dropped (.dmaResume who c))

/-- DMA_BURST_READ_DONE without encryption (R192, R194, R195, R199 to R201): the oldest burst writes each of its elements where COPY, SPLIT,
MERGE or the bit planes put it, changes no other byte, and the channel's position moves past it; the last burst ends the descriptor with OK.
DMA_BURST_READ_DONE with encryption in flight (R202, R203, R485, R487): a sealed message is counted in MSG_SEALED and its frame's length is
added to the framed side, its plaintext's to the other; an opened message either authenticates, counted in MSG_OPENED, or ends the descriptor with 0x0A, counted in
TAG_FAIL; where the message's key is not available the descriptor ends with 0x0B and moves no byte (R489). -/
def Obligations.DmaBurstsMoveData : Prop :=
  (∀ (s : State) (c : Nat) (host : HostView) (b : Burst) (rest : List Burst), live s = true → c < 32 → s.channels.length = 32 → Clean s →
    let d := chanDescOf s c
    let k := chanAt s c
    chanStateOf s c = 1 → k.ending = none → k.aborting = false → k.bursts = b :: rest → d.valid = true → d.cipher = 0 → 0 < d.src.n →
    b.first + b.count ≤ d.src.n → (d.op = 3 ∨ d.op = 4 → b.count = 4096) →
    (∀ j < d.src.n, isMemory (d.src.at_ j) = true ∧ isMemory (d.dst.at_ j) = true) →
    let from_ (i : Nat) : Nat := d.src.at_ ((d.sources b.first b.count).getD i 0)
    let to_ (i : Nat) : Nat := d.dst.at_ (if d.op ≤ 2 then d.target (b.first + i) else b.first + i)
    (∀ i < b.count, ∀ j < b.count, i ≠ j → to_ i + d.size ≤ to_ j ∨ to_ j + d.size ≤ to_ i) →
    let raw := (List.range b.count).flatMap (fun i => readMem s.mem (from_ i) d.size)
    Leads (.dmaBurstReadDone c host {}) s (fun t =>
      (∀ i < b.count, readMem t.mem (to_ i) d.size =
        slice (if d.op ≤ 2 then raw else planes (d.op == 3) d.size raw) (i * d.size) d.size) ∧
      (∀ x, (∀ i < b.count, x < to_ i ∨ to_ i + d.size ≤ x) → readByte t.mem x = readByte s.mem x) ∧ t.poison = [] ∧
      (chanAt t c).pos = b.first + b.count ∧ (chanAt t c).ending = (if d.src.n ≤ b.first + b.count then some 0 else none) ∧
      t = { s with channels := t.channels, mem := t.mem, regs := t.regs, integrity := t.integrity })) ∧
  (∀ (s : State) (c : Nat) (host : HostView) (b : Burst) (rest : List Burst), live s = true → c < 32 → s.channels.length = 32 →
    let d := chanDescOf s c
    let k := chanAt s c
    chanStateOf s c = 1 → k.ending = none → k.aborting = false → k.bursts = b :: rest → d.valid = true →
    burstCut s d = false → burstFails s host c d b = false →
    (keyReady s d = false → Leads (.dmaBurstReadDone c host {}) s (fun t =>
      (chanAt t c).ending = some 0x0B ∧ (chanAt t c).pos = k.pos ∧ t = { s with channels := t.channels, regs := t.regs })) ∧
    (d.cipher = 1 → keyReady s d = true → (∀ core < 80, sealedCount s d.slot (exportSlot s d.slot).gen core < 2 ^ 40 - 1) →
      Leads (.dmaBurstReadDone c host {}) s (fun t =>
        rd t (bankReg 4 ciphMsgSealed) = satAdd (rd s (bankReg 4 ciphMsgSealed)) 1 ∧
        (chanAt t c).framed = k.framed + frameLen (d.msgLen k.plain) ∧ (chanAt t c).plain = k.plain + d.msgLen k.plain ∧
        t.draws = s.draws + 1)) ∧
    (d.cipher = 2 → keyReady s d = true → Leads (.dmaBurstReadDone c host {}) s (fun t =>
      (rd t (bankReg 4 ciphMsgOpened) = satAdd (rd s (bankReg 4 ciphMsgOpened)) 1 ∧ rd t (bankReg 4 ciphTagFail) = rd s (bankReg 4 ciphTagFail) ∧
        k.framed < (chanAt t c).framed ∧ k.plain < (chanAt t c).plain) ∨
      (rd t (bankReg 4 ciphTagFail) = satAdd (rd s (bankReg 4 ciphTagFail)) 1 ∧ rd t (bankReg 4 ciphMsgOpened) = rd s (bankReg 4 ciphMsgOpened) ∧
        (chanAt t c).ending = some 0x0A))))

/-- DMA_BUS_ERROR and DMA_RETRY_TIMER (R206): an error answer to a host-window read is counted and puts the channel into RETRY_WAIT, or ends the
descriptor with 0x03 where no retry is left; the timer counts a retry and repeats the read, which returns the channel to RUNNING unless it
fails again; where the host can no longer be reached the descriptor ends with 0x03. DMA_DESC_END (R197, R208, R212, R213): SEQ advances and saturates, STATUS mirrors the status record, which is also at STATUS_ADDR where one is
given in memory, STATE is IDLE, or STOPPED where a residue is recorded, the signal is sent where SIG_EN is 1 and the event flag of the
outcome is set. -/
def Obligations.DmaErrorsAndEnds : Prop :=
  (∀ (s : State) (c : Nat) (b : Burst) (rest : List Burst), live s = true → c < 32 → s.channels.length = 32 → (chanAt s c).bursts = b :: rest →
    (chanAt s c).aborting = false →
    let d := chanDescOf s c
    let k := chanAt s c
    let fromHost : Prop := (burstReads s c d b).any (fun r => inHost r.1) = true
    let frame (t : State) : Prop := t = { s with channels := t.channels, regs := t.regs }
    (∀ answer, chanStateOf s c = 1 → k.ending = none → fromHost → Leads (.dmaBusError c answer) s (fun t =>
      rd t (chanReg c chanBusErrCount) = satAdd (rd s (chanReg c chanBusErrCount)) 1 ∧ frame t ∧
      (if k.retryMax = 0 then chanStateOf t c = 1 ∧ (chanAt t c).ending = some 3
       else chanStateOf t c = 2 ∧ (chanAt t c).bursts = b :: rest ∧ (chanAt t c).attempt = 0))) ∧
    (∀ host, chanStateOf s c = 2 → hostReachable s = false → Leads (.dmaRetryTimer c host) s (fun t =>
      chanStateOf t c = 1 ∧ (chanAt t c).ending = some 3 ∧ frame t)) ∧
    (∀ host, chanStateOf s c = 2 → k.ending = none → hostReachable s = true → Leads (.dmaRetryTimer c host) s (fun t =>
      rd t (chanReg c chanRetryCount) = satAdd (rd s (chanReg c chanRetryCount)) 1 ∧ frame t ∧
      (if burstFails s host c d b = false then chanStateOf t c = 1 ∧ (chanAt t c).bursts = b :: rest ∧ (chanAt t c).attempt = 0
       else if k.retryMax ≤ k.attempt + 1 then chanStateOf t c = 1 ∧ (chanAt t c).ending = some 3
       else chanStateOf t c = 2 ∧ (chanAt t c).attempt = k.attempt + 1)))) ∧
  (∀ (s : State) (c status : Nat), live s = true → c < 32 → s.channels.length = 32 → s.flaws = [] → (chanAt s c).ending = some status →
    (chanAt s c).src = none → status < 256 →
    let d := chanDescOf s c
    let seq := satAdd (rd s (chanReg c chanSeq)) 1
    let rec_ := statusRecord d (chanAt s c) status seq
    Leads (.dmaDescEnd c) s (fun t =>
      rd t (chanReg c chanSeq) = seq ∧ (∀ i < 8, rd t (chanReg c (chanStatus + 4 * i)) = leAt rec_ (4 * i) 4) ∧
      chanStateOf t c = (if bit (leAt rec_ 1 1) 0 then 3 else 0) ∧ fld t (chanReg c chanState) 31 24 = status ∧ (chanAt t c).ending = none ∧
      Signalled s t d.sigEn d.sigCore d.sigTally ∧ flag t (chanReg c chanEvent) (if status = 0 then 31 else 30) = true ∧
      (d.statusAddr ≠ 0 → d.statusAddr % 32 = 0 → isMemory d.statusAddr = true → deadStack s d.statusAddr = false → Stored s t d.statusAddr rec_) ∧
      (d.statusAddr = 0 → t.mem = s.mem) ∧
      t = { s with channels := t.channels, regs := t.regs, mem := t.mem, poison := t.poison, out := t.out }))

/-! ### Rings and descriptors -/

/-- SQ_TAIL_DOORBELL, CQ_HEAD_DOORBELL and RPT_HEAD_DOORBELL (R222, R223, R234, R249): a 32-bit write of a value below 2^k to an enabled ring is
taken into its pointer, RPT_HEAD by a ring of the step class alone; one of a greater value, to a ring that is not enabled or of the wrong
class, a narrower write and a write at a reserved offset of the ring's page are dropped, counted in DB_DROP and flagged, and no other register
but pending message bits changes, RPT_PTR among them; a read of the page returns 0 (the pages stand at host offset 0x4000000 on, the model's
numbering, log entry 14). That an 8-byte write at the start of the page is two doorbell writes, and at CQ_HEAD is dropped, is the model's
choice (log entry 23). -/
def Obligations.DoorbellsMovePointers : Prop :=
  ∀ (s : State) (r val : Nat), live s = true → hostUp s = true → r < 64 → s.rings.length = 64 → val < 65536 →
    let drops (i : Instr) : Prop := Leads i s (fun t =>
      rd t (ringReg r ringDbDrop) = satAdd (rd s (ringReg r ringDbDrop)) 1 ∧ flag t (ringReg r ringEvent) 30 = true ∧
      (∀ k, k ≠ ringReg r ringDbDrop → k ≠ ringReg r ringEvent → ¬ (0x9000 ≤ k ∧ k < 0x9020) → rd t k = rd s k) ∧
      t = { s with regs := t.regs, out := t.out })
    let sets (i : Instr) (key : Nat) : Prop := Leads i s (fun t =>
      fld t key 15 0 = val ∧ fld t key 31 16 = fld s key 31 16 ∧ (∀ k, k ≠ key → rd t k = rd s k) ∧ t = { s with regs := t.regs, rings := t.rings })
    (ringEnabled s r = true → val < ringSlots s r →
      sets (.sqTailDoorbell r 4 val) (ringReg r ringPtr) ∧ sets (.cqHeadDoorbell r 4 val) (ringReg r ringCptr) ∧
      (ringClass s r = 1 → sets (.rptHeadDoorbell r 4 val) (ringReg r ringRptPtr)) ∧
      (ringClass s r ≠ 1 → drops (.rptHeadDoorbell r 4 val))) ∧
    ((ringEnabled s r = false ∨ ringSlots s r ≤ val) →
      drops (.sqTailDoorbell r 4 val) ∧ drops (.cqHeadDoorbell r 4 val) ∧ drops (.rptHeadDoorbell r 4 val)) ∧
    (∀ hi, hi < 65536 → ringEnabled s r = true → val < ringSlots s r → hi < ringSlots s r →
      Leads (.sqTailDoorbell r 8 (val + 2 ^ 32 * hi)) s (fun t => fld t (ringReg r ringPtr) 15 0 = val ∧ fld t (ringReg r ringCptr) 15 0 = hi ∧
        t = { s with regs := t.regs, rings := t.rings })) ∧
    drops (.cqHeadDoorbell r 8 val) ∧
    (∀ o host, o < 0x1000 → o % 4 = 0 → o ≠ 0 → o ≠ 4 → o ≠ 8 → drops (.registerWrite .host (0x4000000 + 0x1000 * r + o) 4 val host {})) ∧
    (∀ o w, o < 0x1000 → exec (.rcCounterRead .host (0x4000000 + 0x1000 * r + o) w) s =
      .next { s with out := s.out ++ [.readData (0x4000000 + 0x1000 * r + o) 0] }) ∧
    (∀ w, w = 1 ∨ w = 2 → drops (.sqTailDoorbell r w val) ∧ drops (.cqHeadDoorbell r w val) ∧ drops (.rptHeadDoorbell r w val))

/-- RING_ENABLE and RING_DISABLE (R218, R219, R220, R221): a valid enable zeroes PTR, CPTR and DONE and makes the ring RUNNING with CLASS,
JOB_TAG and K as written; a refused one leaves ENABLE 0 and is counted with its cause; a disable leaves the ring DISABLED, or DRAINING while
work that its descriptors started has not ended, and a step ring's replays start nothing more. RING_FLUSH and RING_RESUME (R239, R240): on a
HALTED ring FLUSH ends every descriptor posted and not started with NOT_EXECUTED, and both make the ring RUNNING; on any other ring they are
counted in DB_DROP and change nothing else. That a flushed descriptor's TAG and IRQ flag are those that its slot holds when it is flushed, 0
where the slot cannot be read, is the model's choice (log entry 23). -/
def Obligations.RingControl : Prop :=
  (∀ (s : State) (who : Requester) (r v : Nat), Reaches s who → r < 64 → s.rings.length = 64 → v < 2 ^ 32 → v &&& ctrlFixed = v % 2 ^ 29 →
    bit v 30 = false → bit v 29 = false →
    (bit v 31 = true → ringEnabled s r = false → enableRefused s r (v % 2 ^ 29) = none →
      Leads (.ringEnable who r v) s (fun t =>
        rd t (ringReg r ringCtrl) = v ∧ stateOfRing t r = 1 ∧ rd t (ringReg r ringPtr) = 0 ∧ rd t (ringReg r ringCptr) = 0 ∧
        rd t (ringReg r ringDone) = 0 ∧ ringAt t r = { pendingIrq := (ringAt s r).pendingIrq, unread := (ringAt s r).unread } ∧ t = { s with regs := t.regs, rings := t.rings })) ∧
    (∀ cause, bit v 31 = true → ringEnabled s r = false → enableRefused s r (v % 2 ^ 29) = some cause →
      Leads (.ringEnable who r v) s (fun t =>
        ringEnabled t r = false ∧ stateOfRing t r = stateOfRing s r ∧
        Counted (wr s (ringReg r ringCtrl) (v % 2 ^ 29)) t cause (sourceOf who) (ringReg r ringCtrl))) ∧
    (bit v 31 = false → ringEnabled s r = true → ringClass s r = 1 → v &&& ctrlFixed = rd s (ringReg r ringCtrl) &&& ctrlFixed →
      Leads (.ringDisable who r v) s (fun t =>
        ringEnabled t r = false ∧ (ringAt t r).inflight = (ringAt s r).inflight.filter (fun d => d.progress != .ended) ∧
        (∀ p ∈ t.replays, p.stopped = true) ∧ t = { s with regs := t.regs, rings := t.rings, replays := t.replays, reports := t.reports })) ∧
    (bit v 31 = false → ringEnabled s r = true → ringClass s r ≠ 1 → v &&& ctrlFixed = rd s (ringReg r ringCtrl) &&& ctrlFixed →
      Leads (.ringDisable who r v) s (fun t =>
        ringEnabled t r = false ∧ (ringAt t r).inflight = (ringAt s r).inflight.filter (fun d => d.progress != .ended) ∧
        stateOfRing t r = (if ringWorks s r then 3 else 0) ∧ t = { s with regs := t.regs, rings := t.rings }))) ∧
  (∀ (s : State) (who : Requester) (r : Nat) (host : HostView), Reaches s who → r < 64 → s.rings.length = 64 →
    let none_ (i : Instr) : Prop := Leads i s (fun t =>
      rd t (ringReg r ringDbDrop) = satAdd (rd s (ringReg r ringDbDrop)) 1 ∧ (∀ k, k ≠ ringReg r ringDbDrop → rd t k = rd s k) ∧
      t = { s with regs := t.regs })
    (stateOfRing s r = 2 →
      Leads (.ringResume who r) s (fun t => stateOfRing t r = 1 ∧ (∀ k, k ≠ ringReg r ringState → rd t k = rd s k) ∧ t = { s with regs := t.regs }) ∧
      (sqHead s r < ringSlots s r → sqTail s r < ringSlots s r → s.flaws = [] →
        Leads (.ringFlush who r host) s (fun t =>
          stateOfRing t r = 1 ∧ sqHead t r = sqTail s r ∧ sqTail t r = sqTail s r ∧
          (∃ ds, (ringAt t r).inflight = (ringAt s r).inflight ++ ds ∧
            ds.map Desc.index = (List.range ((sqTail s r + ringSlots s r - sqHead s r) % ringSlots s r)).map (fun i => (sqHead s r + i) % ringSlots s r) ∧
            ∀ d ∈ ds, d.progress = .ended ∧ d.status = 9 ∧ d.tag = leAt d.bytes 4 4 ∧ d.irq = bit (leAt d.bytes 2 1) 1 ∧
              d.bytes = (readDesc s host (rd64 s (ringReg r ringSqBaseLo) + 64 * d.index)).getD []) ∧
          t.power = { s.power with aer := t.power.aer } ∧
          t = { s with regs := t.regs, rings := t.rings, started := t.started, replays := t.replays, reports := t.reports, power := t.power }))) ∧
    (stateOfRing s r ≠ 2 → none_ (.ringResume who r) ∧ none_ (.ringFlush who r host)))

/-- DESC_START of a ring (R225, R226, R237, R242): the descriptor at SQ_HEAD starts, SQ_HEAD moves on, and it is in flight; one that is not
valid ends at once with 0x0E, and one that cannot be read with 0x03 and TAG 0, either of which halts the ring. That a slot in a poisoned
block of device memory cannot be read is the model's choice (log entry 23). -/
def Obligations.DescriptorStarts : Prop :=
  ∀ (s : State) (r : Nat) (host : HostView), live s = true → r < 64 → s.rings.length = 64 → ringEnabled s r = true → stateOfRing s r = 1 →
    sqHead s r ≠ sqTail s r → sqHead s r < ringSlots s r → ringSlots s r ≤ 65536 → (ringAt s r).dead = false → (ringAt s r).inflight = [] → s.replays = [] → cqFree s r = true → s.flaws = [] →
    (ringClass s r = 2 → witnessRuns s = false) →
    let i := sqHead s r
    let b := readDesc s host (rd64 s (ringReg r ringSqBaseLo) + 64 * i)
    let moved (t : State) : Prop := sqHead t r = (i + 1) % ringSlots s r ∧ sqTail t r = sqTail s r ∧ t.mem = s.mem ∧ t.poison = s.poison
    (∀ x, b = some x → descValid s (.ring r) x = true → runBlocked s (.ring r) x = false →
      Leads (.descStart (.ring r) host {}) s (fun t =>
        moved t ∧ stateOfRing t r = 1 ∧
        (∃ d, (ringAt t r).inflight = [d] ∧ d.bytes = x ∧ d.index = i ∧ d.op = leAt x 1 1 ∧ d.tag = leAt x 4 4 ∧ d.irq = bit (leAt x 2 1) 1 ∧
          d.progress = .started ∧ d.serial = s.started) ∧ t = { s with regs := t.regs, rings := t.rings, started := s.started + 1 })) ∧
    (∀ x, b = some x → descValid s (.ring r) x = false →
      Leads (.descStart (.ring r) host {}) s (fun t => moved t ∧ stateOfRing t r = 2 ∧ rd t (ringReg r ringHalt) = 0x0E000000 + i ∧
        ∃ d, (ringAt t r).inflight = [d] ∧ d.index = i ∧ d.progress = .ended ∧ d.status = 0x0E)) ∧
    (b = none →
      Leads (.descStart (.ring r) host {}) s (fun t => moved t ∧ stateOfRing t r = 2 ∧ rd t (ringReg r ringHalt) = 0x03000000 + i ∧
        ∃ d, (ringAt t r).inflight = [d] ∧ d.index = i ∧ d.progress = .ended ∧ d.status = 3 ∧ d.tag = 0))

/-- NOP, SIGNAL and WAIT_BELL from any queue (R226, R285, Table 8.6): a NOP ends with OK; a SIGNAL adds 1 to the tally it names and ends with
OK; a WAIT_BELL whose edge has passed ends with OK_LATE, and any other waits. STREAM_HALT, STREAM_RESUME and STREAM_RESET of a ring (R286,
R287): the programs of the named streams halt, go on, or are discarded, a reset of an MX stream freeing both banks; a halt ends once what
was issued has completed, the other two at once, with OK. -/
def Obligations.SimpleDescriptorsAndStreams : Prop :=
  (∀ (s : State) (src : DescSource) (k : DescKey) (d : Desc), live s = true → okSource src = true →
    (startedWith s src (fun d => d.op == 0) = some (k, d) →
      Leads (.nop src) s (fun t => Concluded s t k d 0 0 0 ∧ t.mem = s.mem ∧ t.poison = s.poison ∧ t.out = s.out ∧ Signalled s t false 0 0)) ∧
    (startedWith s src (fun d => d.op == 5) = some (k, d) → leAt d.bytes 8 1 < 64 → leAt d.bytes 9 1 < 64 →
      Leads (.signal src) s (fun t => Concluded s t k d 0 0 0 ∧ t.mem = s.mem ∧ t.poison = s.poison ∧ t.out = s.out ∧
        Signalled s t true (leAt d.bytes 8 1) (leAt d.bytes 9 1))) ∧
    (startedWith s src (fun d => d.op == 4) = some (k, d) →
      (s.bell.lastEdge.isSome = true → leAt d.bytes 8 8 ≤ bellNum s → Leads (.waitBell src) s (fun t =>
        Concluded s t k d 1 0 0 ∧ t.mem = s.mem ∧ t.poison = s.poison ∧ t.out = s.out)) ∧
      ((s.bell.lastEdge = none ∨ bellNum s < leAt d.bytes 8 8) → Leads (.waitBell src) s (fun t =>
        (∀ e ∈ inflightOf t k, e.has k = true → e.progress = .running) ∧ t = { s with rings := t.rings, replays := t.replays, witness := t.witness })))) ∧
  (∀ (s : State) (r : Nat) (k : DescKey) (d : Desc) (act : Nat), live s = true → r < 64 → s.cores.length = 64 → s.rings.length = 64 →
    ringEnabled s r = true → startedWith s (.ring r) (fun d => d.op == 3 && leAt d.bytes 17 1 == act) = some (k, d) →
    (∀ e ∈ (ringAt s r).inflight, e.progress ≠ .running) → ((ringAt s r).inflight.map Desc.index).Nodup →
    let named := ctlStreams d.bytes
    let others (t : State) : Prop := ∀ c < 64, ∀ u sl, (c, u) ∉ named → progOf t c u sl = progOf s c u sl
    let isOver (t : State) : Prop := ∃ e ∈ (ringAt t r).inflight, e.index = d.index ∧ e.progress = .ended ∧ e.status = 0
    (act = 0 → Leads (.streamHalt (.ring r)) s (fun t =>
      (∀ e ∈ named, ∀ sl, progOf t e.1 e.2 sl = (progOf s e.1 e.2 sl).map (fun p => { p with halted := true })) ∧ others t ∧
      (if named.all (fun e => !unitBusy s e.1 e.2) then isOver t else { d with progress := .running } ∈ (ringAt t r).inflight) ∧
      t = { s with cores := t.cores, rings := t.rings })) ∧
    (act = 1 → Leads (.streamResume (.ring r)) s (fun t =>
      (∀ e ∈ named, ∀ sl, progOf t e.1 e.2 sl = (progOf s e.1 e.2 sl).map (fun p => { p with halted := false, fail := 0, fetched := none })) ∧ others t ∧ isOver t ∧
      t = { s with cores := t.cores, rings := t.rings })) ∧
    (act = 2 → Leads (.streamReset (.ring r)) s (fun t =>
      (∀ e ∈ named, ∀ sl, progOf t e.1 e.2 sl = none) ∧ isOver t ∧
      (∀ c < 64, (c, CoreUnit.mx) ∈ named → ∀ b, (bankOf (coreAt t c) b).state = .free ∧ (bankOf (coreAt t c) b).words = (bankOf (coreAt s c) b).words) ∧
      t.mem = s.mem ∧ t.poison = s.poison ∧ t.out = s.out)))

/-- RUN and RUN_PART_END (R227, R228, R230): a RUN whose streams are free puts each named program into its slot, at its first instruction, and
has one part for each core; a part with nothing left ends, and when all have ended with OK the RUN ends with OK. RUN_TIMEOUT (R229): of a
RUN of one core with nothing in flight and no output table, the part fails with TIMEOUT, its programs halt, the RUN ends with 0x0D and its
ring halts with that status. DMA (R231): the 128 bytes at DESC_ADDR go into the window of its channel, which starts; the descriptor runs
until the channel ends it. A DMA waits while no channel that one names is IDLE or STOPPED. -/
def Obligations.RunAndDmaDescriptors : Prop :=
  (∀ (s : State) (src : DescSource) (k : DescKey) (d : Desc) (host : HostView), live s = true → okSource src = true → s.cores.length = 64 →
    (startedWith s src (fun d => d.op == 1) = some (k, d) → streamsFree s (slotFor s src) d.bytes = true →
      Leads (.run src host) s (fun t =>
        (∀ c < 64, ∀ u, bit (leAt d.bytes 8 8) c = true → runCount d.bytes u ≠ 0 →
          ∃ p, progOf t c u (slotFor s src) = some p ∧ p.start = runStart d.bytes u ∧ p.count = runCount d.bytes u ∧ p.issued = 0 ∧
            p.halted = false ∧ p.key = k ∧ p.bell = carried s k) ∧
        (∀ c < 64, ∀ u, (bit (leAt d.bytes 8 8) c = false ∨ runCount d.bytes u = 0) → ∀ sl, progOf t c u sl = progOf s c u sl) ∧
        (∀ e, descOf t k = some e → e.progress = .running ∧ e.startedAt = s.now ∧ e.parts.map Part.core = coreMask d.bytes) ∧
        t = { s with cores := t.cores, regs := t.regs, rings := t.rings, replays := t.replays, witness := t.witness })) ∧
    (∀ r c, src = .ring r → r < 64 → s.rings.length = 64 → ringEnabled s r = true → c < 64 → (ringAt s r).inflight = [d] → d.progress = .running →
      d.op = 1 → d.status = 0 → (∀ p ∈ d.parts, p.core = c → p.ended = false ∧ p.left = 0 ∧ p.status = 0) → (∃ p ∈ d.parts, p.core = c) →
      (∀ p ∈ d.parts, p.status = 0) →
      Leads (.runPartEnd src d.index c host) s (fun t =>
        (∃ e, (ringAt t r).inflight = [e] ∧ e.parts = d.parts.map (fun p => if p.core = c then { p with ended := true } else p) ∧
          (if e.parts.all (·.ended) then e.progress = .ended ∧ e.status = 0 ∧ e.partMap = 0 else e.progress = .running)) ∧
        t = { s with rings := t.rings }))) ∧
  (∀ (s : State) (r c : Nat) (d : Desc) (host : HostView) (p : Part), live s = true → r < 64 → c < 64 → s.rings.length = 64 → s.cores.length = 64 →
    ringEnabled s r = true → stateOfRing s r = 1 → (ringAt s r).inflight = [d] → d.progress = .running → d.op = 1 → d.status = 0 → d.index < 65536 →
    leAt d.bytes 32 4 ≠ 0 → leAt d.bytes 40 8 = 0 → d.parts = [p] → p.core = c → p.ended = false → p.status = 0 →
    let k : DescKey := d.key (.ring r) 0
    p.left = unissued s k c →
    Leads (.runTimeout (.ring r) d.index host) s (fun t =>
      (∃ e, (ringAt t r).inflight = [e] ∧ e.progress = .ended ∧ e.status = 0x0D ∧ e.partMap = 2 ^ c) ∧
      (∀ u sl q, progOf t c u sl = some q → q.key = k → q.halted = true) ∧
      stateOfRing t r = 2 ∧ rd t (ringReg r ringHalt) = 0x0D000000 + d.index ∧ t.mem = s.mem ∧ t.poison = s.poison)) ∧
  (∀ (s : State) (src : DescSource) (k : DescKey) (d : Desc) (host : HostView), live s = true → okSource src = true → s.channels.length = 32 → s.flaws = [] →
    startedWith s src (fun d => d.op == 2 && channelFree s d) = some (k, d) →
    let c := leAt d.bytes 8 1 % 32
    let a := leAt d.bytes 16 8
    devFails s host a 128 = false → (devRead s host a 128).bad = false →
    Leads (.dma src host {}) s (fun t =>
      (∀ i < 32, rd t (chanReg c (chanDesc + 4 * i)) = leAt (devRead s host a 128).bytes (4 * i) 4) ∧
      chanStateOf t c = 1 ∧ (chanAt t c).src = some k ∧ (chanAt t c).pos = 0 ∧
      (∀ e, descOf t k = some e → e.progress = .running) ∧
      t = { s with regs := t.regs, channels := t.channels, rings := t.rings, replays := t.replays, witness := t.witness })) ∧
  (∀ (s : State) (src : DescSource), live s = true → s.flaws = [] → startedWith s src (fun d => d.op == 2 && channelFree s d) = none →
    ∀ host, exec (.dma src host {}) s = .next s)

/-- COMPLETION_WRITE and COALESCING_TIMER (R232, R235, R236, R254, R255): the oldest descriptor, ended, has its 32 bytes written to its
completion slot in host memory, CQ_TAIL and DONE advance and the phase turns when the queue wraps; a message follows where one is due. The
timer sends what is pending. -/
def Obligations.CompletionsAndCoalescing : Prop :=
  ∀ (s : State) (r : Nat), live s = true → r < 64 → s.rings.length = 64 →
    let v := fld s (ringReg r ringIntr) 30 23
    Unmasked s v →
    (∀ d rest x, (ringAt s r).inflight = d :: rest → d.progress = .ended → (∀ e ∈ rest, e.op ≠ 3) → ringEnabled s r = true → (ringAt s r).dead = false →
      (∀ p ∈ s.reports, p.closed = false) → cqFree s r = true → cqTail s r < ringSlots s r → ringSlots s r ≤ 65536 →
      spaceOf (rd64 s (ringReg r ringCqBaseLo) + 32 * cqTail s r) = .host x →
      Leads (.completionWrite r) s (fun t =>
        let msg : Prop := d.irq = true ∨ (flag s (ringReg r ringIntr) 31 = true ∧ max 1 (fld s (ringReg r ringIntr) 12 5) ≤ (ringAt s r).pendingIrq + 1)
        (msg → t.out = s.out ++ [.hostWrite x (completionBytes s r d) false, msiOf s v]) ∧
        (¬ msg → t.out = s.out ++ [.hostWrite x (completionBytes s r d) false]) ∧
        (ringAt t r).inflight = rest ∧ cqTail t r = (cqTail s r + 1) % ringSlots s r ∧
        (ringAt t r).phase = (if (cqTail s r + 1) % ringSlots s r = 0 then !(ringAt s r).phase else (ringAt s r).phase) ∧
        rd t (ringReg r ringDone) = (rd s (ringReg r ringDone) + 1) % 2 ^ 32 ∧
        t = { s with regs := t.regs, rings := t.rings, out := t.out })) ∧
    ((ringAt s r).pendingIrq ≠ 0 → fld s (ringReg r ringIntr) 22 13 ≠ 0 →
      Leads (.coalescingTimer r) s (fun t =>
        t.out = s.out ++ [msiOf s v] ∧ (ringAt t r).pendingIrq = 0 ∧ t = { s with rings := t.rings, out := t.out }))

/-! ### The bell -/

/-- BELL_ENABLE and BELL_DISABLE (R267): setting EN starts the bell, the master's first edge carrying START and falling LEAD after, any other
module waiting for a message; clearing it stops the bell and clears LOCKED and HOLDOVER; an arm stays as it was. ARM while the bell is off
with a failed check, and PENDING_SYNC_COPY (R271, R272): both halves stay and the failed check's offset is counted with cause 0x06 (a copy of
R272 still under way ends first, log entry 27); the copy after a swap makes the pending half equal to the active one and ends. -/
def Obligations.BellControlAndSwap : Prop :=
  (∀ (s : State) (who : Requester) (v : Nat), Reaches s who → v < 2 ^ 32 → v &&& 0x1FFFFC00 = 0 →
    (bit v 31 = true → bellOn s = false → Leads (.bellEnable who v) s (fun t =>
      rd t (bellReg bellBellCtrl) = v ∧ (∀ k, k ≠ bellReg bellBellCtrl → rd t k = rd s k) ∧
      t.bell.next = (if isMaster s then some (rd64 s (bellReg bellStartLo), s.now + bits v 9 0 * clocksPerUs) else none) ∧
      t.bell.lastEdge = none ∧ t.bell.misses = 0 ∧ t.bell.armed = s.bell.armed ∧ t = { s with regs := t.regs, bell := t.bell })) ∧
    (bit v 31 = false → bellOn s = true → Leads (.bellDisable who v) s (fun t =>
      rd t (bellReg bellBellCtrl) = v ∧ t.bell.next = none ∧ flag t (bellReg bellBellStatus) 31 = false ∧ flag t (bellReg bellBellStatus) 30 = false ∧
      t.bell.armed = s.bell.armed ∧ bellNum t = bellNum s ∧ t = { s with regs := t.regs, bell := t.bell }))) ∧
  (∀ (s : State) (who : Requester), Reaches s who →
    (let half := if flag s (bellReg bellBellStatus) 27 then (copyPending s).pendingHalf else s.pendingHalf
     ∀ o, bellOn s = false → swapFault half = some o → Leads (.arm who (2 ^ 31)) s (fun t =>
      t.activeHalf = s.activeHalf ∧ t.pendingHalf = half ∧ flag t (bellReg bellBellStatus) 24 = true ∧
      rd t (intReg errErrCause + 4 * 6) = satAdd (rd s (intReg errErrCause + 4 * 6)) 1 ∧ rd t (intReg errErrLastArg) = o % 2 ^ 32)) ∧
    (flag s (bellReg bellBellStatus) 27 = true → s.bell.keep = [] → Leads .pendingSyncCopy s (fun t =>
      t.pendingHalf = s.activeHalf ∧ flag t (bellReg bellBellStatus) 27 = false ∧ t = { s with regs := t.regs, pendingHalf := t.pendingHalf })))

/-- ARM and DISARM (R270) with R271's checks passed. A new arm replaces the target; DISARM clears ARMED and no swap occurs; a write of both ARM and
DISARM leaves the arm standing; while the bell is off an arm swaps the halves at once and uses no bell number. That a copy of R272 still under
way ends first, and that the new active half keeps the FAB_ID held at the swap, by which R583 judges membership until the next one, are the
model's reading (log entry 27). -/
def Obligations.ArmAndDisarm : Prop :=
  ∀ (s : State) (who : Requester), Reaches s who →
    let target := rd64 s (bellReg bellArmLo)
    let stands (v : Nat) : Prop := Leads (.arm who v) s (fun t =>
      t.bell.armed = some (target, s.bell.lastEdge.isSome && decide (target ≤ bellNum s)) ∧
      t = { s with bell := { s.bell with armed := t.bell.armed } })
    (bellOn s = true → stands (2 ^ 31) ∧ stands (2 ^ 31 + 2 ^ 30)) ∧
    exec (.disarm who) s = .next { s with bell := { s.bell with armed := none } } ∧
    (let half := if flag s (bellReg bellBellStatus) 27 then (copyPending s).pendingHalf else s.pendingHalf
     bellOn s = false → swapFault half = none → ∀ v, v = 2 ^ 31 ∨ v = 2 ^ 31 + 2 ^ 30 → Leads (.arm who v) s (fun t =>
      t.activeHalf = putSetting half halfFabId (rd s (fabReg fabFabId)) ∧
      t.pendingHalf = s.activeHalf ∧ t.bell.armed = none ∧ bellNum t = bellNum s ∧
      t.mem = s.mem ∧ t.poison = s.poison ∧ t.cores = s.cores ∧ t.ports = s.ports))

/-- BELL_EDGE (R258, R263, R264, R279): the edge that is due gives the local bell its number, becomes the last edge, and places the next one a
period after it, by the period and the time that a message gave where one did (the model's reading, log entry 28); the master stays locked;
without an arm and an automatic exponent the active half stays as it was; an arm for a later edge stays armed; OVERRUN and BEHIND tell how many
earlier bells have unfinished step work. With no array reading and no wrong or poisoned memory (R245, R269, R271, R278, R280, R281): the halves
swap at the target edge of an arm, or at the next one for an arm that landed late, which is then counted and said in the report, while a half
that fails a check does not come into force; the report of the bell before closes with its overrun decided; the replay of the new bell starts
with its program's place and length, past CATCHUP_START where an earlier bell's step work is unfinished, behind what is posted. -/
def Obligations.BellEdgeAdvances : Prop :=
  ∀ (s : State) (host : HostView) (n at_ : Nat), live s = true → bellOn s = true → s.bell.next = some (n, at_) → n < 2 ^ 64 →
    (flag s (bellReg bellBellCtrl) 30 = false ∨ isMaster s = true ∨ s.bell.placed = true) →
    Leads (.bellEdge host {}) s (fun t =>
      bellNum t = n ∧ t.bell.lastEdge = some (n, at_) ∧ t.bell.placed = false ∧ t.bell.timely = false ∧ t.bell.period = none ∧
      t.bell.anchor = none ∧ s.now ≤ t.now ∧
      t.bell.next = some (n + 1, s.bell.anchor.getD at_ + s.bell.period.getD (periodUs t.activeHalf) * clocksPerUs) ∧
      (isMaster s = true → flag t (bellReg bellBellStatus) 31 = true ∧ t.bell.misses = 0) ∧
      (s.bell.armed = none → (∀ e, (scaleEntry s.activeHalf e).auto = false) → t.activeHalf = s.activeHalf) ∧
      (∀ target lateArm, s.bell.armed = some (target, lateArm) → n < target → t.bell.armed = s.bell.armed) ∧
      flag t (bellReg bellBellStatus) 26 = (behindOf t != 0) ∧ fld t (bellReg bellBellStatus) 2 0 = min 4 (behindOf t) ∧
      (s.flaws = [] → s.poison = [] → (∀ c < 64, (coreAt s c).loading = none ∧ (coreAt s c).pass = none) → (∀ r ∈ s.reports, r.closed = false) →
        (∀ target lateArm, s.bell.armed = some (target, lateArm) → target ≤ n → flag s (bellReg bellBellStatus) 27 = false →
          (swapFault s.pendingHalf = none → (∀ e, (scaleEntry s.pendingHalf e).auto = false) →
            t.activeHalf = putSetting s.pendingHalf halfFabId (rd s (fabReg fabFabId)) ∧ t.pendingHalf = s.activeHalf ∧ t.bell.armed = none ∧
            flag t (bellReg bellBellStatus) 27 = true ∧
            (lateArm = true → flag t (bellReg bellBellStatus) 25 = true ∧
              rd t (bellReg bellLateArms) = satAdd (rd s (bellReg bellLateArms)) 1 ∧
              ∃ r ∈ t.reports, r.bell = n ∧ r.swapLate = true ∧ (⟨9, 1, 0, target⟩ : RepEvent) ∈ r.events)) ∧
          (∀ o, swapFault s.pendingHalf = some o → (∀ e, (scaleEntry s.activeHalf e).auto = false) →
            t.activeHalf = s.activeHalf ∧ t.pendingHalf = s.pendingHalf ∧ t.bell.armed = none ∧ flag t (bellReg bellBellStatus) 24 = true ∧
            rd t (intReg errErrCause + 4 * 6) = satAdd (rd s (intReg errErrCause + 4 * 6)) 1)) ∧
        (s.bell.lastEdge.isSome = true → (reportDest s).isSome = true →
          ∃ r ∈ t.reports, r.bell = bellNum s ∧ r.closed = true ∧ r.overrun = bellUnfinished s (bellNum s)) ∧
        (∀ r, stepRing s = some r → stateOfRing s r = 1 → s.bell.armed = none → (∀ e, (scaleEntry s.activeHalf e).auto = false) →
          (∀ p ∈ s.replays, stepDone s p = true ∨ n < p.bell + 4) →
          let late := s.replays.any (fun p => !stepDone s p && decide (p.bell < n))
          let w := setting s.activeHalf setStepCount
          ∃ p ∈ t.replays, p.bell = n ∧ p.catchup = late ∧ p.next = (if late then bits w 26 16 else 0) ∧ p.count = min 1024 (bits w 10 0) ∧
            p.base = setting64 s.activeHalf setStepProgLo ∧
            p.ahead = (sqTail s r + ringSlots s r - sqHead s r) % ringSlots s r)))

/-- BELL_MESSAGE_SEND and BELL_MESSAGE_RECEIVE (R261, R262, R263): the master names its next edge once, LEAD µs ahead: on each branch of the tree
that a port serves a packet waits there whose message names the edge, the picoseconds that remain to it and its period, and nothing else
leaves; a module that is not the
master and waits for its first message places its next edge from the bell and the remaining time that the message gives, less the measured delay of the
link it arrived on (the model's reading, log entry 28), and is locked.
BELL_IN_FALL and BELL_OUT_RELEASE (R266): with SRC = 1 a falling edge places the next edge BELL_IN_DELAY later and LAST_CORR tells by how
much it moved; BELL_OUT is released once. -/
def Obligations.BellMessagesAndPins : Prop :=
  (∀ s : State, live s = true → bellOn s = true →
    (∀ n at_, isMaster s = true → s.bell.timely = false → s.bell.next = some (n, at_) → s.ports.length = 8 → Leads .bellMessageSend s (fun t =>
      let u := advanceTo s (at_ - leadClocks s)
      let m : BellMsg := { hops := 0, bell := n, remain := ((at_ - u.now) * 10000 / 17 : Nat), period := announcedPeriod s n, master := ownXyz s,
                           site := ownSite s }
      let pkt (q : Coord) : Packet := message u 0x31 q 0 m.bytes
      u.now = max s.now (at_ - leadClocks s) ∧ t.bell = { s.bell with timely := true } ∧ bellNum t = bellNum s ∧
      (∀ q ∈ treeNext s (ownXyz s), ∀ x < 8, ∀ cls, routeOf u (pkt q) none 0 = .port x cls → ∃ e ∈ (portAt t x).txq, e.pkt = pkt q ∧ e.cls = cls) ∧
      (∀ x < 8, ∀ e ∈ (portAt t x).txq, e ∈ (portAt u x).txq ∨ ∃ q ∈ treeNext s (ownXyz s), e.pkt = pkt q) ∧
      (treeNext s (ownXyz s) = [] → t = { u with bell := t.bell }) ∧
      t = { u with bell := t.bell, ports := t.ports, routed := t.routed, regs := t.regs, inbox := t.inbox })) ∧
    (∀ (i : InPkt) (m : BellMsg), isMaster s = false → s.bell.next = none → nextOf s 0x31 (fun _ => true) = some i →
      BellMsg.ofBytes i.pkt.data = some m →
      let te := ((i.at_ : Int) + psToClocks (remainHere s i m)).toNat
      s.now < te → Leads .bellMessageReceive s (fun t =>
        t.bell.next = some (m.bell, te) ∧ t.bell.timely = true ∧ t.bell.period = some m.period ∧
        flag t (bellReg bellBellStatus) 31 = true ∧ flag t (bellReg bellBellStatus) 30 = false ∧ t.mem = s.mem ∧ bellNum t = bellNum s))) ∧
  (∀ s : State, live s = true →
    (∀ n at_, bellOn s = true → flag s (bellReg bellBellCtrl) 30 = true → isMaster s = false → s.bell.next = some (n, at_) →
      let u := s.now + (fld s (bellReg bellBellInDelay) 15 0 * 17 + 5) / 10
      Leads .bellInFall s (fun t => t.bell = { s.bell with next := some (n, u), placed := true } ∧
        rd t (bellReg bellLastCorr) = unsigned 32 (((u : Int) - at_) * 10000 / 17) ∧
        (∀ k, k ≠ bellReg bellLastCorr → rd t k = rd s k) ∧ t = { s with regs := t.regs, bell := t.bell })) ∧
    (s.bell.outLow = true →
      exec .bellOutRelease s = .next { s with bell := { s.bell with outLow := false }, out := s.out ++ [.bellOut false] }))

/-- STEP_REPORT_WRITE (R248 to R250): the closed report is dropped once it is written. Where its edge decided that none is due, nothing else
changes. Where the slot that its edge decided on lies in device memory of a stack that trained, and the sections fit, the header's 64 bytes
stand at the slot of its bell; a slot that is not released is counted in RPT_OVERWRITE and flagged in the header. -/
def Obligations.StepReportWritten : Prop :=
  ∀ (s : State) (r : Report), live s = true → s.reports.find? (·.closed) = some r →
    Leads .stepReportWrite s (fun t => t.reports = s.reports.filter (fun x => !x.closed) ∧
      (r.dest = none → t = { s with reports := t.reports }) ∧
      (∀ d, r.dest = some d → d.ring < 64 → s.flaws = [] →
        let k := bits d.cfg 11 8
        let size := 2 ^ bits d.cfg 4 0
        let a := reportSlot d.cfg d.base r.bell
        let ts := reportTensors s r.bell
        let roll := rollEntry s r.bell
        let body := ts.flatMap (tensorEntry s r.bell) ++ roll ++ r.events.flatMap RepEvent.bytes
        let late := (ringAt s d.ring).unread.contains a
        a % 64 = 0 → isMemory a = true → deadStack s a = false → 64 + body.length ≤ size →
        readMem t.mem a 64 = reportHeader r k d.job ts.length (b2n (!roll.isEmpty)) (64 + body.length) false late ∧
        (late = true → rd t (ringReg d.ring ringRptOverwrite) = satAdd (rd s (ringReg d.ring ringRptOverwrite)) 1)))

/-- CURFEW (R276, R402, R521): it falls on the bell of the last edge, also where the bell has stopped since; the clocks up to BELL_PERIOD −
CURFEW.OFFSET after that edge pass first; of each instance a part not yet handed over, and not waiting for an audit, is excluded, each counted
in OWN_EXCLUDED; the bell's cases still open close; once it has fallen nothing more changes, and of another bell nothing does. BUCKET_READY by
the host (R396, R402, R506): of a slot that is refused, or with a reserved bit set, nothing changes but READY_ERR; while an audit of the bell
is pending the handover waits; otherwise an instance whose own part is awaited takes it in, counted in OWN_INCLUDED. -/
def Obligations.CurfewAndHandover : Prop :=
  (∀ (s : State) (n : Nat), live s = true →
    ((∀ e, s.bell.begun ≠ some (n, e)) → exec (.curfew n) s = .next s) ∧
    (∀ e, s.bell.begun = some (n, e) →
      let u := advanceTo s (e + curfewClocks s n)
      u.now = max s.now (e + curfewClocks s n) ∧
      (u.fallen.contains n = true → exec (.curfew n) s = .next u) ∧
      (u.fallen.contains n = false → Leads (.curfew n) s (fun t =>
        n ∈ t.fallen ∧ (∀ i ∈ t.instances, i.bell = n → (i.bucket, n) ∉ u.handWait → i.own ≠ .waiting) ∧
        ((∀ c ∈ u.integrity.cases, c.bell = n → c.open_ = false) →
          rd t (redReg redOwnExcluded) = satAdd (rd u (redReg redOwnExcluded))
            (u.instances.filter (fun i => i.bell == n && i.own == .waiting && !u.handWait.contains (i.bucket, n))).length ∧
          t.mem = u.mem ∧ t.now = u.now) ∧
        (∀ c, u.integrity.cases = [c] → c.bell = n → ∀ d ∈ t.integrity.cases, d.open_ = false))))) ∧
  (∀ (s : State) (slot : Slot) (u : CoreUnit) (host : HostView) (b : Nat), Reaches s .host → b < 2 ^ 32 →
    let n := bellNum s
    (4096 ≤ b ∨ bucketCount (settingsOf s n) ≤ b → Leads (.bucketReady .host slot u b {} host) s (fun t =>
      rd t (redReg redReadyErr) = satAdd (rd s (redReg redReadyErr)) 1 ∧ (∀ k, k ≠ redReg redReadyErr → rd t k = rd s k) ∧
      t = { s with regs := t.regs })) ∧
    (∀ i, b < bucketCount (settingsOf s n) → instanceOf s n b = some i → i.handed = false → s.handWait.contains (b, n) = false →
      (auditPending s n = true → Leads (.bucketReady .host slot u b {} host) s (fun t =>
        t = { s with handWait := s.handWait ++ [(b, n)] })) ∧
      (∀ bk, auditPending s n = false → bucketOf s n b = some bk → bk.valid = true → i.own = .waiting → s.flaws = [] →
        (∀ c ∈ s.integrity.cases, c.open_ = true → c.cause ≠ 5) →
        Leads (.bucketReady .host slot u b {} host) s (fun t =>
          (∃ j, instanceOf t n b = some j ∧ j.handed = true ∧ j.own = .included) ∧
          rd t (redReg redOwnIncluded) = satAdd (rd s (redReg redOwnIncluded)) 1 ∧ t.mem = s.mem ∧ t.poison = s.poison))))

/-! ### Step replays, the pool and shards -/

/-- DESC_START of the step program and of the witness's (R228, R237, R245, R307): in a replay without pool records that has passed its gate the
descriptor at its next index starts, in flight under its bell and index, and the replay moves on; an invalid one ends the replay's start of
more. A step replay starts only once what was posted before its edge has started. POOL_WAIT_ADMIT (R310): a waiting record whose PUT
descriptor is next, while the step ring runs, becomes LIVE once no live record overlaps it, and is counted in POOL_ADMIT. -/
def Obligations.ReplayStartsAndPool : Prop :=
  (∀ (s : State) (p : Replay) (host : HostView) (x : List Byte), live s = true → s.flaws = [] → p.records = [] → p.inflight = [] →
    p.subst = [] → p.skipAt = false → p.stopped = false → p.next < p.count → readDesc s host (p.base + 64 * p.next) = some x →
    (∀ r, stepRing s = some r → stateOfRing s r = 1 → s.replays = [p] →
      (p.ahead ≠ 0 → exec (.descStart .step host {}) s = .next s) ∧
      (p.ahead = 0 → (∀ d ∈ (ringAt s r).inflight, d.progress = .ended) → gateHolds s p = false → gateEnds s p = false →
        runBlocked s .step x = false → Leads (.descStart .step host {}) s (fun t =>
          ∃ q, t.replays = [q] ∧ q.next = p.next + 1 ∧
            (if descValid s .step x then q.stopped = false ∧ ∃ d, q.inflight = [d] ∧ d.index = p.next ∧ d.bytes = x ∧ d.op = leAt x 1 1 ∧ d.progress = .started
             else q.stopped = true ∧ q.inflight = [] ∧ q.failed = p.failed + 1)))) ∧
    (s.witness = some p → runBlocked s .replay x = false → descValid s .replay x = true →
      (∀ q ∈ s.replays, stepDone s q = true → q.ended = true) → Leads (.descStart .replay host {}) s (fun t =>
        (∃ q, t.witness = some q ∧ q.next = p.next + 1 ∧ ∃ d, q.inflight = [d] ∧ d.index = p.next ∧ d.bytes = x ∧ d.progress = .started) ∧
        t = { s with witness := t.witness, regs := t.regs, started := s.started + 1 }))) ∧
  (∀ (s : State) (p : Replay) (r : PoolRec), live s = true → stepRuns s = true → s.replays = [p] → p.records = [r] → p.allStarted = false →
    r.put = p.next → r.waited = true → r.state = .waiting → s.witness = none →
    Leads .poolWaitAdmit s (fun t =>
      t.replays = [{ p with records := [{ r with state := .live }] }] ∧
      rd t (glbReg glbPoolAdmit) = satAdd (rd s (glbReg glbPoolAdmit)) 1 ∧ (∀ k, k ≠ glbReg glbPoolAdmit → rd t k = rd s k) ∧
      t = { s with replays := t.replays, regs := t.regs }))

/-- FLIP, MARK and REVERT by the host (R327 to R329, R335, R339, R340): on an entry whose header is good and in its region a FLIP turns ACTIVE,
clears UNDONE, takes the bell of the work as FLIP_BELL (the present one, on a mirror that of its request), advances SEQ and counts in FLIPS;
a mirror's refused request is counted in BARN_MISMATCH and nothing is flipped (that the module judges it at the FLIP is the model's choice, log
entry 52); a MARK enters the watch, and a full watch counts it in BARN_WATCH_FULL instead; a REVERT of a mirror whose FLIP_BELL is the one
asked for and that is not undone turns ACTIVE and sets UNDONE; an entry beyond the directory is counted in PORT_ERR. Each over memory without
stored errors. -/
def Obligations.CommitPort : Prop :=
  ∀ (s : State) (slot : Slot) (u : CoreUnit) (i : Nat), Reaches s .host → i < 16384 →
    let h := shardAt s (dirEntry s i)
    let n := portBell s (bellNum s) h
    let good : Prop := i < dirCount s ∧ headerInRegion s h = true ∧ headerGood h = true ∧ s.flaws = []
    let counts (t : State) (k : Nat) : Prop := rd t k = satAdd (rd s k) 1 ∧ (∀ j, j ≠ k → rd t j = rd s j) ∧ t = { s with regs := t.regs }
    let landed (t : State) (active undone : Bool) (flipBell : Nat) : Prop :=
      Stored s t h.at_ (leBytes 8 (b2n active * 2 ^ 63 + b2n undone * 2 ^ 62 + flipBell % 2 ^ 48) ++
        leBytes 8 ((h.seq + 1) % 65536 * 2 ^ 48 + bellNum s % 2 ^ 48))
    (dirCount s ≤ i → ∀ op, op = Instr.flip .host slot u i ∨ op = Instr.mark .host slot u i ∨ op = Instr.revert .host slot u i →
      Leads op s (fun t => counts t (glbReg glbPortErr))) ∧
    (good → requestRefused s h = true → Leads (.flip .host slot u i) s (fun t => counts t (glbReg glbBarnMismatch))) ∧
    (good → s.watch.length < 256 → Leads (.mark .host slot u i) s (fun t =>
      (∃ w ∈ t.watch, w.index = i ∧ w.bell = n) ∧ t = { s with watch := t.watch })) ∧
    (good → 256 ≤ s.watch.length → Leads (.mark .host slot u i) s (fun t => counts t (glbReg glbBarnWatchFull))) ∧
    (good → deadStack s h.at_ = false →
      (requestRefused s h = false → s.integrity.updateFault.contains n = false → auditPending s n = false → Leads (.flip .host slot u i) s (fun t =>
        landed t (!h.active) false n ∧ rd t (glbReg glbFlips) = satAdd (rd s (glbReg glbFlips)) 1 ∧ (∀ w ∈ t.watch, w.index ≠ i) ∧
        (i, n % 2 ^ 48, bellNum s % 2 ^ 48) ∈ t.market.flips ∧
        t = { s with mem := t.mem, poison := t.poison, regs := t.regs, diffs := t.diffs, watch := t.watch,
                     market := { s.market with flips := t.market.flips } })) ∧
      (h.mirror = true → h.flipBell = reqBell s h → h.undone = false → Leads (.revert .host slot u i) s (fun t =>
        landed t (!h.active) true h.flipBell ∧ rd t (glbReg glbUndos) = satAdd (rd s (glbReg glbUndos)) 1 ∧
        (∀ f ∈ t.market.flips, f.1 = i → f.2.1 ≠ h.flipBell) ∧
        t = { s with mem := t.mem, poison := t.poison, regs := t.regs, diffs := t.diffs, market := { s.market with flips := t.market.flips } })))

/-- UNDO_GO and UNDO_WALK_END (R335, R336): GO while no walk is busy sets BUSY and puts event 0x000A into the report of the present bell; over
an empty directory no byte changes; over a directory of different headers apart from it, each header of UNDO_BELL's bell that is not undone and
landed in this bell gets ACTIVE turned, UNDONE set, the next SEQ and this LAND_BELL, counted in UNDOS, each other one of that bell is counted in
UNDO_REFUSED, and no other byte changes; GO while BUSY is counted in UNDO_REFUSED alone; the end of the walk clears BUSY. DIFF_RECORD_WRITE
(R343, R344): where the record fits below DS_RPTR without a wrap, its header is written after its payload and DS_WPTR moves past it; where
it does not fit it waits, counted once in DS_STALL; where it does not fit before the end of the buffer, a PAD record is written by itself as
soon as the space allows that, the record waiting on (the model's reading, log entry 33), and the writer goes on at offset 0. -/
def Obligations.UndoWalkAndDifferences : Prop :=
  (∀ (s : State) (who : Requester), Reaches s who →
    (flag s (glbReg glbUndoCtrl) 30 = false → dirCount s = 0 → Leads (.undoGo who) s (fun t =>
      flag t (glbReg glbUndoCtrl) 30 = true ∧ (∀ k, k ≠ glbReg glbUndoCtrl → rd t k = rd s k) ∧
      (∃ r ∈ t.reports, (⟨0xA, 0, 0, rd64 s (glbReg glbUndoBellLo) % 2 ^ 48⟩ : RepEvent) ∈ r.events) ∧
      t = { s with regs := t.regs, reports := t.reports })) ∧
    (let n := rd64 s (glbReg glbUndoBellLo) % 2 ^ 48
     let k := dirCount s
     let entry (i : Nat) : Shard := shardAt s (dirEntry s i)
     let named (i : Nat) : Bool := headerInRegion s (entry i) && (entry i).flipBell == n
     let turned (i : Nat) : Bool := named i && !(entry i).undone && (entry i).landBell == bellNum s % 2 ^ 48
     flag s (glbReg glbUndoCtrl) 30 = false → s.flaws = [] → (∀ m < 8, flag s (mcReg m mcMcStatus) 1 = false) →
     (∀ i < k, ∀ j < k, i ≠ j → named i = true → named j = true → dirEntry s i ≠ dirEntry s j) →
     (∀ i < k, named i = true → dirEntry s i + 64 ≤ entryAt s 0 ∨ entryAt s k ≤ dirEntry s i) → Leads (.undoGo who) s (fun t =>
      flag t (glbReg glbUndoCtrl) 30 = true ∧
      rd t (glbReg glbUndos) = satAdd (rd s (glbReg glbUndos)) ((List.range k).filter turned).length ∧
      rd t (glbReg glbUndoRefused) = satAdd (rd s (glbReg glbUndoRefused)) ((List.range k).filter (fun i => named i && !turned i)).length ∧
      (∀ i < k, turned i = true → readMem t.mem (dirEntry s i) 16 =
        leBytes 8 (b2n (!(entry i).active) * 2 ^ 63 + 2 ^ 62 + n) ++ leBytes 8 (((entry i).seq + 1) % 65536 * 2 ^ 48 + bellNum s % 2 ^ 48)) ∧
      (∀ x, (∀ i < k, turned i = true → x < dirEntry s i ∨ dirEntry s i + 16 ≤ x) → readByte t.mem x = readByte s.mem x) ∧
      t = { s with mem := t.mem, poison := t.poison, regs := t.regs, reports := t.reports, diffs := t.diffs, market := t.market })) ∧
    (flag s (glbReg glbUndoCtrl) 30 = true → Leads (.undoGo who) s (fun t =>
      rd t (glbReg glbUndoRefused) = satAdd (rd s (glbReg glbUndoRefused)) 1 ∧ (∀ k, k ≠ glbReg glbUndoRefused → rd t k = rd s k) ∧
      t = { s with regs := t.regs })) ∧
    Leads .undoWalkEnd s (fun t => flag t (glbReg glbUndoCtrl) 30 = false ∧ (∀ k, k ≠ glbReg glbUndoCtrl → rd t k = rd s k) ∧
      t = { s with regs := t.regs })) ∧
  (∀ (s : State) (d : DiffRec) (rest : List DiffRec) (base size : Nat), live s = true → s.diffs = d :: rest → diffRegion s = some (base, size) →
    let h := shardAt s d.header
    let parts := diffParts h
    let len := 1 + parts.length * (payloadBytes h.words / 64)
    let wp := rd s (glbReg glbDsWptr)
    let rp := rd s (glbReg glbDsRptr)
    let sound : Prop := base % 64 = 0 ∧ base + 64 * size ≤ hbmTop ∧ (∀ m < 8, flag s (mcReg m mcMcStatus) 1 = false) ∧ size < 2 ^ 32 ∧ s.flaws = []
    let waits (t : State) : Prop := t.diffs = { d with stalled := true } :: rest ∧ rd t (glbReg glbDsStall) = satAdd (rd s (glbReg glbDsStall)) 1
    (wp + len ≤ size → len < diffRoom s size → sound →
      Leads .diffRecordWrite s (fun t =>
        t.diffs = rest ∧ rd t (glbReg glbDsWptr) = (wp + len) % size ∧
        readMem t.mem (base + 64 * wp) 64 = diffHeader d.type ((parts.map (fun p => 2 ^ p.1)).sum) d.seq h.id d.flipBell d.landBell h.words len
          (crc32c (parts.flatMap (fun p => (diffPayload s h p.2 0).map (·.2.1)))) ∧
        (∀ x, (x < base + 64 * wp ∨ base + 64 * (wp + len) ≤ x) → readByte t.mem x = readByte s.mem x) ∧
        t = { s with mem := t.mem, poison := t.poison, regs := t.regs, diffs := t.diffs })) ∧
    (wp + len ≤ size → diffRoom s size ≤ len → d.stalled = false → s.flaws = [] → Leads .diffRecordWrite s (fun t =>
      waits t ∧ t = { s with regs := t.regs, diffs := t.diffs })) ∧
    (wp < size → size < wp + len → size - wp < diffRoom s size → rp < size → rp ≤ len → d.stalled = false → rp ≠ 0 → sound →
      Leads .diffRecordWrite s (fun t =>
        waits t ∧ rd t (glbReg glbDsWptr) = 0 ∧ Stored s t (base + 64 * wp) (diffHeader 0 0 0 0 0 0 0 (size - wp) 0) ∧
        t = { s with mem := t.mem, poison := t.poison, regs := t.regs, diffs := t.diffs })))

/-! ### Ports -/

/-- PORT_ENABLE, PORT_DISABLE and PORT_RETRAIN of a Mopin port (R347, R348, R353, R354, R372, R373, R584): enabling takes PORT_CTRL as written
and enters DETECT, or FAILED with code 0x11 where the torus is outside the limits; the third port of one direction stays disabled and the write
is counted with cause 0x05; disabling enters DISABLED and empties the link: every packet queued or unacknowledged is dropped and counted in
DROPPED and UNROUTABLE, and a request of this module among them that expects a response gets it with TIMEOUT; RETRAIN takes an active port to
RETRAIN, counted, and a failed one to DETECT. -/
def Obligations.PortControl : Prop :=
  ∀ (s : State) (who : Requester) (p v : Nat), Reaches s who → p < 8 → s.ports.length = 8 → v < 2 ^ 32 → v &&& 0x30FFFFFF = 0 → bits v 27 25 ≠ 7 →
    bit v 30 = false →
    (bit v 31 = true → portEnabled s p = false → isMopin s p = true → sameDirection s p (bits v 27 25) < 2 →
      (torusBad s = false → Leads (.portEnable who p v) s (fun t =>
        rd t (portReg p portPortCtrl) = v ∧ portState t p = 1 ∧ fld t (portReg p portPortStatus) 23 16 = 0 ∧ (portAt t p).tries = 0 ∧
        (∀ k, k ≠ portReg p portPortCtrl → k ≠ portReg p portPortStatus → rd t k = rd s k) ∧ t = { s with regs := t.regs, ports := t.ports })) ∧
      (torusBad s = true → Leads (.portEnable who p v) s (fun t => portState t p = 7 ∧ fld t (portReg p portPortStatus) 23 16 = 0x11 ∧
        t.torusCounted = true ∧ (portAt t p).inService = false))) ∧
    (bit v 31 = true → portEnabled s p = false → bits v 27 25 ≠ 0 → 2 ≤ sameDirection s p (bits v 27 25) → Leads (.portEnable who p v) s (fun t =>
      rd t (portReg p portPortCtrl) = v - 2 ^ 31 ∧ portAt t p = portAt s p ∧
      ∃ w, Counted s w 5 (sourceOf who) (portReg p portPortCtrl) ∧ (∀ k, k ≠ portReg p portPortCtrl → rd t k = rd w k) ∧ t = { w with regs := t.regs })) ∧
    (∀ w, w < 2 ^ 32 → w &&& 0x00FFFFFF = 0 → bits w 29 28 = 1 ∨ bits w 29 28 = 2 → bits w 27 25 ≠ 7 → bit w 30 = false → bit w 31 = true →
      portEnabled s p = false → Leads (.portEnable who p w) s (fun t =>
        rd t (portReg p portPortCtrl) = w ∧ (∀ k, k ≠ portReg p portPortCtrl → rd t k = rd s k) ∧ t = { s with regs := t.regs })) ∧
    (bit v 31 = false → portEnabled s p = true → isMopin s p = true → (portAt s p).retry = [] → (portAt s p).txq = [] →
      Leads (.portDisable who p v) s (fun t =>
        rd t (portReg p portPortCtrl) = v ∧ portState t p = 0 ∧ portAt t p = {} ∧ (∀ q < 8, q ≠ p → portAt t q = portAt s q))) ∧
    (let lost : List Packet := (portAt s p).retry.map (·.2.pkt) ++ (portAt s p).txq.map (·.pkt)
     bit v 31 = false → portEnabled s p = true → isMopin s p = true → (∀ u ∈ (portAt s p).txq, u.core = none ∧ u.input = 8) →
      (∀ k ∈ lost, k.src = ownXyz s) → Leads (.portDisable who p v) s (fun t =>
        rd t (portReg p portPortCtrl) = v ∧ portState t p = 0 ∧ portAt t p = {} ∧ (∀ q < 8, q ≠ p → portAt t q = portAt s q) ∧
        rd t (portReg p portDropped) = satAdd (rd s (portReg p portDropped)) lost.length ∧
        rd t (fabReg fabUnroutable) = satAdd (rd s (fabReg fabUnroutable)) lost.length ∧
        t.inbox.map (·.pkt) = s.inbox.map (·.pkt) ++
          lost.filterMap (fun k => (responseType k).map (fun ty => barePacket ty (ownXyz s) (ownXyz s) k.tag 0x0D)) ∧
        t = { s with regs := t.regs, ports := t.ports, inbox := t.inbox, out := t.out })) ∧
    (portEnabled s p = true → isMopin s p = true →
      (portState s p = 5 → Leads (.portRetrain who p) s (fun t =>
        portState t p = 6 ∧ portEnabled t p = true ∧ flag t (portReg p portEvent) 30 = true ∧
        rd t (portReg p portRetrainCount) = satAdd (rd s (portReg p portRetrainCount)) 1 ∧ (portAt t p).retry = (portAt s p).retry ∧
        (portAt t p).inService = (portAt s p).inService)) ∧
      (portState s p = 7 → torusBad s = false → Leads (.portRetrain who p) s (fun t => portState t p = 1 ∧ (portAt t p).tries = 0)))

/-- SIGNAL_DETECT, EQUALISE_DONE, TRAINING_BLOCK_RECEIVE, CALIBRATE_DONE, TRAIN_ATTEMPT_TIMEOUT and LANE_SIGNAL_LOSS of a Mopin port (R353 to
R359, R365, R585): each moves the port along the states of Table 12.2, from RETRAIN to EQUALISE too, whatever the lanes (the model's choice, log
entry 51); at the end of EQUALISE the port sends its training block, once (log entry 34); a block with a wrong CRC-32C changes nothing, and one
is taken when a lane brings it for the second time: that of the expected neighbour sets NBR_ID and the width, one of another fails the port
with code 0x11 and is answered with REFUSE, and one with REFUSE fails the port with 0x11, in CALIBRATE too; the median of sixteen probes, the
mean of the middle two (log entry 34), gives LINK_DELAY; a time-out is an attempt more, after which the port is in DETECT again (log entry 34),
the last of which fails the port with 0x0D. -/
def Obligations.PortTraining : Prop :=
  ∀ (s : State) (p : Nat), live s = true → p < 8 → s.ports.length = 8 → isMopin s p = true →
    let q := portAt s p
    let others (t : State) : Prop := ∀ k, k ≠ portReg p portPortStatus → rd t k = rd s k
    (∀ lanes, (portState s p = 1 ∧ 4 ≤ ((List.range 8).filter (bit lanes)).length) ∨ portState s p = 6 → Leads (.signalDetect p lanes) s (fun t =>
      portState t p = 2 ∧ others t ∧ t = { s with regs := t.regs })) ∧
    (∀ lanes < 256, portState s p = 2 → Leads (.equaliseDone p lanes) s (fun t =>
      portState t p = 3 ∧ others t ∧ portAt t p = { q with lanesOk := lanes, heard := List.replicate 8 [] } ∧
      t.out = s.out ++ [.trainingBlock p lanes (trainBytes (ownBlock t p false))] ∧
      t = { s with regs := t.regs, ports := t.ports, out := t.out })) ∧
    (∀ (lane : Nat) (bs : List Byte), portState s p = 3 → lane < 8 → bs.length = 32 →
      let b := trainOf bs
      (trainGood bs = false → exec (.trainingBlockReceive p bs lane) s = .next s) ∧
      (trainGood bs = true → q.heard.getD lane [] ≠ bs → Leads (.trainingBlockReceive p bs lane) s (fun t =>
        portAt t p = { q with heard := q.heard.set lane bs } ∧ t = { s with ports := t.ports })) ∧
      (trainGood bs = true → q.heard.getD lane [] = bs → b.refuse = false → b.verMin ≤ 1 → 1 ≤ b.verMax →
        (expected s p b = true → torusFits s p b = true → q.lanesOk &&& b.lanes = 255 → Leads (.trainingBlockReceive p bs lane) s (fun t =>
          portState t p = 4 ∧ fld t (portReg p portPortStatus) 27 24 = 8 ∧ fld t (portReg p portPortStatus) 15 8 = 255 ∧
          fld t (portReg p portNbrId) 23 0 = coordBits b.xyz ∧ fld t (portReg p portNbrId) 26 24 = b.port ∧
          rd64 t (portReg p portNbrSerLo) = b.serial ∧ t = { s with regs := t.regs })) ∧
        ((expected s p b = false ∨ torusFits s p b = false) → Leads (.trainingBlockReceive p bs lane) s (fun t =>
          portState t p = 7 ∧ fld t (portReg p portPortStatus) 23 16 = 0x11 ∧ flag t (portReg p portEvent) 28 = true ∧
          .trainingBlock p q.lanesOk (trainBytes (ownBlock s p true)) ∈ t.out)))) ∧
    (∀ (lane : Nat) (bs : List Byte), portState s p = 3 ∨ portState s p = 4 → lane < 8 → bs.length = 32 → trainGood bs = true →
      q.heard.getD lane [] = bs → (trainOf bs).refuse = true → Leads (.trainingBlockReceive p bs lane) s (fun t =>
        portState t p = 7 ∧ fld t (portReg p portPortStatus) 23 16 = 0x11 ∧ flag t (portReg p portEvent) 28 = true ∧
        fld t (portReg p portNbrId) 23 0 = coordBits (trainOf bs).xyz ∧ (portAt t p).inService = false)) ∧
    (∀ probes, probes.length = 16 → portState s p = 4 → Leads (.calibrateDone p probes) s (fun t =>
      portState t p = 5 ∧ (portAt t p).inService = true ∧ flag t (portReg p portEvent) 31 = true ∧
      rd t (portReg p portLinkDelay) = (medianOf probes / 2 + rd s (portReg p portDelayTrim)) % 2 ^ 32 ∧
      t = { s with regs := t.regs, ports := t.ports, out := t.out })) ∧
    (portState s p = 2 ∨ portState s p = 3 ∨ portState s p = 4 ∨ portState s p = 6 →
      let last := atLeastOne (fld s (portReg p portRetrainCfg) 23 16)
      (q.tries + 1 < last → Leads (.trainAttemptTimeout p) s (fun t =>
        portState t p = 1 ∧ (portAt t p).tries = q.tries + 1 ∧ others t ∧ t = { s with regs := t.regs, ports := t.ports })) ∧
      (last ≤ q.tries + 1 → Leads (.trainAttemptTimeout p) s (fun t =>
        portState t p = 7 ∧ fld t (portReg p portPortStatus) 23 16 = 0x0D))) ∧
    (∀ lane < 8, portState s p = 5 → Leads (.laneSignalLoss p lane) s (fun t =>
      portState t p = 6 ∧ rd t (portReg p portRetrainCount) = satAdd (rd s (portReg p portRetrainCount)) 1 ∧
      flag t (portReg p portEvent) 30 = true ∧ t = { s with regs := t.regs, ports := t.ports, out := t.out }))

/-- CODEWORD_PAIR_RECEIVE, DATA_FLIT_RECEIVE, IDLE_FLIT_RECEIVE, NAK_FLIT_RECEIVE, NAK_HOLDOFF_TIMER and RESEND_TIMEOUT of an active Mopin port
(R350, R361, R363 to R365, R367): a codeword of up to 15 wrong symbols is corrected, and one of more is uncorrectable always (the model's choice,
log entry 35); an uncorrectable pair is counted, asks for a NAK and has its five flits discarded as they come, too many of them within a
millisecond retrain the port; a good flit gives its ACK and credits; a DATA flit of the expected SEQ brings its packet
in and advances the expected SEQ, any other asks for one NAK, which stays owed until it is sent, also where the flit comes first (log entry
35); a flit of a reserved FTYPE is discarded and counted, its buffer free at once; a flit that fails its CRC is counted and asks for a NAK; a
NAK or the time-out resends all that is unacknowledged, counted in RETRY. FLIT_TRANSMIT of an active Mopin port that owes no credits (R360 to
R364, R367 to R369): a due NAK is sent; else the oldest flit to be resent; else the one waiting packet, where its credit is held and its flow
allows it, goes out with the next SEQ and is kept for a resend; else an IDLE flit. Every flit carries the last SEQ received as its ACK; the
fifth of a pair completes it, and its two codewords go out on the lanes in use (R350, its details log entry 54). -/
def Obligations.FlitsReceivedAndSent : Prop :=
  (∀ (s : State) (p : Nat) (bs : List Byte) (crc : Nat), live s = true → p < 8 → s.ports.length = 8 → flowing s p = true → bs.length = 252 →
    let q := portAt s p
    let f := flitOf bs
    let heard_ : Port := { takeAck f.ack q with credits := modAt (takeAck f.ack q).credits f.crVc (· + f.crCount) }
    let asks (q : Port) : Port := if q.nakSent then q else { q with nakSent := true, nakDue := true }
    let onlyPort (t : State) (r : Port) : Prop := portAt t p = r ∧ (∀ x < 8, x ≠ p → portAt t x = portAt s x)
    (∀ pairs lanes wrong, (∀ i ∈ wrong, i < 1088) →
      let corrected := b2n (codewordCorrected wrong 0) + b2n (codewordCorrected wrong 1)
      let recent := lastMs s q.uncorr ++ [s.now]
      (codewordLost wrong 0 = false → codewordLost wrong 1 = false → Leads (.codewordPairReceive p pairs lanes wrong) s (fun t =>
        rd t (portReg p portFecCorr) = satAdd (rd s (portReg p portFecCorr)) corrected ∧
        (∀ k, k ≠ portReg p portFecCorr → rd t k = rd s k) ∧ onlyPort t { q with pairRx := pairs, echoRx := lanes, discard := 0 } ∧
        t = { s with regs := t.regs, ports := t.ports })) ∧
      (codewordLost wrong 0 = true ∨ codewordLost wrong 1 = true →
        (recent.length ≤ fld s (portReg p portRetrainCfg) 31 24 → Leads (.codewordPairReceive p pairs lanes wrong) s (fun t =>
          rd t (portReg p portFecUncorr) = satAdd (rd s (portReg p portFecUncorr)) 1 ∧ onlyPort t { asks q with uncorr := recent, discard := 5 } ∧
          t = { s with regs := t.regs, ports := t.ports })) ∧
        (fld s (portReg p portRetrainCfg) 31 24 < recent.length → Leads (.codewordPairReceive p pairs lanes wrong) s (fun t => portState t p = 6)))) ∧
    (0 < q.discard → ∀ c, c = Instr.dataFlitReceive p bs crc ∨ c = Instr.idleFlitReceive p bs crc ∨ c = Instr.nakFlitReceive p bs crc →
      Leads c s (fun t => onlyPort t { q with discard := q.discard - 1 } ∧ t = { s with ports := t.ports })) ∧
    (q.discard = 0 → flitGood bs crc = false → Leads (.dataFlitReceive p bs crc) s (fun t =>
      rd t (portReg p portCrcErr) = satAdd (rd s (portReg p portCrcErr)) 1 ∧ onlyPort t (asks q) ∧ t = { s with regs := t.regs, ports := t.ports })) ∧
    (q.discard = 0 → flitGood bs crc = true →
      (f.ftype ≠ 0 → f.ftype ≠ 2 → f.seq ≠ heard_.seqRx → Leads (.dataFlitReceive p bs crc) s (fun t =>
        onlyPort t (asks heard_) ∧ t = { s with ports := t.ports })) ∧
      (∀ pkt, f.seq = heard_.seqRx → f.ftype = 1 → f.pkt = some pkt → (vcOf pkt.ttype).isSome = true → pkt.dst = ownXyz s →
        Leads (.dataFlitReceive p bs crc) s (fun t =>
          onlyPort t { heard_ with seqRx := (heard_.seqRx + 1) % 4096, lastRx := f.seq, nakSent := false } ∧
          t.inbox = s.inbox ++ [{ pkt := pkt, port := some p, cls := f.cls, at_ := s.now }] ∧ t = { s with ports := t.ports, inbox := t.inbox })) ∧
      (f.seq = heard_.seqRx → 3 ≤ f.ftype → Leads (.dataFlitReceive p bs crc) s (fun t =>
        onlyPort t { heard_ with seqRx := (heard_.seqRx + 1) % 4096, lastRx := f.seq, nakSent := false,
                                 owed := modAt heard_.owed (2 * f.vc + f.cls) (· + 1) } ∧
        rd t (intReg errErrCause + 4 * 0xD) = satAdd (rd s (intReg errErrCause + 4 * 0xD)) 1 ∧ rd t (intReg errErrLastArg) = flitHigh f ∧
        t = { s with regs := t.regs, ports := t.ports, out := t.out })) ∧
      (f.ftype = 0 → Leads (.idleFlitReceive p bs crc) s (fun t => onlyPort t heard_ ∧ t = { s with ports := t.ports })) ∧
      (∀ e rest, f.ftype = 2 → heard_.retry = e :: rest → (heard_.resendFrom = some e.2.ord → heard_.resendRuns < 7) →
        Leads (.nakFlitReceive p bs crc) s (fun t =>
          (portAt t p).resend = heard_.retry.map (·.1) ∧ (portAt t p).retry = heard_.retry ∧
          rd t (portReg p portRetry) = satAdd (rd s (portReg p portRetry)) 1 ∧ t = { s with regs := t.regs, ports := t.ports }))) ∧
    Leads (.nakHoldoffTimer p) s (fun t => onlyPort t { q with nakSent := false } ∧ t = { s with ports := t.ports }) ∧
    (∀ e rest, q.retry = e :: rest → (q.resendFrom = some e.2.ord → q.resendRuns < 7) → Leads (.resendTimeout p) s (fun t =>
      (portAt t p).resend = q.retry.map (·.1) ∧ (portAt t p).retry = q.retry ∧
      rd t (portReg p portRetry) = satAdd (rd s (portReg p portRetry)) 1 ∧ t = { s with regs := t.regs, ports := t.ports }))) ∧
  (∀ (s : State) (p : Nat) (wrong : List Nat), live s = true → p < 8 → s.ports.length = 8 → flowing s p = true →
    (∀ c < 8, (portAt s p).owed.getD c 0 = 0) →
    let q := portAt s p
    let bytes (ftype vc cls seq : Nat) (pkt : Option Packet) : List Byte := flitBytes
      { ftype := ftype, vc := vc, cls := cls, seq := seq, ack := q.lastRx, crVc := 0, crCount := 0, pkt := pkt }
    let fifth : Bool := decide (4 ≤ q.pairFlits.length)
    let sends (t : State) (r : Port) (bs : List Byte) : Prop :=
      t.out = s.out ++ [.flit p bs] ++ (if fifth then [.codewordPair p (dealt (fld s (portReg p portPortStatus) 27 24)
        (fld s (portReg p portPortStatus) 3 3) (pairSymbols (q.pairFlits ++ [bs]) q.pairTx (lanesInUse s p)))] else []) ∧
      portAt t p = { r with pairFlits := if fifth then [] else q.pairFlits ++ [bs], pairTx := if fifth then (q.pairTx + 1) % 65536 else q.pairTx }
    (q.nakDue = true → Leads (.flitTransmit p wrong) s (fun t => sends t { q with nakDue := false } (bytes 2 0 0 0 none) ∧
      t = { s with ports := t.ports, out := t.out })) ∧
    (∀ n rest e, q.nakDue = false → q.resend = n :: rest → q.retry.find? (fun e => e.1 == n) = some e → Leads (.flitTransmit p wrong) s (fun t =>
      sends t { q with resend := rest, retry := (portAt t p).retry } (bytes 1 e.2.vc e.2.cls n (some (spoil wrong e.2.pkt))) ∧
      t = { s with regs := t.regs, ports := t.ports, out := t.out, recorder := t.recorder })) ∧
    (∀ u, q.nakDue = false → q.resend = [] → q.txq = [u] → q.retry.length < 1024 → u.vc < 4 → u.input < 9 → hasCredit q u = true → flowHeld s p u = false →
      u.core = none → Leads (.flitTransmit p wrong) s (fun t =>
        let pkt := spoil wrong u.pkt
        sends t (portAt t p) (bytes 1 u.vc u.cls q.seqTx (some pkt)) ∧ rd t (portReg p portFlitsTx) = satAdd (rd s (portReg p portFlitsTx)) 1 ∧
        (portAt t p).seqTx = (q.seqTx + 1) % 4096 ∧ (portAt t p).retry = q.retry ++ [(q.seqTx, { u with pkt := pkt })] ∧ (portAt t p).txq = [] ∧
        t = { s with regs := t.regs, ports := t.ports, out := t.out, recorder := t.recorder })) ∧
    (q.nakDue = false → q.resend = [] → q.txq = [] → Leads (.flitTransmit p wrong) s (fun t =>
      sends t q (bytes 0 0 0 0 none) ∧ t = { s with ports := t.ports, out := t.out })))

/-! ### Fabric -/

/-- WRITE, BARN_WRITE, ADD_WRITE and TSIGNAL (R164, R285, R377, R378, R414): a packet whose every byte its region or FAB_CTRL admits is written
at its address, or its words are added there in 48 bits, and no other byte changes; one that is not is refused whole and counted; a TSIGNAL
adds 1 to its tally. `u` is the state in which the packet has been taken: its buffer's or its send credit is given back. -/
def Obligations.PacketsIntoMemory : Prop :=
  ∀ (s : State) (i : InPkt), live s = true → i.pkt.poison = 0 →
    let u := consume s i
    let p := i.pkt
    let n := p.data.length
    let refused (c : Instr) : Prop := Leads c s (fun t =>
      rd t (mcReg 0 mcRemoteRefused) = satAdd (rd u (mcReg 0 mcRemoteRefused)) 1 ∧ (∀ k, k ≠ mcReg 0 mcRemoteRefused → rd t k = rd u k) ∧
      t = { u with regs := t.regs, inMsgs := t.inMsgs })
    let written (c : Instr) (bs : List Byte) : Prop := Leads c s (fun t =>
      Stored u t p.addr bs ∧ t.poison = [] ∧ t = { u with regs := t.regs, inMsgs := t.inMsgs, mem := t.mem })
    (nextOf s 1 (fun _ => true) = some i → n ≤ 224 → (admits u .write p.addr n = true → Clean u → written (.writePkt {}) p.data) ∧
      (admits u .write p.addr n = false → refused (.writePkt {}))) ∧
    (nextOf s 3 (fun _ => true) = some i → n ≤ 224 → (admits u .barn p.addr n = true → Clean u → written (.barnWrite {}) p.data) ∧
      (admits u .barn p.addr n = false → refused (.barnWrite {}))) ∧
    (nextOf s 5 (fun _ => true) = some i → n % 8 = 0 → p.addr % 8 = 0 →
      (admits u .write p.addr n = true → Clean u → written (.addWrite {}) ((List.range (n / 8)).flatMap (fun k =>
        addedWord u (p.addr + 8 * k) (leAt p.data (8 * k) 8)))) ∧
      (admits u .write p.addr n = false → refused (.addWrite {}))) ∧
    (nextOf s 0x30 (fun _ => true) = some i → Leads .tsignal s (fun t =>
      Signalled u t true (bits p.addr 13 8) (bits p.addr 5 0) ∧ t = { u with regs := t.regs }))

/-- READ_REQ and WRITE_ACK_SEND (R378, R379): an admitted request is answered to its sender with the bytes at its address and status OK, any
other, one of more than 224 bytes too (log entry 36), with 0x0E and no bytes; a message whose acknowledgement is due gets it with its status.
No byte changes. READ_RESP, WRITE_ACK, RESPONSE_TIMEOUT and LATE_RESPONSE (R380, R383): a response takes its request off the outstanding ones, a
MOVE that waited for it waits no longer, and a failed one is counted in REMOTE_FAIL and recorded; a READ_RESP's bytes go to the MOVE's
destination; a time-out acts as a response with 0x0D, its tag kept from later requests until the late response comes (the model's choice, log
entry 36); a response without a request is counted in LATE_RESP. No read waits for a tag here, and no case of poison is open. Responses carry
no send credit of a core, so `i.core = none`. -/
def Obligations.RequestsAndResponses : Prop :=
  (∀ s : State, live s = true → s.ports.length = 8 →
    let goes (u t : State) (a : Packet) : Prop :=
      (a.dst = ownXyz u → t.inbox = u.inbox ++ [{ pkt := a, port := none, cls := 0, at_ := u.now }]) ∧
      (∀ x < 8, ∀ cls, routeOf u a none 0 = .port x cls → t.inbox = u.inbox ∧
        (portAt t x).txq = (portAt u x).txq ++ [{ pkt := a, vc := 1, cls := cls, input := 8, inCls := 0, core := none, ord := u.routed }])
    (∀ i, nextOf s 2 (fun _ => true) = some i → i.core = none → Clean s → (∀ c ∈ s.integrity.cases, c.open_ = true → c.cause ≠ 5) →
      let p := i.pkt
      let u := consume s i
      let len := p.tag / 256 + 1
      let ok : Bool := decide (len ≤ 224) && admits s .read p.addr len
      Leads (.readReq {}) s (fun t =>
        goes u t { barePacket 0x10 p.src (ownXyz s) p.tag (if ok then 0 else 0x0E) with
          addr := if ok then p.addr else 0, data := if ok then readMem s.mem p.addr len else [] } ∧
        t.mem = s.mem ∧ t.poison = s.poison)) ∧
    (∀ m, s.inMsgs.find? (·.ready) = some m → Leads .writeAckSend s (fun t =>
      t.inMsgs = s.inMsgs.erase m ∧ goes s t (barePacket 0x11 m.src (ownXyz s) m.tag m.status) ∧ t.mem = s.mem ∧ t.poison = s.poison))) ∧
  (∀ (s : State) (q : FabReq) (c : Nat) (o : MoveOp), live s = true → c < 64 → s.cores.length = 64 → s.requests = [q] → q.kind = .move c →
    (∀ x < 64, ∀ y ∈ (coreAt s x).mvOps, y.unasked = []) → (coreAt s c).mvOps = [o] → o.tags = [respName q.read q.tag] →
    let let_go (t : State) : Prop := t.requests = [] ∧ ∃ x, (coreAt t c).mvOps = [x] ∧ x.tags = []
    (∀ i, q.read = true → nextOf s 0x10 (fun p => (requestOf s true p.tag p.src).isSome) = some i → i.core = none → i.pkt.status = 0 → i.pkt.poison = 0 → Clean s →
      (∀ a, q.dests = [a] → spaceOf a = .scratch c (a - scratchAddr c 0) → 0 < q.size → i.pkt.data.length = q.size → a % 64 + q.size ≤ 64 →
        Leads .readResp s (fun t => let_go t ∧ Stored s t a i.pkt.data ∧ t.poison = []))) ∧
    (∀ i, q.read = false → nextOf s 0x11 (fun p => (requestOf s false p.tag p.src).isSome) = some i → i.core = none →
      (i.pkt.status = 0 → Leads .writeAck s (fun t => let_go t ∧ t.inbox = s.inbox.erase i ∧ t.mem = s.mem ∧
        t = { s with requests := t.requests, cores := t.cores, inbox := t.inbox, ports := t.ports })) ∧
      (i.pkt.status ≠ 0 → i.pkt.status < 256 → Leads .writeAck s (fun t => let_go t ∧ t.mem = s.mem ∧
        rd t (fabReg fabRemoteFail) = satAdd (rd s (fabReg fabRemoteFail)) 1 ∧ flag t (fabReg fabFabEvent) 31 = true ∧
        rd t (intReg errErrCause + 4 * 0x12) = satAdd (rd s (intReg errErrCause + 4 * 0x12)) 1))) ∧
    (q.read = false → Leads (.responseTimeout q.tag) s (fun t => let_go t ∧ t.mem = s.mem ∧
      rd t (fabReg fabRemoteFail) = satAdd (rd s (fabReg fabRemoteFail)) 1 ∧
      rd t (intReg errErrLastArg) = (coordBits q.target + 0x0D000000) % 2 ^ 32 ∧ t.expired = s.expired ++ [(false, q.tag)])) ∧
    (∀ i, i.core = none → (nextOf s 0x10 (fun p => (requestOf s true p.tag p.src).isNone) = some i ∨
        (nextOf s 0x10 (fun p => (requestOf s true p.tag p.src).isNone) = none ∧
          nextOf s 0x11 (fun p => (requestOf s false p.tag p.src).isNone) = some i)) → Leads .lateResponse s (fun t =>
      rd t (fabReg fabLateResp) = satAdd (rd s (fabReg fabLateResp)) 1 ∧ t.inbox = s.inbox.erase i ∧
      t = { s with regs := t.regs, inbox := t.inbox, ports := t.ports, expired := t.expired })))

/-! ### Reductions -/

/-- REDUCE (R391, R398 to R402, R522): the packet leaves the inbox; one of a lower generation or of a slot without a valid bucket changes nothing
else; the packets of a chunk stream before its last are kept for it in order; a finished chunk of a stage this member has started has the own
value added in the reduce phases, stands in the member's words (where its own chunk ends a reduce phase, as long as the gather phases do not
encode it), and goes on along the ring as the packets of its new stream, but where it ends here. INSTANCE_COMPLETE and STEP_SUMMARY_FINAL (R405, R406, R409, R412, R523):
an instance whose result is final completes with OK, its signal is sent and it is counted in BUCKETS_DONE; the summary of a bell is final
once every instance has completed and no case is open, skipped where a nonfinite instance says so, else not; an incomplete instance holds it
back. -/
def Obligations.ReductionsRun : Prop :=
  (∀ (s : State) (q : InPkt) (h : ReduceHeader), live s = true →
    firstOf s 0x20 (fun p => match reduceHeader p.data with | some h => !reduceEarly s h | none => true) = some q →
    reduceHeader q.pkt.data = some h → q.core = none →
    (∀ n i, reduceBell s h = some n → instanceOf s n h.slot = some i → h.gen < i.gen → Leads (.reduce {}) s (fun t =>
      t = { s with inbox := s.inbox.erase q, ports := t.ports })) ∧
    (∀ n, reduceBell s h = some n → (∀ bk, bucketOf s n h.slot = some bk → bk.valid = false) → Leads (.reduce {}) s (fun t =>
      t = { s with inbox := s.inbox.erase q, ports := t.ports })) ∧
    (∀ n i bk g, reduceBell s h = some n → instanceOf s n h.slot = some i → bucketOf s n h.slot = some bk → bk.valid = true →
      ownGrid s n = some g → h.gen = i.gen → i.status = 0 → i.faulted = false → i.entered = true → h.stage < 6 →
      h.frc = (frcOf bk.mode h.stage).isSome → (3 ≤ h.stage → bit bk.mode 0 = false) → i.rx = [] → i.ready = [] → q.pkt.last = true →
      q.pkt.poison = 0 → h.off = 0 → stageReady g i h.stage = true → h.chunk < g.size h.stage → isDone i h.stage h.chunk = false →
      (∀ st ≤ h.stage, isDone i st (if st ≤ 2 then (g.pos st + g.size st - 1) % g.size st else g.pos st) = true) →
      sendsHeld s n = false → (∀ c ∈ s.integrity.cases, c.open_ = true → c.cause ≠ 5) →
      let st := h.stage
      let j := h.chunk
      let f := frcOf bk.mode st
      let lo := (g.chunk st j bk.words).1
      let hi := (g.chunk st j bk.words).2
      let v := chunkWords f (q.pkt.data.drop 16) lo hi
      let own := if st = 0 then (ownValue g i).1 else i.vals
      let ownBad := if st = 0 then (ownValue g i).2.1 else i.bad
      let sum := if st ≤ 2 then addGroups v own lo hi else v
      lo < hi → (st ≤ 2 → wordsIn ownBad (256 * lo) (256 * hi) = []) → Leads (.reduce {}) s (fun t =>
        (∃ k, instanceOf t n h.slot = some k ∧ isDone k st j = true ∧
          ((st ≤ 2 → j = g.pos st → bit bk.mode 0 = true ∨ bit bk.mode 4 = false) → ∀ w, 256 * lo ≤ w → w < 256 * hi →
            sget 0 k.vals w = sget 0 v w + (if st ≤ 2 then sget 0 own w else 0))) ∧
        ((if st ≤ 2 then j ≠ g.pos st else (g.pos st + 1) % g.size st ≠ j) →
          ∀ pkt ∈ reducePackets s i (g.next st) st j f.isSome (encodeChunk f sum lo hi) [], ∀ x < 8, ∀ cls, routeOf s pkt none 0 = .port x cls →
            x < s.ports.length → ∃ e ∈ (portAt t x).txq, e.pkt = pkt ∧ e.cls = cls) ∧
        t.mem = s.mem)) ∧
    (∀ n i bk, reduceBell s h = some n → instanceOf s n h.slot = some i → bucketOf s n h.slot = some bk → bk.valid = true → h.gen = i.gen →
      i.status = 0 → i.faulted = false → h.stage < 6 → h.frc = (frcOf bk.mode h.stage).isSome → i.rx = [] → q.pkt.last = false → q.pkt.poison = 0 → h.off = 0 →
      Leads (.reduce {}) s (fun t =>
        (∃ j, instanceOf t n h.slot = some j ∧ j.rx = [⟨h.stage, h.chunk, q.pkt.data.drop 16, []⟩] ∧ j.ready = i.ready) ∧
        t = { s with inbox := s.inbox.erase q, ports := t.ports, instances := t.instances }))) ∧
  (∀ (s : State) (n : Nat), live s = true →
    (∀ b i bk g r, instanceOf s n b = some i → bucketOf s n b = some bk → ownGrid s n = some g → i.final = some r → i.complete = false →
      bk.valid = true → resultFinal g bk i = true → Leads (.instanceComplete b n) s (fun t =>
        (∃ j, instanceOf t n b = some j ∧ j.complete = true ∧ j.status = 0) ∧
        Signalled s t (bit bk.sig 7) (bits bk.sig 5 0) (bits bk.sigTally 5 0) ∧
        rd t (redReg redBucketsDone) = satAdd (rd s (redReg redBucketsDone)) 1 ∧
        (r.nonfinite = true → flag t (redReg redRedEvent) 31 = true))) ∧
    (summaryFinal s n = false → s.buckets.any (fun e => e.1 == n) = true → casesOpen s n = false →
      (∀ i ∈ s.instances, i.bell = n → i.complete = true ∧ i.status = 0 ∧ nonfiniteOrigin i = none) →
      (∀ u ∈ s.integrity.pendingUse, u.bell ≠ n) → replayOf s n = none → Leads (.stepSummaryFinal n) s (fun t =>
        summaryFinal t n = true ∧ summaryBad t n = summaryBad s n ∧ t = { s with summaries := s.summaries ++ [(n, false, false)] })) ∧
    (summaryFinal s n = false → s.buckets.any (fun e => e.1 == n) = true → casesOpen s n = false →
      (∀ i ∈ s.instances, i.bell = n → i.complete = true) → (∃ i ∈ s.instances, i.bell = n ∧ (nonfiniteOrigin i).isSome = true) →
      Leads (.stepSummaryFinal n) s (fun t => summaryFinal t n = true ∧ summaryBad t n = true ∧
        rd t (redReg redStepsSkipped) = satAdd (rd s (redReg redStepsSkipped)) 1)) ∧
    ((∃ i ∈ s.instances, i.bell = n ∧ i.complete = false) → exec (.stepSummaryFinal n) s = .next s))

/-! ### Ethernet and Stolcen -/

/-- ETH_FRAME_RECEIVE and PCS_LINK_CHANGE (R418 to R420, R423, R425, R440): a frame is dropped for the first reason that applies, each with its
own counter; one that passes every test is counted in FRAMES_RX and a core of its port's idle bank opens it; a change of the PCS sets LINK
and its event, and a loss takes the port's own roads down, of which each road's lead gateway is told. STL_ENABLE and STL_DISABLE (R424, R425,
R442, R444): enabling reads partners and roads from the table, here without stored errors, and starts every partner again, with W at 8 ms;
disabling forgets them. -/
def Obligations.EthernetAndStolcenStart : Prop :=
  (∀ (s : State) (p : Nat) (frame : List Byte), live s = true → p < 8 → isEth s p = true →
    let counts (ok : Bool) (o : Nat) : Prop := Leads (.ethFrameReceive p frame ok) s (fun t =>
      rd t (ethReg p o) = satAdd (rd s (ethReg p o)) 1 ∧ (∀ k, k ≠ ethReg p o → rd t k = rd s k) ∧ t = { s with regs := t.regs })
    (ethLink s p = true → counts false ethFcsErr) ∧
    (ethLink s p = true → 9212 < frame.length → counts true ethOversize) ∧
    (ethLink s p = true → frame.length ≤ 9212 →
      let ty := beNat ((afterTag frame).take 2)
      (ty = 0x8808 → counts true ethPauseDrop) ∧
      (ty ≠ 0x8808 → frame.take 6 ≠ ownMac s p → counts true ethFiltered) ∧
      (ty ≠ 0x8808 → carried_ s p frame = none → counts true ethFiltered) ∧
      (∀ part r, ty ≠ 0x8808 → frame.take 6 = ownMac s p → carried_ s p frame = some part → leAt part 3 1 = ownSite s →
        (partnerOfSite s (leAt part 2 1)).isSome = true → roadOfFrame s p part = some r → frameHeadGood part = true →
        epochAccepted s (leAt part 8 4) = true → roadKeysExist s = true → s.banks.length = 5 → (bankAt s (bankOfPort p)).running = [] →
        (bankAt s (bankOfPort p)).keys.length < 128 → Leads (.ethFrameReceive p frame true) s (fun t =>
          rd t (ethReg p ethFramesRx) = satAdd (rd s (ethReg p ethFramesRx)) 1 ∧
          (∃ j, (bankAt t (bankOfPort p)).running = [j] ∧ j.road = r ∧ j.sealing = false ∧ j.urgent = bit (leAt part 1 1) 0) ∧
          t = { s with regs := t.regs, banks := t.banks, draws := t.draws }))) ∧
    (ethLink s p = false → Leads (.pcsLinkChange p true) s (fun t =>
      ethLink t p = true ∧ flag t (ethReg p ethEthEvent) 31 = true ∧ t = { s with regs := t.regs, out := t.out })) ∧
    (ethLink s p = true → Leads (.pcsLinkChange p false) s (fun t =>
      ethLink t p = false ∧ flag t (ethReg p ethEthEvent) 30 = true ∧ (∀ r ∈ ownRoads s, (roadAt s r).port = p → (roadAt t r).up = false) ∧
      t = { s with regs := t.regs, out := t.out, roads := t.roads, inbox := t.inbox, ports := t.ports, routed := t.routed, nextTag := t.nextTag }))) ∧
  (∀ (s : State) (who : Requester) (host : HostView), Reaches s who →
    let a := rd64 s (stlReg stlStlTableLo)
    let ps := readPartners ((List.range 4).map (fun i => readMem s.mem (a + 64 * i) 64))
    (stlOn s = false → s.flaws = [] → Leads (.stlEnable who host) s (fun t =>
      stlOn t = true ∧ t.partners = ps.1 ∧ t.roads = (readRoads ((List.range 16).map (fun i => readMem s.mem (a + 256 + 64 * i) 64)) ps.1).1 ∧
      t.gateways = List.replicate 4 {} ∧ (∀ p < 4, rd t (stlReg stlWindow + 4 * p) = 8000) ∧ rd t (stlReg stlRoadUp) = 0 ∧
      t.mem = s.mem ∧ t.poison = s.poison)) ∧
    (stlOn s = true → Leads (.stlDisable who) s (fun t =>
      stlOn t = false ∧ t.partners = List.replicate 4 {} ∧ t.roads = List.replicate 16 {} ∧ t.gateways = List.replicate 4 {} ∧
      rd t (stlReg stlRoadUp) = 0 ∧ (∀ b ∈ t.banks, b.running = [] ∧ b.suspended = [] ∧ b.waitingJobs = []) ∧ t.mem = s.mem ∧ t.poison = s.poison)))

/-- SUBMIT, SEND_SHARD, RECV_SHARD and DELIVER in one packet (R422, R426, R427, R432, R435, R440): the lead gateway stores and numbers a message
that it takes, and counts one that it refuses; the port owner's idle bank seals a shard under its road's key; the lead gateway keeps a shard
of a group that needs more; the receive ring takes a delivered message where it fits, or counts RX_FULL. `u` is the state in which the packet
has been taken: its buffer's or its send credit is given back. -/
def Obligations.StolcenMessages : Prop :=
  ∀ (s : State) (i : InPkt), live s = true → i.pkt.first = true → i.pkt.last = true → bits i.pkt.addr 31 0 = 0 → i.pkt.poison = 0 →
    i.pkt.data.length ≤ 224 →
    let u := consume s i
    let m := i.pkt.data
    let taken (t : State) : Prop := t.inbox = u.inbox ∧ t.mem = u.mem ∧ t.poison = u.poison
    u.gateways.length = 4 → u.banks.length = 5 →
    (nextOf s 4 (fun p => (fun op => op != 2 && op != 3 && op != 4) (stlOp p)) = some i →
      (∀ p, stlOn u = true → stlOp i.pkt = 1 → partnerOfSite u (leAt m 2 1) = some p → leads u p = true →
        storeUsed u + m.length ≤ 65536 * rd u (stlReg stlStoreSize) → submitGood m = true → upRoads u p = [] → Leads .submit s (fun t =>
          taken t ∧ (gateAt t p).nextSeq = (gateAt u p).nextSeq + 1 ∧
          (∃ x, (gateAt t p).store = (gateAt u p).store ++ [x] ∧ x.seq = (gateAt u p).nextSeq ∧ x.urgent = bit (leAt m 1 1) 0 ∧
            x.bytes = patch m 7 (leBytes 3 (coordBits i.pkt.src)) ∧ x.groups.length = groupCount (partnerAt u p) x.urgent m.length))) ∧
      (partnerOfSite u (leAt m 2 1) = none → Leads .submit s (fun t =>
        taken t ∧ rd t (stlReg stlSubmitRefused) = satAdd (rd u (stlReg stlSubmitRefused)) 1 ∧ t.gateways = u.gateways))) ∧
    (∀ r, nextOf s 4 (fun p => stlOp p == 2) = some i → stlOn u = true → 64 ≤ m.length →
      (ownRoads u).find? (fun r => (partnerAt u (roadAt u r).partner).site == leAt m 3 1 && (roadAt u r).road == leAt m 4 1) = some r →
      roadKeysExist u = true → (roadAt u r).port < 8 → (bankAt u (bankOfPort (roadAt u r).port)).running = [] →
      (bankAt u (bankOfPort (roadAt u r).port)).keys = [] → Leads .sendShard s (fun t =>
        taken t ∧ ∃ j, (bankAt t (bankOfPort (roadAt u r).port)).running = [j] ∧ j.road = r ∧ j.sealing = true ∧
          j.bytes.length = m.length + 16 ∧ leAt j.bytes 8 4 = keyEpoch u)) ∧
    (∀ p, nextOf s 4 (fun p => stlOp p == 3) = some i → stlOn u = true → 64 ≤ m.length → leAt m 0 1 ≠ 0x21 → partnerOfSite u (leAt m 2 1) = some p →
      leads u p = true → (gateAt u p).groups.find? (InGroup.is (leAt m 12 8) (leAt m 20 2)) = none →
      leAt m 6 1 < bits (leAt m 5 1) 2 0 + 1 + bits (leAt m 5 1) 5 3 → leAt m 20 2 ≤ leAt m 22 2 → 1 ≤ bits (leAt m 5 1) 2 0 →
      (gateAt u p).store = [] →
      Leads .recvShard s (fun t => taken t ∧ ∃ g, (gateAt t p).groups.find? (InGroup.is (leAt m 12 8) (leAt m 20 2)) = some g ∧
        g.k = bits (leAt m 5 1) 2 0 + 1 ∧ g.shards = [(leAt m 6 1, m.drop 64)] ∧ g.decoded = none)) ∧
    (nextOf s 4 (fun p => stlOp p == 4) = some i →
      let n := 1024 * rd u (stlReg stlRxRingSize)
      let need := 1 + ((m.drop 16).length + 63) / 64
      let sig := rd u (stlReg stlRxSig)
      (∀ at_ next, n ≠ 0 → n < 2 ^ 32 → ringPlace (rd u (stlReg stlRxWptr)) (rd u (stlReg stlRxRptr) % n) n need = some (at_, next, 0) →
        Leads (.deliver {}) s (fun t => t.inbox = u.inbox ∧ rd t (stlReg stlRxWptr) = next ∧
          Signalled u t (bit sig 31) (bits sig 13 8) (bits sig 5 0) ∧
          (let a := rd64 u (stlReg stlRxRingLo) + 64 * at_
           17 ≤ m.length → a % 64 = 0 → isMemory a = true → deadStack u a = false → u.flaws = [] →
            readMem t.mem a 64 = m.take 9 ++ (m.drop 16).take 1 ++ [0, 0] ++ leBytes 4 (m.drop 16).length ++ leBytes 8 (bellNum u) ++
              List.replicate 40 0))) ∧
      (n = 0 → Leads (.deliver {}) s (fun t => taken t ∧ rd t (stlReg stlRxFull) = satAdd (rd u (stlReg stlRxFull)) 1 ∧
        rd t (stlReg stlRxWptr) = rd u (stlReg stlRxWptr))))

/-- KEEPALIVE_TIMER, ROAD_DEAD_TIMER, WINDOW_UPDATE, REASSEMBLY_TIMEOUT, ACK_DELAY_TIMER, RTO_EXPIRY, ACK and NAK (R431, R433, R436 to R442): a
keepalive is sealed; a dead road goes DOWN, of which its lead gateway is told; a partner without samples has W at 8 ms; an expiry of a partial
group's timer keeps its shards and sends a NAK that names it while a road is UP, and the fourth stale one drops the group; an
acknowledgement that is due is sent; a group past its RTO is sent again, or its message given up, unless an ACK that waits covers it; an
ACK frees what it covers; a NAK sends the group that it names again, where that was not sent within the greatest SRTT and has re-sends left,
and is only counted for one sent since or not held. -/
def Obligations.StolcenTimersAndAcks : Prop :=
  ∀ (s : State) (p seq group r : Nat), live s = true → stlOn s = true → p < 4 → r < 16 → s.gateways.length = 4 → s.roads.length = 16 → s.banks.length = 5 →
    (r ∈ ownRoads s → (roadAt s r).port < 8 → roadKeysExist s = true → (bankAt s (bankOfPort (roadAt s r).port)).running = [] →
      (bankAt s (bankOfPort (roadAt s r).port)).keys = [] → Leads (.keepaliveTimer r) s (fun t =>
        (∃ j, (bankAt t (bankOfPort (roadAt s r).port)).running = [j] ∧ j.road = r ∧ j.sealing = true ∧ j.bytes.length = 80 ∧ leAt j.bytes 0 1 = 0x21) ∧
        t = { s with regs := t.regs, banks := t.banks, draws := t.draws })) ∧
    ((roadAt s r).en = true → (roadAt s r).up = true → Leads (.roadDeadTimer r) s (fun t =>
      (roadAt t r).up = false ∧ flag t (stlReg stlStlEvent) 30 = true ∧
      (leads s (roadAt s r).partner = true → flag t (stlReg stlRoadUp) r = false) ∧
      t = { s with regs := t.regs, roads := t.roads, out := t.out, inbox := t.inbox, ports := t.ports, routed := t.routed, nextTag := t.nextTag })) ∧
    ((∀ x < 16, (roadAt s x).sampled = false) → Leads .windowUpdate s (fun t =>
      (∀ x < 4, rd t (stlReg stlWindow + 4 * x) = if leads s x then 8000 else rd s (stlReg stlWindow + 4 * x)) ∧ t = { s with regs := t.regs })) ∧
    (∀ g, (gateAt s p).groups.find? (InGroup.is seq group) = some g → g.decoded = none → upRoads s p = [] → Leads (.reassemblyTimeout p seq group) s (fun t =>
      (if g.fresh = false ∧ 3 ≤ g.stale then (gateAt t p).groups.find? (InGroup.is seq group) = none
       else (gateAt t p).groups.find? (InGroup.is seq group) = some { g with stale := if g.fresh then 0 else g.stale + 1, fresh := false }) ∧
      t = { s with gateways := t.gateways })) ∧
    (∀ g, (gateAt s p).groups.find? (InGroup.is seq group) = some g → g.decoded = none → upRoads s p ≠ [] →
      (g.fresh = false → 3 ≤ g.stale → Leads (.reassemblyTimeout p seq group) s (fun t =>
        (gateAt t p).groups.find? (InGroup.is seq group) = none ∧ t = { s with gateways := t.gateways })) ∧
      (g.fresh = true ∨ g.stale < 3 → Leads (.reassemblyTimeout p seq group) s (fun t =>
        (gateAt t p).groups.find? (InGroup.is seq group) = some { g with stale := if g.fresh then 0 else g.stale + 1, fresh := false } ∧
        rd t (stlReg stlNaksTx) = satAdd (rd s (stlReg stlNaksTx)) 1 ∧ t.mem = s.mem ∧
        (∀ x, upRoads s p = [x] → (partnerAt s p).uk = 1 → (partnerAt s p).um = 0 → 64 ≤ (partnerAt s p).shardMax → (roadAt s x).owner = ownXyz s →
          ∃ i, t.inbox = s.inbox ++ [i] ∧ stlOp i.pkt = 2 ∧ leAt i.pkt.data 0 1 = 0x11 ∧ leAt (i.pkt.data.drop 64) 0 1 = 0x41 ∧
            leAt (i.pkt.data.drop 80) 0 6 = seq % 2 ^ 48 ∧ leAt (i.pkt.data.drop 80) 6 2 = group % 2 ^ 16)))) ∧
    (leads s p = true → (gateAt s p).ackDue = true → upRoads s p ≠ [] → Leads (.ackDelayTimer p) s (fun t =>
      gateAt t p = { gateAt s p with ackDue := false } ∧ t.mem = s.mem)) ∧
    ((gateAt s p).acks.any (fun m => ackCovers m seq) = true → exec (.rtoExpiry p seq group) s = .next s) ∧
    (∀ m o, storedGroup s p seq group = some (m, o) → o.sentAt.isSome = true → upRoads s p ≠ [] →
      (gateAt s p).acks.any (fun m => ackCovers m seq) = false →
      (o.resends < resendMax s → Leads (.rtoExpiry p seq group) s (fun t =>
        (∃ m' o', storedGroup t p seq group = some (m', o') ∧ o'.sentAt = some s.now ∧ o'.resends = o.resends + 1) ∧
        rd t (stlReg stlResends) = satAdd (rd s (stlReg stlResends)) 1 ∧ t.mem = s.mem)) ∧
      (resendMax s ≤ o.resends → Leads (.rtoExpiry p seq group) s (fun t =>
        (gateAt t p).store = (gateAt s p).store.filter (fun x => x.seq != m.seq) ∧ rd t (stlReg stlGaveUp) = satAdd (rd s (stlReg stlGaveUp)) 1 ∧
        flag t (stlReg stlStlEvent) 31 = true ∧ t = { s with regs := t.regs, gateways := t.gateways, out := t.out, recorder := t.recorder }))) ∧
    (∀ m, firstWaiting s (·.acks) = some (p, m) → upRoads s p = [] → Leads .ack s (fun t =>
      (gateAt t p).acked = max (gateAt s p).acked (leAt m 16 8) ∧ (gateAt t p).acks = (gateAt s p).acks.drop 1 ∧
      (gateAt t p).store = (gateAt s p).store.filter (fun x => !ackCovers m x.seq) ∧ t = { s with gateways := t.gateways })) ∧
    (∀ m, firstWaiting s (·.naks) = some (p, m) → m.length = 24 → storedGroup s p (leAt (m.drop 16) 0 6) (leAt (m.drop 16) 6 2) = none → Leads .nak s (fun t =>
      gateAt t p = { gateAt s p with naks := (gateAt s p).naks.drop 1 } ∧ rd t (stlReg stlNaksRx) = satAdd (rd s (stlReg stlNaksRx)) 1 ∧
      t = { s with regs := t.regs, gateways := t.gateways })) ∧
    (∀ x m o at_, firstWaiting s (·.naks) = some (p, x) → x.length = 24 → seq = leAt (x.drop 16) 0 6 → group = leAt (x.drop 16) 6 2 →
      storedGroup s p seq group = some (m, o) → o.sentAt = some at_ → upRoads s p ≠ [] →
      (at_ * 10 + 17 * maxSrtt s p < s.now * 10 → o.resends < resendMax s → Leads .nak s (fun t =>
        (∃ m' o', storedGroup t p seq group = some (m', o') ∧ o'.sentAt = some s.now ∧ o'.resends = o.resends + 1) ∧
        (gateAt t p).naks = (gateAt s p).naks.drop 1 ∧ rd t (stlReg stlNaksRx) = satAdd (rd s (stlReg stlNaksRx)) 1 ∧
        rd t (stlReg stlResends) = satAdd (rd s (stlReg stlResends)) 1 ∧ t.mem = s.mem)) ∧
      (s.now * 10 ≤ at_ * 10 + 17 * maxSrtt s p → Leads .nak s (fun t =>
        gateAt t p = { gateAt s p with naks := (gateAt s p).naks.drop 1 } ∧ rd t (stlReg stlNaksRx) = satAdd (rd s (stlReg stlNaksRx)) 1 ∧
        t = { s with regs := t.regs, gateways := t.gateways })))

/-- CIPHER_MESSAGE_DONE and URGENT_SUSPEND (R422, R423, R477 to R480): a core that finishes, with nothing waiting for it, is free; a sealed
message is counted in MSG_SEALED, one that fails to authenticate in TAG_FAIL and AUTH_FAIL; an urgent message that waits takes the core of
an ordinary one, which is suspended, counted in SUSPENDS. -/
def Obligations.CipherCores : Prop :=
  ∀ (s : State) (b core : Nat) (j : CipherJob), live s = true → b < 4 → core < 256 → s.banks.length = 5 →
    ((bankAt s b).running.find? (fun x => x.core == core) = some j → (bankAt s b).suspended = [] → (bankAt s b).waitingJobs = [] →
      (j.sealing = true → Leads (.cipherMessageDone b core) s (fun t =>
        (bankAt t b).running = (bankAt s b).running.erase j ∧ rd t (bankReg b ciphMsgSealed) = satAdd (rd s (bankReg b ciphMsgSealed)) 1 ∧
        t = { s with regs := t.regs, banks := t.banks, out := t.out })) ∧
      (j.sealing = false → j.ok = false → Leads (.cipherMessageDone b core) s (fun t =>
        (bankAt t b).running = (bankAt s b).running.erase j ∧ rd t (bankReg b ciphTagFail) = satAdd (rd s (bankReg b ciphTagFail)) 1 ∧
        rd t (stlReg stlAuthFail) = satAdd (rd s (stlReg stlAuthFail)) 1 ∧ flag t (stlReg stlStlEvent) 29 = true ∧
        t = { s with regs := t.regs, banks := t.banks, out := t.out }))) ∧
    (∀ u, (bankAt s b).waitingJobs.find? (·.urgent) = some u → suspendCore (bankAt s b) = some j → u.sealing = true → roadKeysExist s = true →
      (bankAt s b).keys = [] → Leads (.urgentSuspend b) s (fun t =>
        (bankAt t b).suspended = j :: (bankAt s b).suspended ∧ rd t (bankReg b ciphSuspends) = satAdd (rd s (bankReg b ciphSuspends)) 1 ∧
        (bankAt t b).waitingJobs = (bankAt s b).waitingJobs.erase u ∧
        (∃ x, (bankAt t b).running = (bankAt s b).running.erase j ++ [x] ∧ x.core = j.core ∧ x.road = u.road) ∧
        t = { s with regs := t.regs, banks := t.banks }))

/-! ### Markets -/

/-- CONTRIB, STATE_REQ and STATE (R463, R469, R475): the next record of the receive ring is taken; one of no shard of this module, of a round
or size that does not fit, of a site outside the send set, or a state message for a shard that is not joining, is counted in CONTRIB_STALE and
changes nothing else; an accepted contribution is counted in CONTRIB_RX and a
state message in STATE_RX; a request is remembered. LEDGER, ARRIVED, MKT_JOIN and MKT_LEAVE (R464, R465, R468, R469, R475): a LEDGER packet
of a new round is kept; ARRIVED is recorded by the master's keeper, which also takes joins and leaves, MKT_CMD keeping the site index;
elsewhere a MKT_CMD write is counted with cause 0x04; a packet of a reserved type is counted with cause 0x10. MARKET_CTL packets carry no
send credit of a core, so `i.core = none`. -/
def Obligations.Markets : Prop :=
  (∀ (s past : State) (v : HostView) (msg : RingRecord), live s = true → mktOn s.activeHalf = true →
    let body := msg.2.drop 16
    (nextRecord v 1 4096 (meetHeaders s) = (some msg, past) →
      (mktById past (leAt body 8 4) = none ∨ (∃ m, mktById past (leAt body 8 4) = some m ∧
          (¬ (m.lastRound ≤ leAt body 0 8 ∧ leAt body 0 8 ≤ m.lastRound + 3) ∨ leAt body 12 4 ≠ mktWords past m ∨ 4 ≤ leAt body 23 1 ∨
            bit (sendSet past) (leAt body 23 1) = false)) → Leads (.contrib v) s (fun t =>
        rd t (stlReg mktContribStale) = satAdd (rd past (stlReg mktContribStale)) 1 ∧ t = { past with regs := t.regs })) ∧
      (∀ m, mktById past (leAt body 8 4) = some m → m.lastRound ≤ leAt body 0 8 → leAt body 0 8 ≤ m.lastRound + 3 → leAt body 12 4 = mktWords past m →
        leAt body 23 1 < 4 → bit (sendSet past) (leAt body 23 1) = true → Leads (.contrib v) s (fun t =>
          rd t (stlReg mktContribRx) = satAdd (rd past (stlReg mktContribRx)) 1 ∧
          ∃ p ∈ t.market.present, p.header = m.index ∧ p.round = leAt body 0 8 ∧ p.site = leAt body 23 1))) ∧
    (∀ m, nextRecord v 4 4096 (meetHeaders s) = (some msg, past) → mktById past (leAt body 0 4) = some m → leAt body 4 1 < 4 → Leads (.stateReq v) s (fun t =>
      leAt body 4 1 ∈ (mktWork t m.index).requests ∧ t = { past with market := t.market })) ∧
    (nextRecord v 3 4096 (meetHeaders s) = (some msg, past) →
      (mktById past (leAt body 8 4) = none ∨ (∃ m, mktById past (leAt body 8 4) = some m ∧
          (m.state ≠ 1 ∨ leAt body 12 4 ≠ mktWords past m ∨ 2 ≤ leAt body 24 1 ∨ mktWords past m < leAt body 16 4 + leAt body 20 4)) → Leads (.stateMsg v) s (fun t =>
        rd t (stlReg mktContribStale) = satAdd (rd past (stlReg mktContribStale)) 1 ∧ t = { past with regs := t.regs })) ∧
      (∀ m, mktById past (leAt body 8 4) = some m → m.state = 1 → leAt body 12 4 = mktWords past m → leAt body 24 1 < 2 →
        leAt body 16 4 + leAt body 20 4 ≤ mktWords past m → (mktWork past m.index).parts = [] → Leads (.stateMsg v) s (fun t =>
          rd t (stlReg mktStateRx) = satAdd (rd past (stlReg mktStateRx)) 1 ∧
          (mktWork t m.index).parts = [(leAt body 24 1, leAt body 16 4, leAt body 20 4)] ∧ (mktWork t m.index).loadRound = leAt body 0 8)))) ∧
  (∀ (s : State) (who : Requester) (site : Nat), Reaches s who → site < 4 →
    let keeper : Prop := isKeeper s = true ∧ isMasterSite s = true
    let command (t : State) : Prop := rd t (stlReg mktMktCmd) = site ∧ ∀ k, k ≠ stlReg mktMktCmd → rd t k = rd s k
    (keeper → Leads (.mktJoin who site) s (fun t => site ∈ t.market.joinReq ∧ command t ∧
      t = { s with regs := t.regs, market := { s.market with joinReq := t.market.joinReq } })) ∧
    (keeper → Leads (.mktLeave who site) s (fun t => site ∈ t.market.leaveReq ∧ command t ∧
      t = { s with regs := t.regs, market := { s.market with leaveReq := t.market.leaveReq } })) ∧
    (¬ keeper → ∀ c, c = Instr.mktJoin who site ∨ c = Instr.mktLeave who site → Leads c s (fun t =>
      rd t (intReg errErrCause + 4 * 4) = satAdd (rd s (intReg errErrCause + 4 * 4)) 1 ∧ rd t (intReg errErrLastArg) = stlReg mktMktCmd ∧
      t = { s with regs := t.regs, out := t.out })) ∧
    (∀ i, i.core = none → nextOf s 0x33 (fun p => leAt p.data 0 1 == 2) = some i → keeper →
      let e := (leAt i.pkt.data 8 8, leAt i.pkt.data 1 1, i.pkt.src)
      Leads .arrived s (fun t => e ∈ t.market.arrived ∧ (∀ x ∈ s.market.arrived, x ∈ t.market.arrived) ∧ t.inbox = s.inbox.erase i ∧ t.mem = s.mem)) ∧
    (∀ i v, i.core = none → nextOf s 0x33 (fun p => leAt p.data 0 1 != 2) = some i →
      (leAt i.pkt.data 0 1 = 1 → mktCount s = 0 → ledgerOf s (leAt (padTo 64 (i.pkt.data.drop 8)) 0 8) = none → Leads (.ledger v) s (fun t =>
        ledgerOf t (leAt (padTo 64 (i.pkt.data.drop 8)) 0 8) = some (padTo 64 (i.pkt.data.drop 8)) ∧ t.inbox = s.inbox.erase i)) ∧
      (leAt i.pkt.data 0 1 ≠ 1 → Leads (.ledger v) s (fun t =>
        rd t (intReg errErrCause + 4 * 0x10) = satAdd (rd s (intReg errErrCause + 4 * 0x10)) 1 ∧ t.inbox = s.inbox.erase i ∧ t.mem = s.mem))))

/-! ### Integrity -/

/-- CHECK_FAILURE_REPORT and PARITY_ERROR (R503, R511, R513): outside step work a parity error is counted and recorded; a fault in update work
of a bell that is known marks the bell, and the report that takes the bell's events says SUSPECT; one in contribution work opens a case; a
fault of a bell that is not known changes nothing; a failed residue check of a slot with an instance opens a RERUN (R502). HOLD, HOLD_ACK, REPLAY_REQ, REPLAY_END, VERDICT and CLOSE (R517 to R522, R526): a HOLD holds the suspect's case open
and is counted; a HOLD_ACK leaves one acknowledgement fewer; a replay request of an idle witness starts its replay program at the bell it
names; a finished replay asks for the suspect's digest record with a READ_REQ, whose answer is compared with the own record, counts the
replay, leaves the witness free and sends the VERDICT (that a record not read or poisoned is UNABLE is the model's choice, log entry 56); a
verdict of no open case is counted late, of one that waits for more it is
kept; a CLOSE of no held case changes nothing; a malformed notice is counted with cause 0x11. Notices carry no send credit of a core, so
`i.core = none`. -/
def Obligations.FaultsAndNotices : Prop :=
  (∀ (s : State) (r : FaultReport), live s = true →
    (∀ core unit desc, Leads (.parityError none core unit desc) s (fun t =>
      rd t (intReg intParityErr) = satAdd (rd s (intReg intParityErr)) 1 ∧
      t.recorder.queue.length + t.recorder.lost = s.recorder.queue.length + s.recorder.lost + 1 ∧ t = { s with regs := t.regs, recorder := t.recorder })) ∧
    (∀ n core unit desc, bellKnown s n = true → s.flaws = [] → mbEntry s n desc = none → Leads (.parityError (some n) core unit desc) s (fun t =>
      n ∈ t.integrity.updateFault ∧ t = { s with reports := t.reports, integrity := t.integrity })) ∧
    (r.cause ≠ 7 → bellKnown s r.bell = false → exec (.checkFailureReport r) s = .next s) ∧
    (r.cause = 7 → instanceOf s r.bell r.desc = none → exec (.checkFailureReport r) s = .next s) ∧
    (r.cause = 7 → (instanceOf s r.bell r.desc).isSome = true → Leads (.checkFailureReport r) s (fun t =>
      rd t (intReg intReruns) = satAdd (rd s (intReg intReruns)) 1 ∧ rd t (intReg intCasesOpened) = satAdd (rd s (intReg intCasesOpened)) 1 ∧
      flag t (intReg intIntEvent) 31 = true)) ∧
    (bellKnown s r.bell = true → 1 ≤ r.cause → r.cause ≤ 6 → r.cause ≠ 5 → s.flaws = [] → mbEntry s r.bell r.desc = none →
      Leads (.checkFailureReport r) s (fun t => r.bell ∈ t.integrity.updateFault ∧
        (∃ x ∈ t.reports, x.bell = reportBell s r.bell ∧ x.closed = false ∧ x.suspect = true) ∧
        t = { s with reports := t.reports, integrity := t.integrity })) ∧
    (bellKnown s r.bell = true → 1 ≤ r.cause → r.cause ≤ 6 → s.flaws = [] → (mbEntry s r.bell r.desc).isSome = true →
      s.integrity.cases = [] → Leads (.checkFailureReport r) s (fun t =>
        rd t (intReg intCasesOpened) = satAdd (rd s (intReg intCasesOpened)) 1 ∧ flag t (intReg intIntEvent) 31 = true ∧
        (s.instances = [] → t.mem = s.mem)))) ∧
  (∀ (s : State) (i : InPkt), live s = true → i.core = none →
    let n := Notice.ofBytes i.pkt.data
    let src := i.pkt.src
    let next (kind : Nat) : Prop := nextOf s 0x32 (fun p => !Notice.good p.data || leAt p.data 0 1 == kind) = some i ∧ Notice.good i.pkt.data = true
    (∀ c kind, (c, kind) ∈ [(Instr.hold, 1), (Instr.holdAck, 2), (Instr.replayReq, 3), (Instr.verdict, 4), (Instr.closeNotice, 5)] →
      nextOf s 0x32 (fun p => !Notice.good p.data || leAt p.data 0 1 == kind) = some i → Notice.good i.pkt.data = false → Leads c s (fun t =>
        rd t (intReg errErrCause + 4 * 0x11) = satAdd (rd s (intReg errErrCause + 4 * 0x11)) 1 ∧
        t = { s with regs := t.regs, out := t.out, inbox := s.inbox.erase i, ports := t.ports })) ∧
    (next 1 → Leads .hold s (fun t =>
      t.integrity.held = s.integrity.held ++ [⟨n.suspect, n.bell, n.num, n.group, n.dp⟩] ∧
      rd t (intReg intHoldsReceived) = satAdd (rd s (intReg intHoldsReceived)) 1 ∧ t.mem = s.mem)) ∧
    (∀ c, next 2 → s.integrity.cases = [c] → c.bell = n.bell → c.num = n.num → (c.acks.erase src ≠ [] ∨ c.asked = true) → Leads .holdAck s (fun t =>
        t.integrity.cases = [{ c with acks := c.acks.erase src }] ∧ t = { s with inbox := s.inbox.erase i, ports := t.ports, integrity := t.integrity })) ∧
    (next 3 → s.integrity.requests = [] →
      (s.integrity.replaying = none → Leads .replayReq s (fun t =>
        t.integrity.replaying = some n.bytes ∧ t.integrity.requests = [] ∧ ∃ p, t.witness = some p ∧ p.bell = n.bell ∧ p.next = 0 ∧ p.inflight = [])) ∧
      (∀ x, s.integrity.replaying = some x → Leads .replayReq s (fun t =>
        t.integrity.requests = [n.bytes] ∧ t = { s with inbox := s.inbox.erase i, ports := t.ports, integrity := t.integrity }))) ∧
    (∀ p req, s.witness = some p → s.integrity.replaying = some req → s.ports.length = 8 →
      let asked := Notice.ofBytes req
      let sent (t : State) (a : Packet) : Prop := (a.dst = ownXyz s → ∃ e ∈ t.inbox, e.pkt = a) ∧
        (∀ x < 8, ∀ cls, routeOf s a none 0 = .port x cls → ∃ e ∈ (portAt t x).txq, e.pkt = a ∧ e.cls = cls)
      (∀ digest tag, p.finished = true → readTag s 128 = some tag → (∀ q ∈ s.requests, q.kind ≠ .digest) → Leads (.replayEnd digest) s (fun t =>
        t.requests = s.requests ++ [{ tag := tag, kind := .digest, target := asked.suspect, read := true, dests := [] }] ∧
        sent t { barePacket 2 asked.suspect (ownXyz s) tag 0 with addr := asked.digests + 128 * asked.slotMb } ∧
        t.witness = s.witness ∧ t.integrity = s.integrity ∧ t.mem = s.mem)) ∧
      (∀ q, s.requests = [q] → q.kind = .digest → q.read = true → s.integrity.requests = [] → s.flaws = [] →
        (∀ x < 64, ∀ y ∈ (coreAt s x).mvOps, y.unasked = []) → nextOf s 0x10 (fun p => (requestOf s true p.tag p.src).isSome) = some i →
        let mine := readMem s.mem (ownDigestAt s p.bell) 128
        let theirs := i.pkt.data
        let kind := if i.pkt.status ≠ 0 ∨ i.pkt.poison ≠ 0 ∨ p.failed ≠ 0 ∨ rangePoisoned s (ownDigestAt s p.bell) 128 = true ∨
            (∃ c ∈ s.integrity.cases, c.bell = p.bell ∧ c.open_ = true) then 3
          else if mine.take 64 ≠ theirs.take 64 then 2 else if mine.drop 64 ≠ (padTo 128 theirs).drop 64 then 1 else 0
        Leads .readResp s (fun t => t.requests = [] ∧ t.witness = none ∧ t.integrity.replaying = none ∧
          rd t (intReg intReplaysRun) = satAdd (rd s (intReg intReplaysRun)) 1 ∧
          sent t (message s 0x32 asked.suspect 0 ({ asked with notice := 4, kind := kind } : Notice).bytes) ∧ t.mem = s.mem))) ∧
    (next 4 → s.integrity.cases.find? (fun c => c.bell == n.bell && c.num == n.num && c.open_) = none → Leads .verdict s (fun t =>
      rd t (intReg intLateVerdict) = satAdd (rd s (intReg intLateVerdict)) 1 ∧
      t = { s with regs := t.regs, inbox := s.inbox.erase i, ports := t.ports })) ∧
    (∀ c, next 4 → s.integrity.cases = [c] → c.bell = n.bell → c.num = n.num → c.open_ = true →
      (∃ m ∈ c.range, m ≠ n.slotMb ∧ ∀ v ∈ c.verdicts, v.1 ≠ m) → Leads .verdict s (fun t =>
        t.integrity.cases = [{ c with verdicts := c.verdicts.filter (fun v => v.1 != n.slotMb) ++ [(n.slotMb, n.kind)] }] ∧
        t = { s with inbox := s.inbox.erase i, ports := t.ports, integrity := t.integrity })) ∧
    (next 5 → s.integrity.held = [] → Leads .closeNotice s (fun t => t = { s with inbox := s.inbox.erase i, ports := t.ports })) ∧
    (next 5 → n.kind = 0 → s.integrity.held = [⟨n.suspect, n.bell, n.num, n.group, n.dp⟩] → s.instances = [] → s.integrity.pendingUse = [] →
      Leads .closeNotice s (fun t => t.integrity.held = [] ∧ t.mem = s.mem ∧ t.regs = s.regs)))

/-! ### The whole machine -/

/-- A step takes the command at the front of the queue and answers what exec answers with the queue's rest; with nothing waiting one clock
passes, in which the arrays of every core read the bytes of that clock and a port where a packet waits for a credit counts the clock (the model's
choice, log entry 1): the time is one more, and where no array loads weights or runs a pass and no packet waits nothing else changes. -/
def Obligations.StepRunsFrontCommand : Prop :=
  (∀ (s : State) (c : Instr) (rest : List Instr), s.pending = c :: rest → step s = exec c { s with pending := rest }) ∧
  (∀ s : State, s.pending = [] → step s = .next (idleClock s) ∧ (idleClock s).now = s.now + 1 ∧
    ((∀ c < 64, (coreAt s c).loading = none ∧ (coreAt s c).pass = none) →
      (∀ p < 8, rd (idleClock s) (portReg p portCreditStall) = satAdd (rd s (portReg p portCreditStall)) (b2n (creditWaits s p))) ∧
      ((∀ p < 8, creditWaits s p = false) → idleClock s = { s with now := s.now + 1 })))

/-- Every command completes in every state: exec answers a next state, never a fault or a refusal, and leaves the queue of waiting commands as
it is. -/
def Obligations.EveryCommandCompletes : Prop :=
  ∀ (c : Instr) (s : State), ∃ t, exec c s = .next t ∧ t.pending = s.pending

/-- Time never runs back, and what has left the module stays in the record of what left it: every command only adds to it. -/
def Obligations.TimeAndOutputsOnlyGrow : Prop :=
  ∀ (c : Instr) (s t : State), exec c s = .next t → s.now ≤ t.now ∧ s.out <+: t.out

/-- The state after reset is sound, every register reads its reset value, and nothing is waiting, stored, poisoned, wrong, armed or in flight. -/
def Obligations.ResetIsSound : Prop :=
  State.reset.Sound ∧ (∀ k, rd State.reset k = (BitVec.ofNat 32 (regReset k)).toNat) ∧ State.reset.pending = [] ∧ State.reset.mem = [] ∧
  State.reset.poison = [] ∧ State.reset.flaws = [] ∧ State.reset.inbox = [] ∧ State.reset.instances = [] ∧ State.reset.bell.armed = none ∧
  (∀ c < 64, ∀ u sl, progOf State.reset c u sl = none) ∧ (∀ r < 64, ringEnabled State.reset r = false) ∧
  (∀ c < 64, ∀ n < 64, tally State.reset c n = 0) ∧ bellNum State.reset = 0

/-- Every step keeps the state sound: memory and registers in canonical form, the poison marks rising, and the module's 64 cores, 64 rings, 32
channels, 8 ports and 5 cipher banks. -/
def Obligations.StepKeepsSound : Prop :=
  ∀ s t : State, step s = .next t → s.Sound → t.Sound
end

