-- ==== Sys2Proof/Laws/Sparse.lean ====
section
/-! SUPPORT. Laws of sparse maps and of rising lists: what a read gives after a write, and that writes keep the canonical form. -/

namespace Sys2Proof.Machine

/-- A sparse map in canonical form: keys strictly rising and the default not listed. -/
def Sparse.Canonical {α : Type} (d : α) (m : Sparse α) : Prop := m.Pairwise (fun x y => x.1 < y.1) ∧ ∀ e ∈ m, e.2 ≠ d

theorem find_filter_ne {α : Type} (m : Sparse α) (k : Nat) (p : Nat × α → Bool) (h : ∀ e ∈ m, e.1 = k → p e = true) :
    (m.filter p).find? (fun e => e.1 == k) = m.find? (fun e => e.1 == k) := by
  induction m with
  | nil => rfl
  | cons x xs ih =>
    have ih := ih (fun e he => h e (List.mem_cons_of_mem _ he))
    by_cases hx : x.1 = k
    · have := h x List.mem_cons_self hx
      simp [this, hx]
    · by_cases hp : p x = true <;> simp [hp, hx, ih]

theorem find_filter_none {α : Type} (m : Sparse α) (k : Nat) (p : Nat × α → Bool) (h : ∀ e ∈ m, e.1 = k → p e = false) :
    (m.filter p).find? (fun e => e.1 == k) = none := by
  rw [List.find?_eq_none]
  intro e he
  have ⟨h1, h2⟩ := List.mem_filter.mp he
  intro hk
  have := h e h1 (by simpa using hk)
  simp [this] at h2

@[simp] theorem sget_sput_same {α : Type} [DecidableEq α] (d : α) (m : Sparse α) (k : Nat) (v : α) : sget d (sput d m k v) k = v := by
  have h1 : (m.filter (fun e => decide (e.1 < k))).find? (fun e => e.1 == k) = none := find_filter_none _ _ _ (by intro e _ h; simp [h])
  have h2 : (m.filter (fun e => decide (k < e.1))).find? (fun e => e.1 == k) = none := find_filter_none _ _ _ (by intro e _ h; simp [h])
  by_cases hv : v = d <;> simp [sget, sput, List.find?_append, h1, h2, hv]

theorem sget_sput_ne {α : Type} [DecidableEq α] (d d' : α) (m : Sparse α) (k j : Nat) (v : α) (h : j ≠ k) :
    sget d (sput d' m k v) j = sget d m j := by
  have hm : (if v = d' then [] else [(k, v)] : Sparse α).find? (fun e => e.1 == j) = none := by
    split <;> simp [Ne.symm h]
  rcases lt_or_gt_of_ne h with hl | hl
  · have h1 : (m.filter (fun e => decide (e.1 < k))).find? (fun e => e.1 == j) = m.find? (fun e => e.1 == j) :=
      find_filter_ne _ _ _ (by intro e _ he; simp [he, hl])
    have h2 : (m.filter (fun e => decide (k < e.1))).find? (fun e => e.1 == j) = none :=
      find_filter_none _ _ _ (by intro e _ he; simp [he]; omega)
    simp [sget, sput, List.find?_append, h1, h2, hm]
  · have h1 : (m.filter (fun e => decide (e.1 < k))).find? (fun e => e.1 == j) = none :=
      find_filter_none _ _ _ (by intro e _ he; simp [he]; omega)
    have h2 : (m.filter (fun e => decide (k < e.1))).find? (fun e => e.1 == j) = m.find? (fun e => e.1 == j) :=
      find_filter_ne _ _ _ (by intro e _ he; simp [he, hl])
    simp [sget, sput, List.find?_append, h1, h2, hm]

/-- A write keeps the canonical form. -/
theorem sput_canonical {α : Type} [DecidableEq α] (d : α) (m : Sparse α) (k : Nat) (v : α) (h : Sparse.Canonical d m) :
    Sparse.Canonical d (sput d m k v) := by
  obtain ⟨h1, h2⟩ := h
  constructor
  · unfold sput
    rw [List.pairwise_append, List.pairwise_append]
    refine ⟨⟨h1.filter _, by split <;> simp, ?_⟩, h1.filter _, ?_⟩
    · intro a ha b hb
      have ha := (List.mem_filter.mp ha).2
      split at hb
      · simp at hb
      · simp at hb ha; subst hb; exact ha
    · intro a ha b hb
      have hb := (List.mem_filter.mp hb).2
      simp at hb
      rcases List.mem_append.mp ha with ha | ha
      · have := (List.mem_filter.mp ha).2; simp at this; omega
      · split at ha
        · simp at ha
        · simp at ha; subst ha; exact hb
  · intro e he
    unfold sput at he
    simp only [List.mem_append] at he
    rcases he with (he | he) | he
    · exact h2 e (List.mem_of_mem_filter he)
    · split at he
      · simp at he
      · rename_i hv; simp at he; subst he; exact hv
    · exact h2 e (List.mem_of_mem_filter he)

/-- Numbers strictly rising. -/
def Rising (m : List Nat) : Prop := m.Pairwise (· < ·)

@[simp] theorem mem_setIns (m : List Nat) (k j : Nat) : j ∈ setIns m k ↔ j = k ∨ j ∈ m := by
  simp only [setIns, List.mem_append, List.mem_filter, List.mem_singleton]
  constructor
  · rintro ((h | h) | h) <;> simp_all
  · rintro (h | h)
    · exact Or.inl (Or.inr h)
    · rcases lt_trichotomy j k with hl | hl | hl
      · exact Or.inl (Or.inl ⟨h, by simpa using hl⟩)
      · exact Or.inl (Or.inr hl)
      · exact Or.inr ⟨h, by simpa using hl⟩

@[simp] theorem mem_setDel (m : List Nat) (k j : Nat) : j ∈ setDel m k ↔ j ∈ m ∧ j ≠ k := by
  simp [setDel, List.mem_filter]

theorem setIns_rising (m : List Nat) (k : Nat) (h : Rising m) : Rising (setIns m k) := by
  unfold Rising setIns
  rw [List.pairwise_append, List.pairwise_append]
  refine ⟨⟨List.Pairwise.filter _ h, by simp, ?_⟩, List.Pairwise.filter _ h, ?_⟩
  · intro a ha b hb
    have := (List.mem_filter.mp ha).2
    simp at this hb; omega
  · intro a ha b hb
    have hb := (List.mem_filter.mp hb).2
    simp at hb
    rcases List.mem_append.mp ha with ha | ha
    · have := (List.mem_filter.mp ha).2; simp at this; omega
    · simp at ha; omega

theorem setDel_rising (m : List Nat) (k : Nat) (h : Rising m) : Rising (setDel m k) := List.Pairwise.filter _ h

end Sys2Proof.Machine
end

