-- ==== Sys2Proof/Laws/Memory.lean ====
section
/-! SUPPORT. Laws of memory: a write keeps the canonical form, a read after a write gives what was written, and every other byte keeps its
value. -/

namespace Sys2Proof.Machine

theorem Memory.wf_iff (m : List Host.Cell) : Memory.wf m = true ↔ m.Pairwise (fun x y => x.1 < y.1) ∧ ∀ c ∈ m, c.2 ≠ 0 := by
  simp [Memory.wf]

theorem cellsOf_range (bs : List Byte) : ∀ a, ∀ c ∈ cellsOf a bs, a ≤ c.1 ∧ c.1 < a + bs.length ∧ c.2 ≠ 0 := by
  induction bs with
  | nil => simp [cellsOf]
  | cons b bs ih =>
    intro a c hc
    unfold cellsOf at hc
    split at hc
    · have := ih (a + 1) c hc; exact ⟨by omega, by simp; omega, this.2.2⟩
    · rename_i hb
      rcases List.mem_cons.mp hc with h | h
      · subst h; exact ⟨Nat.le_refl _, by simp, hb⟩
      · have := ih (a + 1) c h; exact ⟨by omega, by simp; omega, this.2.2⟩

theorem cellsOf_pairwise (bs : List Byte) : ∀ a, (cellsOf a bs).Pairwise (fun x y => x.1 < y.1) := by
  induction bs with
  | nil => simp [cellsOf]
  | cons b bs ih =>
    intro a
    unfold cellsOf
    split
    · exact ih _
    · rw [List.pairwise_cons]
      refine ⟨?_, ih _⟩
      intro c hc
      have := cellsOf_range bs (a + 1) c hc
      simp; omega

/-- A write keeps memory canonical. -/
theorem writeMem_wf (m : List Host.Cell) (a : Nat) (bs : List Byte) (h : Memory.wf m = true) : Memory.wf (writeMem m a bs) = true := by
  rw [Memory.wf_iff] at h ⊢
  obtain ⟨h1, h2⟩ := h
  unfold writeMem
  constructor
  · rw [List.pairwise_append, List.pairwise_append]
    refine ⟨⟨h1.filter _, cellsOf_pairwise bs a, ?_⟩, h1.filter _, ?_⟩
    · intro x hx y hy
      have hx := (List.mem_filter.mp hx).2
      have := cellsOf_range bs a y hy
      simp at hx; omega
    · intro x hx y hy
      have hy := (List.mem_filter.mp hy).2
      simp at hy
      rcases List.mem_append.mp hx with hx | hx
      · have := (List.mem_filter.mp hx).2; simp at this; omega
      · have := cellsOf_range bs a x hx; omega
  · intro c hc
    simp only [List.mem_append] at hc
    rcases hc with (hc | hc) | hc
    · exact h2 c (List.mem_of_mem_filter hc)
    · exact (cellsOf_range bs a c hc).2.2
    · exact h2 c (List.mem_of_mem_filter hc)

theorem find_cellsOf (bs : List Byte) : ∀ a i, i < bs.length →
    (((cellsOf a bs).find? (fun c => c.1 == a + i)).map (·.2)).getD 0 = bs.getD i 0 := by
  induction bs with
  | nil => simp
  | cons b bs ih =>
    intro a i hi
    unfold cellsOf
    cases i with
    | zero =>
      split
      · rename_i hb
        have : (cellsOf (a + 1) bs).find? (fun c => c.1 == a + 0) = none := by
          rw [List.find?_eq_none]; intro c hc; have := cellsOf_range bs (a + 1) c hc; simp; omega
        rw [this]; simp [hb]
      · simp
    | succ i =>
      have hi : i < bs.length := by simpa using hi
      have h := ih (a + 1) i hi
      have e : a + 1 + i = a + (i + 1) := by omega
      rw [e] at h
      split
      · simpa using h
      · rw [List.find?_cons_of_neg (by simp)]; simpa using h

/-- A byte inside what was written reads as written. -/
theorem readByte_writeMem_in (m : List Host.Cell) (a i : Nat) (bs : List Byte) (hi : i < bs.length) :
    readByte (writeMem m a bs) (a + i) = bs.getD i 0 := by
  have h1 : (m.filter (fun c => decide (c.1 < a))).find? (fun c => c.1 == a + i) = none :=
    find_filter_none m (a + i) _ (by intro e _ he; simp [he])
  have h2 : (m.filter (fun c => decide (a + bs.length ≤ c.1))).find? (fun c => c.1 == a + i) = none :=
    find_filter_none m (a + i) _ (by intro e _ he; simp [he]; omega)
  have h3 := find_cellsOf bs a i hi
  unfold readByte sget writeMem
  rw [List.find?_append, List.find?_append, h1, h2]
  simp only [Option.none_or, Option.or_none]
  rw [← h3]
  cases (cellsOf a bs).find? (fun c => c.1 == a + i) <;> simp

/-- A byte outside what was written keeps its value. -/
theorem readByte_writeMem_out (m : List Host.Cell) (a x : Nat) (bs : List Byte) (hx : x < a ∨ a + bs.length ≤ x) :
    readByte (writeMem m a bs) x = readByte m x := by
  have h3 : (cellsOf a bs).find? (fun c => c.1 == x) = none := by
    rw [List.find?_eq_none]; intro c hc; have := cellsOf_range bs a c hc; simp; omega
  unfold readByte sget writeMem
  rw [List.find?_append, List.find?_append, h3]
  rcases hx with hx | hx
  · have h1 : (m.filter (fun c => decide (c.1 < a))).find? (fun c => c.1 == x) = m.find? (fun c => c.1 == x) :=
      find_filter_ne m x _ (by intro e _ he; simp [he, hx])
    have h2 : (m.filter (fun c => decide (a + bs.length ≤ c.1))).find? (fun c => c.1 == x) = none :=
      find_filter_none m x _ (by intro e _ he; simp [he]; omega)
    simp [h1, h2]
  · have h1 : (m.filter (fun c => decide (c.1 < a))).find? (fun c => c.1 == x) = none :=
      find_filter_none m x _ (by intro e _ he; simp [he]; omega)
    have h2 : (m.filter (fun c => decide (a + bs.length ≤ c.1))).find? (fun c => c.1 == x) = m.find? (fun c => c.1 == x) :=
      find_filter_ne m x _ (by intro e _ he; simp [he, hx])
    simp [h1, h2]

/-- Reading a range reads its bytes. -/
theorem readMem_eq (m : List Host.Cell) (a len : Nat) : readMem m a len = (List.range len).map (fun i => readByte m (a + i)) := by
  unfold readMem
  simp only
  have key : ∀ i, i < len → readByte (m.filter (fun c => decide (a ≤ c.1) && decide (c.1 < a + len))) (a + i) = readByte m (a + i) := by
    intro i hi
    unfold readByte sget
    rw [find_filter_ne m (a + i) _ (by intro e _ he; simp [he, hi])]
  split
  · rename_i he
    apply List.ext_getElem
    · simp
    · intro i h1 h2
      have hi : i < len := by simpa using h2
      have := key i hi
      rw [List.isEmpty_iff.mp he] at this
      simp only [List.getElem_replicate, List.getElem_map, List.getElem_range]
      rw [← this]; rfl
  · apply List.map_congr_left
    intro i hi
    exact key i (by simpa using hi)

@[simp] theorem readMem_length (m : List Host.Cell) (a len : Nat) : (readMem m a len).length = len := by simp [readMem_eq]

/-- What was written is read back. -/
theorem readMem_writeMem_same (m : List Host.Cell) (a : Nat) (bs : List Byte) : readMem (writeMem m a bs) a bs.length = bs := by
  rw [readMem_eq]
  apply List.ext_getElem
  · simp
  · intro i h1 h2
    simp only [List.getElem_map, List.getElem_range]
    rw [readByte_writeMem_in m a i bs h2]
    simp [List.getD_eq_getElem?_getD, h2]

/-- Ranges apart from what was written read as before. -/
theorem readMem_writeMem_apart (m : List Host.Cell) (a x len : Nat) (bs : List Byte) (h : x + len ≤ a ∨ a + bs.length ≤ x) :
    readMem (writeMem m a bs) x len = readMem m x len := by
  rw [readMem_eq, readMem_eq]
  apply List.map_congr_left
  intro i hi
  have hi : i < len := by simpa using hi
  exact readByte_writeMem_out m a (x + i) bs (by omega)

end Sys2Proof.Machine
end

