-- ==== Sys2Proof/Laws/State.lean ====
section
/-! SUPPORT. The primitive updates of the state, one lemma for each field they leave alone, and what they give of the field they change. -/

namespace Sys2Proof.Machine

@[simp] theorem wr_now (s : State) (k v : Nat) : (wr s k v).now = s.now := rfl
@[simp] theorem wr_draws (s : State) (k v : Nat) : (wr s k v).draws = s.draws := rfl
@[simp] theorem wr_started (s : State) (k v : Nat) : (wr s k v).started = s.started := rfl
@[simp] theorem wr_pending (s : State) (k v : Nat) : (wr s k v).pending = s.pending := rfl
@[simp] theorem wr_out (s : State) (k v : Nat) : (wr s k v).out = s.out := rfl
@[simp] theorem wr_power (s : State) (k v : Nat) : (wr s k v).power = s.power := rfl
@[simp] theorem wr_recorder (s : State) (k v : Nat) : (wr s k v).recorder = s.recorder := rfl
@[simp] theorem wr_manage (s : State) (k v : Nat) : (wr s k v).manage = s.manage := rfl
@[simp] theorem wr_mem (s : State) (k v : Nat) : (wr s k v).mem = s.mem := rfl
@[simp] theorem wr_poison (s : State) (k v : Nat) : (wr s k v).poison = s.poison := rfl
@[simp] theorem wr_frc (s : State) (k v : Nat) : (wr s k v).frc = s.frc := rfl
@[simp] theorem wr_flaws (s : State) (k v : Nat) : (wr s k v).flaws = s.flaws := rfl
@[simp] theorem wr_latches (s : State) (k v : Nat) : (wr s k v).latches = s.latches := rfl
@[simp] theorem wr_pendingHalf (s : State) (k v : Nat) : (wr s k v).pendingHalf = s.pendingHalf := rfl
@[simp] theorem wr_activeHalf (s : State) (k v : Nat) : (wr s k v).activeHalf = s.activeHalf := rfl
@[simp] theorem wr_held (s : State) (k v : Nat) : (wr s k v).held = s.held := rfl
@[simp] theorem wr_history (s : State) (k v : Nat) : (wr s k v).history = s.history := rfl
@[simp] theorem wr_tensors (s : State) (k v : Nat) : (wr s k v).tensors = s.tensors := rfl
@[simp] theorem wr_cores (s : State) (k v : Nat) : (wr s k v).cores = s.cores := rfl
@[simp] theorem wr_channels (s : State) (k v : Nat) : (wr s k v).channels = s.channels := rfl
@[simp] theorem wr_rings (s : State) (k v : Nat) : (wr s k v).rings = s.rings := rfl
@[simp] theorem wr_replays (s : State) (k v : Nat) : (wr s k v).replays = s.replays := rfl
@[simp] theorem wr_reports (s : State) (k v : Nat) : (wr s k v).reports = s.reports := rfl
@[simp] theorem wr_witness (s : State) (k v : Nat) : (wr s k v).witness = s.witness := rfl
@[simp] theorem wr_bell (s : State) (k v : Nat) : (wr s k v).bell = s.bell := rfl
@[simp] theorem wr_ports (s : State) (k v : Nat) : (wr s k v).ports = s.ports := rfl
@[simp] theorem wr_inbox (s : State) (k v : Nat) : (wr s k v).inbox = s.inbox := rfl
@[simp] theorem wr_requests (s : State) (k v : Nat) : (wr s k v).requests = s.requests := rfl
@[simp] theorem wr_expired (s : State) (k v : Nat) : (wr s k v).expired = s.expired := rfl
@[simp] theorem wr_nextTag (s : State) (k v : Nat) : (wr s k v).nextTag = s.nextTag := rfl
@[simp] theorem wr_inMsgs (s : State) (k v : Nat) : (wr s k v).inMsgs = s.inMsgs := rfl
@[simp] theorem wr_withheld (s : State) (k v : Nat) : (wr s k v).withheld = s.withheld := rfl
@[simp] theorem wr_routed (s : State) (k v : Nat) : (wr s k v).routed = s.routed := rfl
@[simp] theorem wr_buckets (s : State) (k v : Nat) : (wr s k v).buckets = s.buckets := rfl
@[simp] theorem wr_instances (s : State) (k v : Nat) : (wr s k v).instances = s.instances := rfl
@[simp] theorem wr_summaries (s : State) (k v : Nat) : (wr s k v).summaries = s.summaries := rfl
@[simp] theorem wr_fallen (s : State) (k v : Nat) : (wr s k v).fallen = s.fallen := rfl
@[simp] theorem wr_partners (s : State) (k v : Nat) : (wr s k v).partners = s.partners := rfl
@[simp] theorem wr_roads (s : State) (k v : Nat) : (wr s k v).roads = s.roads := rfl
@[simp] theorem wr_gateways (s : State) (k v : Nat) : (wr s k v).gateways = s.gateways := rfl
@[simp] theorem wr_assemblies (s : State) (k v : Nat) : (wr s k v).assemblies = s.assemblies := rfl
@[simp] theorem wr_banks (s : State) (k v : Nat) : (wr s k v).banks = s.banks := rfl
@[simp] theorem wr_market (s : State) (k v : Nat) : (wr s k v).market = s.market := rfl
@[simp] theorem wr_integrity (s : State) (k v : Nat) : (wr s k v).integrity = s.integrity := rfl
@[simp] theorem wr_watch (s : State) (k v : Nat) : (wr s k v).watch = s.watch := rfl
@[simp] theorem wr_diffs (s : State) (k v : Nat) : (wr s k v).diffs = s.diffs := rfl
@[simp] theorem wr_flipWait (s : State) (k v : Nat) : (wr s k v).flipWait = s.flipWait := rfl
@[simp] theorem wr_handWait (s : State) (k v : Nat) : (wr s k v).handWait = s.handWait := rfl
@[simp] theorem wr_torusCounted (s : State) (k v : Nat) : (wr s k v).torusCounted = s.torusCounted := rfl

@[simp] theorem emit_now (s : State) (o : Out) : (emit s o).now = s.now := rfl
@[simp] theorem emit_draws (s : State) (o : Out) : (emit s o).draws = s.draws := rfl
@[simp] theorem emit_started (s : State) (o : Out) : (emit s o).started = s.started := rfl
@[simp] theorem emit_pending (s : State) (o : Out) : (emit s o).pending = s.pending := rfl
@[simp] theorem emit_power (s : State) (o : Out) : (emit s o).power = s.power := rfl
@[simp] theorem emit_recorder (s : State) (o : Out) : (emit s o).recorder = s.recorder := rfl
@[simp] theorem emit_manage (s : State) (o : Out) : (emit s o).manage = s.manage := rfl
@[simp] theorem emit_mem (s : State) (o : Out) : (emit s o).mem = s.mem := rfl
@[simp] theorem emit_poison (s : State) (o : Out) : (emit s o).poison = s.poison := rfl
@[simp] theorem emit_frc (s : State) (o : Out) : (emit s o).frc = s.frc := rfl
@[simp] theorem emit_flaws (s : State) (o : Out) : (emit s o).flaws = s.flaws := rfl
@[simp] theorem emit_regs (s : State) (o : Out) : (emit s o).regs = s.regs := rfl
@[simp] theorem emit_latches (s : State) (o : Out) : (emit s o).latches = s.latches := rfl
@[simp] theorem emit_pendingHalf (s : State) (o : Out) : (emit s o).pendingHalf = s.pendingHalf := rfl
@[simp] theorem emit_activeHalf (s : State) (o : Out) : (emit s o).activeHalf = s.activeHalf := rfl
@[simp] theorem emit_held (s : State) (o : Out) : (emit s o).held = s.held := rfl
@[simp] theorem emit_history (s : State) (o : Out) : (emit s o).history = s.history := rfl
@[simp] theorem emit_tensors (s : State) (o : Out) : (emit s o).tensors = s.tensors := rfl
@[simp] theorem emit_cores (s : State) (o : Out) : (emit s o).cores = s.cores := rfl
@[simp] theorem emit_channels (s : State) (o : Out) : (emit s o).channels = s.channels := rfl
@[simp] theorem emit_rings (s : State) (o : Out) : (emit s o).rings = s.rings := rfl
@[simp] theorem emit_replays (s : State) (o : Out) : (emit s o).replays = s.replays := rfl
@[simp] theorem emit_reports (s : State) (o : Out) : (emit s o).reports = s.reports := rfl
@[simp] theorem emit_witness (s : State) (o : Out) : (emit s o).witness = s.witness := rfl
@[simp] theorem emit_bell (s : State) (o : Out) : (emit s o).bell = s.bell := rfl
@[simp] theorem emit_ports (s : State) (o : Out) : (emit s o).ports = s.ports := rfl
@[simp] theorem emit_inbox (s : State) (o : Out) : (emit s o).inbox = s.inbox := rfl
@[simp] theorem emit_requests (s : State) (o : Out) : (emit s o).requests = s.requests := rfl
@[simp] theorem emit_expired (s : State) (o : Out) : (emit s o).expired = s.expired := rfl
@[simp] theorem emit_nextTag (s : State) (o : Out) : (emit s o).nextTag = s.nextTag := rfl
@[simp] theorem emit_inMsgs (s : State) (o : Out) : (emit s o).inMsgs = s.inMsgs := rfl
@[simp] theorem emit_withheld (s : State) (o : Out) : (emit s o).withheld = s.withheld := rfl
@[simp] theorem emit_routed (s : State) (o : Out) : (emit s o).routed = s.routed := rfl
@[simp] theorem emit_buckets (s : State) (o : Out) : (emit s o).buckets = s.buckets := rfl
@[simp] theorem emit_instances (s : State) (o : Out) : (emit s o).instances = s.instances := rfl
@[simp] theorem emit_summaries (s : State) (o : Out) : (emit s o).summaries = s.summaries := rfl
@[simp] theorem emit_fallen (s : State) (o : Out) : (emit s o).fallen = s.fallen := rfl
@[simp] theorem emit_partners (s : State) (o : Out) : (emit s o).partners = s.partners := rfl
@[simp] theorem emit_roads (s : State) (o : Out) : (emit s o).roads = s.roads := rfl
@[simp] theorem emit_gateways (s : State) (o : Out) : (emit s o).gateways = s.gateways := rfl
@[simp] theorem emit_assemblies (s : State) (o : Out) : (emit s o).assemblies = s.assemblies := rfl
@[simp] theorem emit_banks (s : State) (o : Out) : (emit s o).banks = s.banks := rfl
@[simp] theorem emit_market (s : State) (o : Out) : (emit s o).market = s.market := rfl
@[simp] theorem emit_integrity (s : State) (o : Out) : (emit s o).integrity = s.integrity := rfl
@[simp] theorem emit_watch (s : State) (o : Out) : (emit s o).watch = s.watch := rfl
@[simp] theorem emit_diffs (s : State) (o : Out) : (emit s o).diffs = s.diffs := rfl
@[simp] theorem emit_flipWait (s : State) (o : Out) : (emit s o).flipWait = s.flipWait := rfl
@[simp] theorem emit_handWait (s : State) (o : Out) : (emit s o).handWait = s.handWait := rfl
@[simp] theorem emit_torusCounted (s : State) (o : Out) : (emit s o).torusCounted = s.torusCounted := rfl

@[simp] theorem modCore_now (s : State) (c : Nat) (f : Core → Core) : (modCore s c f).now = s.now := rfl
@[simp] theorem modCore_draws (s : State) (c : Nat) (f : Core → Core) : (modCore s c f).draws = s.draws := rfl
@[simp] theorem modCore_started (s : State) (c : Nat) (f : Core → Core) : (modCore s c f).started = s.started := rfl
@[simp] theorem modCore_pending (s : State) (c : Nat) (f : Core → Core) : (modCore s c f).pending = s.pending := rfl
@[simp] theorem modCore_out (s : State) (c : Nat) (f : Core → Core) : (modCore s c f).out = s.out := rfl
@[simp] theorem modCore_power (s : State) (c : Nat) (f : Core → Core) : (modCore s c f).power = s.power := rfl
@[simp] theorem modCore_recorder (s : State) (c : Nat) (f : Core → Core) : (modCore s c f).recorder = s.recorder := rfl
@[simp] theorem modCore_manage (s : State) (c : Nat) (f : Core → Core) : (modCore s c f).manage = s.manage := rfl
@[simp] theorem modCore_mem (s : State) (c : Nat) (f : Core → Core) : (modCore s c f).mem = s.mem := rfl
@[simp] theorem modCore_poison (s : State) (c : Nat) (f : Core → Core) : (modCore s c f).poison = s.poison := rfl
@[simp] theorem modCore_frc (s : State) (c : Nat) (f : Core → Core) : (modCore s c f).frc = s.frc := rfl
@[simp] theorem modCore_flaws (s : State) (c : Nat) (f : Core → Core) : (modCore s c f).flaws = s.flaws := rfl
@[simp] theorem modCore_regs (s : State) (c : Nat) (f : Core → Core) : (modCore s c f).regs = s.regs := rfl
@[simp] theorem modCore_latches (s : State) (c : Nat) (f : Core → Core) : (modCore s c f).latches = s.latches := rfl
@[simp] theorem modCore_pendingHalf (s : State) (c : Nat) (f : Core → Core) : (modCore s c f).pendingHalf = s.pendingHalf := rfl
@[simp] theorem modCore_activeHalf (s : State) (c : Nat) (f : Core → Core) : (modCore s c f).activeHalf = s.activeHalf := rfl
@[simp] theorem modCore_held (s : State) (c : Nat) (f : Core → Core) : (modCore s c f).held = s.held := rfl
@[simp] theorem modCore_history (s : State) (c : Nat) (f : Core → Core) : (modCore s c f).history = s.history := rfl
@[simp] theorem modCore_tensors (s : State) (c : Nat) (f : Core → Core) : (modCore s c f).tensors = s.tensors := rfl
@[simp] theorem modCore_channels (s : State) (c : Nat) (f : Core → Core) : (modCore s c f).channels = s.channels := rfl
@[simp] theorem modCore_rings (s : State) (c : Nat) (f : Core → Core) : (modCore s c f).rings = s.rings := rfl
@[simp] theorem modCore_replays (s : State) (c : Nat) (f : Core → Core) : (modCore s c f).replays = s.replays := rfl
@[simp] theorem modCore_reports (s : State) (c : Nat) (f : Core → Core) : (modCore s c f).reports = s.reports := rfl
@[simp] theorem modCore_witness (s : State) (c : Nat) (f : Core → Core) : (modCore s c f).witness = s.witness := rfl
@[simp] theorem modCore_bell (s : State) (c : Nat) (f : Core → Core) : (modCore s c f).bell = s.bell := rfl
@[simp] theorem modCore_ports (s : State) (c : Nat) (f : Core → Core) : (modCore s c f).ports = s.ports := rfl
@[simp] theorem modCore_inbox (s : State) (c : Nat) (f : Core → Core) : (modCore s c f).inbox = s.inbox := rfl
@[simp] theorem modCore_requests (s : State) (c : Nat) (f : Core → Core) : (modCore s c f).requests = s.requests := rfl
@[simp] theorem modCore_expired (s : State) (c : Nat) (f : Core → Core) : (modCore s c f).expired = s.expired := rfl
@[simp] theorem modCore_nextTag (s : State) (c : Nat) (f : Core → Core) : (modCore s c f).nextTag = s.nextTag := rfl
@[simp] theorem modCore_inMsgs (s : State) (c : Nat) (f : Core → Core) : (modCore s c f).inMsgs = s.inMsgs := rfl
@[simp] theorem modCore_withheld (s : State) (c : Nat) (f : Core → Core) : (modCore s c f).withheld = s.withheld := rfl
@[simp] theorem modCore_routed (s : State) (c : Nat) (f : Core → Core) : (modCore s c f).routed = s.routed := rfl
@[simp] theorem modCore_buckets (s : State) (c : Nat) (f : Core → Core) : (modCore s c f).buckets = s.buckets := rfl
@[simp] theorem modCore_instances (s : State) (c : Nat) (f : Core → Core) : (modCore s c f).instances = s.instances := rfl
@[simp] theorem modCore_summaries (s : State) (c : Nat) (f : Core → Core) : (modCore s c f).summaries = s.summaries := rfl
@[simp] theorem modCore_fallen (s : State) (c : Nat) (f : Core → Core) : (modCore s c f).fallen = s.fallen := rfl
@[simp] theorem modCore_partners (s : State) (c : Nat) (f : Core → Core) : (modCore s c f).partners = s.partners := rfl
@[simp] theorem modCore_roads (s : State) (c : Nat) (f : Core → Core) : (modCore s c f).roads = s.roads := rfl
@[simp] theorem modCore_gateways (s : State) (c : Nat) (f : Core → Core) : (modCore s c f).gateways = s.gateways := rfl
@[simp] theorem modCore_assemblies (s : State) (c : Nat) (f : Core → Core) : (modCore s c f).assemblies = s.assemblies := rfl
@[simp] theorem modCore_banks (s : State) (c : Nat) (f : Core → Core) : (modCore s c f).banks = s.banks := rfl
@[simp] theorem modCore_market (s : State) (c : Nat) (f : Core → Core) : (modCore s c f).market = s.market := rfl
@[simp] theorem modCore_integrity (s : State) (c : Nat) (f : Core → Core) : (modCore s c f).integrity = s.integrity := rfl
@[simp] theorem modCore_watch (s : State) (c : Nat) (f : Core → Core) : (modCore s c f).watch = s.watch := rfl
@[simp] theorem modCore_diffs (s : State) (c : Nat) (f : Core → Core) : (modCore s c f).diffs = s.diffs := rfl
@[simp] theorem modCore_flipWait (s : State) (c : Nat) (f : Core → Core) : (modCore s c f).flipWait = s.flipWait := rfl
@[simp] theorem modCore_handWait (s : State) (c : Nat) (f : Core → Core) : (modCore s c f).handWait = s.handWait := rfl
@[simp] theorem modCore_torusCounted (s : State) (c : Nat) (f : Core → Core) : (modCore s c f).torusCounted = s.torusCounted := rfl

@[simp] theorem modPort_now (s : State) (p : Nat) (f : Port → Port) : (modPort s p f).now = s.now := rfl
@[simp] theorem modPort_draws (s : State) (p : Nat) (f : Port → Port) : (modPort s p f).draws = s.draws := rfl
@[simp] theorem modPort_started (s : State) (p : Nat) (f : Port → Port) : (modPort s p f).started = s.started := rfl
@[simp] theorem modPort_pending (s : State) (p : Nat) (f : Port → Port) : (modPort s p f).pending = s.pending := rfl
@[simp] theorem modPort_out (s : State) (p : Nat) (f : Port → Port) : (modPort s p f).out = s.out := rfl
@[simp] theorem modPort_power (s : State) (p : Nat) (f : Port → Port) : (modPort s p f).power = s.power := rfl
@[simp] theorem modPort_recorder (s : State) (p : Nat) (f : Port → Port) : (modPort s p f).recorder = s.recorder := rfl
@[simp] theorem modPort_manage (s : State) (p : Nat) (f : Port → Port) : (modPort s p f).manage = s.manage := rfl
@[simp] theorem modPort_mem (s : State) (p : Nat) (f : Port → Port) : (modPort s p f).mem = s.mem := rfl
@[simp] theorem modPort_poison (s : State) (p : Nat) (f : Port → Port) : (modPort s p f).poison = s.poison := rfl
@[simp] theorem modPort_frc (s : State) (p : Nat) (f : Port → Port) : (modPort s p f).frc = s.frc := rfl
@[simp] theorem modPort_flaws (s : State) (p : Nat) (f : Port → Port) : (modPort s p f).flaws = s.flaws := rfl
@[simp] theorem modPort_regs (s : State) (p : Nat) (f : Port → Port) : (modPort s p f).regs = s.regs := rfl
@[simp] theorem modPort_latches (s : State) (p : Nat) (f : Port → Port) : (modPort s p f).latches = s.latches := rfl
@[simp] theorem modPort_pendingHalf (s : State) (p : Nat) (f : Port → Port) : (modPort s p f).pendingHalf = s.pendingHalf := rfl
@[simp] theorem modPort_activeHalf (s : State) (p : Nat) (f : Port → Port) : (modPort s p f).activeHalf = s.activeHalf := rfl
@[simp] theorem modPort_held (s : State) (p : Nat) (f : Port → Port) : (modPort s p f).held = s.held := rfl
@[simp] theorem modPort_history (s : State) (p : Nat) (f : Port → Port) : (modPort s p f).history = s.history := rfl
@[simp] theorem modPort_tensors (s : State) (p : Nat) (f : Port → Port) : (modPort s p f).tensors = s.tensors := rfl
@[simp] theorem modPort_cores (s : State) (p : Nat) (f : Port → Port) : (modPort s p f).cores = s.cores := rfl
@[simp] theorem modPort_channels (s : State) (p : Nat) (f : Port → Port) : (modPort s p f).channels = s.channels := rfl
@[simp] theorem modPort_rings (s : State) (p : Nat) (f : Port → Port) : (modPort s p f).rings = s.rings := rfl
@[simp] theorem modPort_replays (s : State) (p : Nat) (f : Port → Port) : (modPort s p f).replays = s.replays := rfl
@[simp] theorem modPort_reports (s : State) (p : Nat) (f : Port → Port) : (modPort s p f).reports = s.reports := rfl
@[simp] theorem modPort_witness (s : State) (p : Nat) (f : Port → Port) : (modPort s p f).witness = s.witness := rfl
@[simp] theorem modPort_bell (s : State) (p : Nat) (f : Port → Port) : (modPort s p f).bell = s.bell := rfl
@[simp] theorem modPort_inbox (s : State) (p : Nat) (f : Port → Port) : (modPort s p f).inbox = s.inbox := rfl
@[simp] theorem modPort_requests (s : State) (p : Nat) (f : Port → Port) : (modPort s p f).requests = s.requests := rfl
@[simp] theorem modPort_expired (s : State) (p : Nat) (f : Port → Port) : (modPort s p f).expired = s.expired := rfl
@[simp] theorem modPort_nextTag (s : State) (p : Nat) (f : Port → Port) : (modPort s p f).nextTag = s.nextTag := rfl
@[simp] theorem modPort_inMsgs (s : State) (p : Nat) (f : Port → Port) : (modPort s p f).inMsgs = s.inMsgs := rfl
@[simp] theorem modPort_withheld (s : State) (p : Nat) (f : Port → Port) : (modPort s p f).withheld = s.withheld := rfl
@[simp] theorem modPort_routed (s : State) (p : Nat) (f : Port → Port) : (modPort s p f).routed = s.routed := rfl
@[simp] theorem modPort_buckets (s : State) (p : Nat) (f : Port → Port) : (modPort s p f).buckets = s.buckets := rfl
@[simp] theorem modPort_instances (s : State) (p : Nat) (f : Port → Port) : (modPort s p f).instances = s.instances := rfl
@[simp] theorem modPort_summaries (s : State) (p : Nat) (f : Port → Port) : (modPort s p f).summaries = s.summaries := rfl
@[simp] theorem modPort_fallen (s : State) (p : Nat) (f : Port → Port) : (modPort s p f).fallen = s.fallen := rfl
@[simp] theorem modPort_partners (s : State) (p : Nat) (f : Port → Port) : (modPort s p f).partners = s.partners := rfl
@[simp] theorem modPort_roads (s : State) (p : Nat) (f : Port → Port) : (modPort s p f).roads = s.roads := rfl
@[simp] theorem modPort_gateways (s : State) (p : Nat) (f : Port → Port) : (modPort s p f).gateways = s.gateways := rfl
@[simp] theorem modPort_assemblies (s : State) (p : Nat) (f : Port → Port) : (modPort s p f).assemblies = s.assemblies := rfl
@[simp] theorem modPort_banks (s : State) (p : Nat) (f : Port → Port) : (modPort s p f).banks = s.banks := rfl
@[simp] theorem modPort_market (s : State) (p : Nat) (f : Port → Port) : (modPort s p f).market = s.market := rfl
@[simp] theorem modPort_integrity (s : State) (p : Nat) (f : Port → Port) : (modPort s p f).integrity = s.integrity := rfl
@[simp] theorem modPort_watch (s : State) (p : Nat) (f : Port → Port) : (modPort s p f).watch = s.watch := rfl
@[simp] theorem modPort_diffs (s : State) (p : Nat) (f : Port → Port) : (modPort s p f).diffs = s.diffs := rfl
@[simp] theorem modPort_flipWait (s : State) (p : Nat) (f : Port → Port) : (modPort s p f).flipWait = s.flipWait := rfl
@[simp] theorem modPort_handWait (s : State) (p : Nat) (f : Port → Port) : (modPort s p f).handWait = s.handWait := rfl
@[simp] theorem modPort_torusCounted (s : State) (p : Nat) (f : Port → Port) : (modPort s p f).torusCounted = s.torusCounted := rfl

@[simp] theorem modRing_now (s : State) (r : Nat) (f : Ring → Ring) : (modRing s r f).now = s.now := rfl
@[simp] theorem modRing_draws (s : State) (r : Nat) (f : Ring → Ring) : (modRing s r f).draws = s.draws := rfl
@[simp] theorem modRing_started (s : State) (r : Nat) (f : Ring → Ring) : (modRing s r f).started = s.started := rfl
@[simp] theorem modRing_pending (s : State) (r : Nat) (f : Ring → Ring) : (modRing s r f).pending = s.pending := rfl
@[simp] theorem modRing_out (s : State) (r : Nat) (f : Ring → Ring) : (modRing s r f).out = s.out := rfl
@[simp] theorem modRing_power (s : State) (r : Nat) (f : Ring → Ring) : (modRing s r f).power = s.power := rfl
@[simp] theorem modRing_recorder (s : State) (r : Nat) (f : Ring → Ring) : (modRing s r f).recorder = s.recorder := rfl
@[simp] theorem modRing_manage (s : State) (r : Nat) (f : Ring → Ring) : (modRing s r f).manage = s.manage := rfl
@[simp] theorem modRing_mem (s : State) (r : Nat) (f : Ring → Ring) : (modRing s r f).mem = s.mem := rfl
@[simp] theorem modRing_poison (s : State) (r : Nat) (f : Ring → Ring) : (modRing s r f).poison = s.poison := rfl
@[simp] theorem modRing_frc (s : State) (r : Nat) (f : Ring → Ring) : (modRing s r f).frc = s.frc := rfl
@[simp] theorem modRing_flaws (s : State) (r : Nat) (f : Ring → Ring) : (modRing s r f).flaws = s.flaws := rfl
@[simp] theorem modRing_regs (s : State) (r : Nat) (f : Ring → Ring) : (modRing s r f).regs = s.regs := rfl
@[simp] theorem modRing_latches (s : State) (r : Nat) (f : Ring → Ring) : (modRing s r f).latches = s.latches := rfl
@[simp] theorem modRing_pendingHalf (s : State) (r : Nat) (f : Ring → Ring) : (modRing s r f).pendingHalf = s.pendingHalf := rfl
@[simp] theorem modRing_activeHalf (s : State) (r : Nat) (f : Ring → Ring) : (modRing s r f).activeHalf = s.activeHalf := rfl
@[simp] theorem modRing_held (s : State) (r : Nat) (f : Ring → Ring) : (modRing s r f).held = s.held := rfl
@[simp] theorem modRing_history (s : State) (r : Nat) (f : Ring → Ring) : (modRing s r f).history = s.history := rfl
@[simp] theorem modRing_tensors (s : State) (r : Nat) (f : Ring → Ring) : (modRing s r f).tensors = s.tensors := rfl
@[simp] theorem modRing_cores (s : State) (r : Nat) (f : Ring → Ring) : (modRing s r f).cores = s.cores := rfl
@[simp] theorem modRing_channels (s : State) (r : Nat) (f : Ring → Ring) : (modRing s r f).channels = s.channels := rfl
@[simp] theorem modRing_replays (s : State) (r : Nat) (f : Ring → Ring) : (modRing s r f).replays = s.replays := rfl
@[simp] theorem modRing_reports (s : State) (r : Nat) (f : Ring → Ring) : (modRing s r f).reports = s.reports := rfl
@[simp] theorem modRing_witness (s : State) (r : Nat) (f : Ring → Ring) : (modRing s r f).witness = s.witness := rfl
@[simp] theorem modRing_bell (s : State) (r : Nat) (f : Ring → Ring) : (modRing s r f).bell = s.bell := rfl
@[simp] theorem modRing_ports (s : State) (r : Nat) (f : Ring → Ring) : (modRing s r f).ports = s.ports := rfl
@[simp] theorem modRing_inbox (s : State) (r : Nat) (f : Ring → Ring) : (modRing s r f).inbox = s.inbox := rfl
@[simp] theorem modRing_requests (s : State) (r : Nat) (f : Ring → Ring) : (modRing s r f).requests = s.requests := rfl
@[simp] theorem modRing_expired (s : State) (r : Nat) (f : Ring → Ring) : (modRing s r f).expired = s.expired := rfl
@[simp] theorem modRing_nextTag (s : State) (r : Nat) (f : Ring → Ring) : (modRing s r f).nextTag = s.nextTag := rfl
@[simp] theorem modRing_inMsgs (s : State) (r : Nat) (f : Ring → Ring) : (modRing s r f).inMsgs = s.inMsgs := rfl
@[simp] theorem modRing_withheld (s : State) (r : Nat) (f : Ring → Ring) : (modRing s r f).withheld = s.withheld := rfl
@[simp] theorem modRing_routed (s : State) (r : Nat) (f : Ring → Ring) : (modRing s r f).routed = s.routed := rfl
@[simp] theorem modRing_buckets (s : State) (r : Nat) (f : Ring → Ring) : (modRing s r f).buckets = s.buckets := rfl
@[simp] theorem modRing_instances (s : State) (r : Nat) (f : Ring → Ring) : (modRing s r f).instances = s.instances := rfl
@[simp] theorem modRing_summaries (s : State) (r : Nat) (f : Ring → Ring) : (modRing s r f).summaries = s.summaries := rfl
@[simp] theorem modRing_fallen (s : State) (r : Nat) (f : Ring → Ring) : (modRing s r f).fallen = s.fallen := rfl
@[simp] theorem modRing_partners (s : State) (r : Nat) (f : Ring → Ring) : (modRing s r f).partners = s.partners := rfl
@[simp] theorem modRing_roads (s : State) (r : Nat) (f : Ring → Ring) : (modRing s r f).roads = s.roads := rfl
@[simp] theorem modRing_gateways (s : State) (r : Nat) (f : Ring → Ring) : (modRing s r f).gateways = s.gateways := rfl
@[simp] theorem modRing_assemblies (s : State) (r : Nat) (f : Ring → Ring) : (modRing s r f).assemblies = s.assemblies := rfl
@[simp] theorem modRing_banks (s : State) (r : Nat) (f : Ring → Ring) : (modRing s r f).banks = s.banks := rfl
@[simp] theorem modRing_market (s : State) (r : Nat) (f : Ring → Ring) : (modRing s r f).market = s.market := rfl
@[simp] theorem modRing_integrity (s : State) (r : Nat) (f : Ring → Ring) : (modRing s r f).integrity = s.integrity := rfl
@[simp] theorem modRing_watch (s : State) (r : Nat) (f : Ring → Ring) : (modRing s r f).watch = s.watch := rfl
@[simp] theorem modRing_diffs (s : State) (r : Nat) (f : Ring → Ring) : (modRing s r f).diffs = s.diffs := rfl
@[simp] theorem modRing_flipWait (s : State) (r : Nat) (f : Ring → Ring) : (modRing s r f).flipWait = s.flipWait := rfl
@[simp] theorem modRing_handWait (s : State) (r : Nat) (f : Ring → Ring) : (modRing s r f).handWait = s.handWait := rfl
@[simp] theorem modRing_torusCounted (s : State) (r : Nat) (f : Ring → Ring) : (modRing s r f).torusCounted = s.torusCounted := rfl

@[simp] theorem modChan_now (s : State) (c : Nat) (f : Channel → Channel) : (modChan s c f).now = s.now := rfl
@[simp] theorem modChan_draws (s : State) (c : Nat) (f : Channel → Channel) : (modChan s c f).draws = s.draws := rfl
@[simp] theorem modChan_started (s : State) (c : Nat) (f : Channel → Channel) : (modChan s c f).started = s.started := rfl
@[simp] theorem modChan_pending (s : State) (c : Nat) (f : Channel → Channel) : (modChan s c f).pending = s.pending := rfl
@[simp] theorem modChan_out (s : State) (c : Nat) (f : Channel → Channel) : (modChan s c f).out = s.out := rfl
@[simp] theorem modChan_power (s : State) (c : Nat) (f : Channel → Channel) : (modChan s c f).power = s.power := rfl
@[simp] theorem modChan_recorder (s : State) (c : Nat) (f : Channel → Channel) : (modChan s c f).recorder = s.recorder := rfl
@[simp] theorem modChan_manage (s : State) (c : Nat) (f : Channel → Channel) : (modChan s c f).manage = s.manage := rfl
@[simp] theorem modChan_mem (s : State) (c : Nat) (f : Channel → Channel) : (modChan s c f).mem = s.mem := rfl
@[simp] theorem modChan_poison (s : State) (c : Nat) (f : Channel → Channel) : (modChan s c f).poison = s.poison := rfl
@[simp] theorem modChan_frc (s : State) (c : Nat) (f : Channel → Channel) : (modChan s c f).frc = s.frc := rfl
@[simp] theorem modChan_flaws (s : State) (c : Nat) (f : Channel → Channel) : (modChan s c f).flaws = s.flaws := rfl
@[simp] theorem modChan_regs (s : State) (c : Nat) (f : Channel → Channel) : (modChan s c f).regs = s.regs := rfl
@[simp] theorem modChan_latches (s : State) (c : Nat) (f : Channel → Channel) : (modChan s c f).latches = s.latches := rfl
@[simp] theorem modChan_pendingHalf (s : State) (c : Nat) (f : Channel → Channel) : (modChan s c f).pendingHalf = s.pendingHalf := rfl
@[simp] theorem modChan_activeHalf (s : State) (c : Nat) (f : Channel → Channel) : (modChan s c f).activeHalf = s.activeHalf := rfl
@[simp] theorem modChan_held (s : State) (c : Nat) (f : Channel → Channel) : (modChan s c f).held = s.held := rfl
@[simp] theorem modChan_history (s : State) (c : Nat) (f : Channel → Channel) : (modChan s c f).history = s.history := rfl
@[simp] theorem modChan_tensors (s : State) (c : Nat) (f : Channel → Channel) : (modChan s c f).tensors = s.tensors := rfl
@[simp] theorem modChan_cores (s : State) (c : Nat) (f : Channel → Channel) : (modChan s c f).cores = s.cores := rfl
@[simp] theorem modChan_rings (s : State) (c : Nat) (f : Channel → Channel) : (modChan s c f).rings = s.rings := rfl
@[simp] theorem modChan_replays (s : State) (c : Nat) (f : Channel → Channel) : (modChan s c f).replays = s.replays := rfl
@[simp] theorem modChan_reports (s : State) (c : Nat) (f : Channel → Channel) : (modChan s c f).reports = s.reports := rfl
@[simp] theorem modChan_witness (s : State) (c : Nat) (f : Channel → Channel) : (modChan s c f).witness = s.witness := rfl
@[simp] theorem modChan_bell (s : State) (c : Nat) (f : Channel → Channel) : (modChan s c f).bell = s.bell := rfl
@[simp] theorem modChan_ports (s : State) (c : Nat) (f : Channel → Channel) : (modChan s c f).ports = s.ports := rfl
@[simp] theorem modChan_inbox (s : State) (c : Nat) (f : Channel → Channel) : (modChan s c f).inbox = s.inbox := rfl
@[simp] theorem modChan_requests (s : State) (c : Nat) (f : Channel → Channel) : (modChan s c f).requests = s.requests := rfl
@[simp] theorem modChan_expired (s : State) (c : Nat) (f : Channel → Channel) : (modChan s c f).expired = s.expired := rfl
@[simp] theorem modChan_nextTag (s : State) (c : Nat) (f : Channel → Channel) : (modChan s c f).nextTag = s.nextTag := rfl
@[simp] theorem modChan_inMsgs (s : State) (c : Nat) (f : Channel → Channel) : (modChan s c f).inMsgs = s.inMsgs := rfl
@[simp] theorem modChan_withheld (s : State) (c : Nat) (f : Channel → Channel) : (modChan s c f).withheld = s.withheld := rfl
@[simp] theorem modChan_routed (s : State) (c : Nat) (f : Channel → Channel) : (modChan s c f).routed = s.routed := rfl
@[simp] theorem modChan_buckets (s : State) (c : Nat) (f : Channel → Channel) : (modChan s c f).buckets = s.buckets := rfl
@[simp] theorem modChan_instances (s : State) (c : Nat) (f : Channel → Channel) : (modChan s c f).instances = s.instances := rfl
@[simp] theorem modChan_summaries (s : State) (c : Nat) (f : Channel → Channel) : (modChan s c f).summaries = s.summaries := rfl
@[simp] theorem modChan_fallen (s : State) (c : Nat) (f : Channel → Channel) : (modChan s c f).fallen = s.fallen := rfl
@[simp] theorem modChan_partners (s : State) (c : Nat) (f : Channel → Channel) : (modChan s c f).partners = s.partners := rfl
@[simp] theorem modChan_roads (s : State) (c : Nat) (f : Channel → Channel) : (modChan s c f).roads = s.roads := rfl
@[simp] theorem modChan_gateways (s : State) (c : Nat) (f : Channel → Channel) : (modChan s c f).gateways = s.gateways := rfl
@[simp] theorem modChan_assemblies (s : State) (c : Nat) (f : Channel → Channel) : (modChan s c f).assemblies = s.assemblies := rfl
@[simp] theorem modChan_banks (s : State) (c : Nat) (f : Channel → Channel) : (modChan s c f).banks = s.banks := rfl
@[simp] theorem modChan_market (s : State) (c : Nat) (f : Channel → Channel) : (modChan s c f).market = s.market := rfl
@[simp] theorem modChan_integrity (s : State) (c : Nat) (f : Channel → Channel) : (modChan s c f).integrity = s.integrity := rfl
@[simp] theorem modChan_watch (s : State) (c : Nat) (f : Channel → Channel) : (modChan s c f).watch = s.watch := rfl
@[simp] theorem modChan_diffs (s : State) (c : Nat) (f : Channel → Channel) : (modChan s c f).diffs = s.diffs := rfl
@[simp] theorem modChan_flipWait (s : State) (c : Nat) (f : Channel → Channel) : (modChan s c f).flipWait = s.flipWait := rfl
@[simp] theorem modChan_handWait (s : State) (c : Nat) (f : Channel → Channel) : (modChan s c f).handWait = s.handWait := rfl
@[simp] theorem modChan_torusCounted (s : State) (c : Nat) (f : Channel → Channel) : (modChan s c f).torusCounted = s.torusCounted := rfl

@[simp] theorem modPower_now (s : State) (f : Power → Power) : (modPower s f).now = s.now := rfl
@[simp] theorem modPower_draws (s : State) (f : Power → Power) : (modPower s f).draws = s.draws := rfl
@[simp] theorem modPower_started (s : State) (f : Power → Power) : (modPower s f).started = s.started := rfl
@[simp] theorem modPower_pending (s : State) (f : Power → Power) : (modPower s f).pending = s.pending := rfl
@[simp] theorem modPower_out (s : State) (f : Power → Power) : (modPower s f).out = s.out := rfl
@[simp] theorem modPower_recorder (s : State) (f : Power → Power) : (modPower s f).recorder = s.recorder := rfl
@[simp] theorem modPower_manage (s : State) (f : Power → Power) : (modPower s f).manage = s.manage := rfl
@[simp] theorem modPower_mem (s : State) (f : Power → Power) : (modPower s f).mem = s.mem := rfl
@[simp] theorem modPower_poison (s : State) (f : Power → Power) : (modPower s f).poison = s.poison := rfl
@[simp] theorem modPower_frc (s : State) (f : Power → Power) : (modPower s f).frc = s.frc := rfl
@[simp] theorem modPower_flaws (s : State) (f : Power → Power) : (modPower s f).flaws = s.flaws := rfl
@[simp] theorem modPower_regs (s : State) (f : Power → Power) : (modPower s f).regs = s.regs := rfl
@[simp] theorem modPower_latches (s : State) (f : Power → Power) : (modPower s f).latches = s.latches := rfl
@[simp] theorem modPower_pendingHalf (s : State) (f : Power → Power) : (modPower s f).pendingHalf = s.pendingHalf := rfl
@[simp] theorem modPower_activeHalf (s : State) (f : Power → Power) : (modPower s f).activeHalf = s.activeHalf := rfl
@[simp] theorem modPower_held (s : State) (f : Power → Power) : (modPower s f).held = s.held := rfl
@[simp] theorem modPower_history (s : State) (f : Power → Power) : (modPower s f).history = s.history := rfl
@[simp] theorem modPower_tensors (s : State) (f : Power → Power) : (modPower s f).tensors = s.tensors := rfl
@[simp] theorem modPower_cores (s : State) (f : Power → Power) : (modPower s f).cores = s.cores := rfl
@[simp] theorem modPower_channels (s : State) (f : Power → Power) : (modPower s f).channels = s.channels := rfl
@[simp] theorem modPower_rings (s : State) (f : Power → Power) : (modPower s f).rings = s.rings := rfl
@[simp] theorem modPower_replays (s : State) (f : Power → Power) : (modPower s f).replays = s.replays := rfl
@[simp] theorem modPower_reports (s : State) (f : Power → Power) : (modPower s f).reports = s.reports := rfl
@[simp] theorem modPower_witness (s : State) (f : Power → Power) : (modPower s f).witness = s.witness := rfl
@[simp] theorem modPower_bell (s : State) (f : Power → Power) : (modPower s f).bell = s.bell := rfl
@[simp] theorem modPower_ports (s : State) (f : Power → Power) : (modPower s f).ports = s.ports := rfl
@[simp] theorem modPower_inbox (s : State) (f : Power → Power) : (modPower s f).inbox = s.inbox := rfl
@[simp] theorem modPower_requests (s : State) (f : Power → Power) : (modPower s f).requests = s.requests := rfl
@[simp] theorem modPower_expired (s : State) (f : Power → Power) : (modPower s f).expired = s.expired := rfl
@[simp] theorem modPower_nextTag (s : State) (f : Power → Power) : (modPower s f).nextTag = s.nextTag := rfl
@[simp] theorem modPower_inMsgs (s : State) (f : Power → Power) : (modPower s f).inMsgs = s.inMsgs := rfl
@[simp] theorem modPower_withheld (s : State) (f : Power → Power) : (modPower s f).withheld = s.withheld := rfl
@[simp] theorem modPower_routed (s : State) (f : Power → Power) : (modPower s f).routed = s.routed := rfl
@[simp] theorem modPower_buckets (s : State) (f : Power → Power) : (modPower s f).buckets = s.buckets := rfl
@[simp] theorem modPower_instances (s : State) (f : Power → Power) : (modPower s f).instances = s.instances := rfl
@[simp] theorem modPower_summaries (s : State) (f : Power → Power) : (modPower s f).summaries = s.summaries := rfl
@[simp] theorem modPower_fallen (s : State) (f : Power → Power) : (modPower s f).fallen = s.fallen := rfl
@[simp] theorem modPower_partners (s : State) (f : Power → Power) : (modPower s f).partners = s.partners := rfl
@[simp] theorem modPower_roads (s : State) (f : Power → Power) : (modPower s f).roads = s.roads := rfl
@[simp] theorem modPower_gateways (s : State) (f : Power → Power) : (modPower s f).gateways = s.gateways := rfl
@[simp] theorem modPower_assemblies (s : State) (f : Power → Power) : (modPower s f).assemblies = s.assemblies := rfl
@[simp] theorem modPower_banks (s : State) (f : Power → Power) : (modPower s f).banks = s.banks := rfl
@[simp] theorem modPower_market (s : State) (f : Power → Power) : (modPower s f).market = s.market := rfl
@[simp] theorem modPower_integrity (s : State) (f : Power → Power) : (modPower s f).integrity = s.integrity := rfl
@[simp] theorem modPower_watch (s : State) (f : Power → Power) : (modPower s f).watch = s.watch := rfl
@[simp] theorem modPower_diffs (s : State) (f : Power → Power) : (modPower s f).diffs = s.diffs := rfl
@[simp] theorem modPower_flipWait (s : State) (f : Power → Power) : (modPower s f).flipWait = s.flipWait := rfl
@[simp] theorem modPower_handWait (s : State) (f : Power → Power) : (modPower s f).handWait = s.handWait := rfl
@[simp] theorem modPower_torusCounted (s : State) (f : Power → Power) : (modPower s f).torusCounted = s.torusCounted := rfl

@[simp] theorem modManage_now (s : State) (f : Manage → Manage) : (modManage s f).now = s.now := rfl
@[simp] theorem modManage_draws (s : State) (f : Manage → Manage) : (modManage s f).draws = s.draws := rfl
@[simp] theorem modManage_started (s : State) (f : Manage → Manage) : (modManage s f).started = s.started := rfl
@[simp] theorem modManage_pending (s : State) (f : Manage → Manage) : (modManage s f).pending = s.pending := rfl
@[simp] theorem modManage_out (s : State) (f : Manage → Manage) : (modManage s f).out = s.out := rfl
@[simp] theorem modManage_power (s : State) (f : Manage → Manage) : (modManage s f).power = s.power := rfl
@[simp] theorem modManage_recorder (s : State) (f : Manage → Manage) : (modManage s f).recorder = s.recorder := rfl
@[simp] theorem modManage_mem (s : State) (f : Manage → Manage) : (modManage s f).mem = s.mem := rfl
@[simp] theorem modManage_poison (s : State) (f : Manage → Manage) : (modManage s f).poison = s.poison := rfl
@[simp] theorem modManage_frc (s : State) (f : Manage → Manage) : (modManage s f).frc = s.frc := rfl
@[simp] theorem modManage_flaws (s : State) (f : Manage → Manage) : (modManage s f).flaws = s.flaws := rfl
@[simp] theorem modManage_regs (s : State) (f : Manage → Manage) : (modManage s f).regs = s.regs := rfl
@[simp] theorem modManage_latches (s : State) (f : Manage → Manage) : (modManage s f).latches = s.latches := rfl
@[simp] theorem modManage_pendingHalf (s : State) (f : Manage → Manage) : (modManage s f).pendingHalf = s.pendingHalf := rfl
@[simp] theorem modManage_activeHalf (s : State) (f : Manage → Manage) : (modManage s f).activeHalf = s.activeHalf := rfl
@[simp] theorem modManage_held (s : State) (f : Manage → Manage) : (modManage s f).held = s.held := rfl
@[simp] theorem modManage_history (s : State) (f : Manage → Manage) : (modManage s f).history = s.history := rfl
@[simp] theorem modManage_tensors (s : State) (f : Manage → Manage) : (modManage s f).tensors = s.tensors := rfl
@[simp] theorem modManage_cores (s : State) (f : Manage → Manage) : (modManage s f).cores = s.cores := rfl
@[simp] theorem modManage_channels (s : State) (f : Manage → Manage) : (modManage s f).channels = s.channels := rfl
@[simp] theorem modManage_rings (s : State) (f : Manage → Manage) : (modManage s f).rings = s.rings := rfl
@[simp] theorem modManage_replays (s : State) (f : Manage → Manage) : (modManage s f).replays = s.replays := rfl
@[simp] theorem modManage_reports (s : State) (f : Manage → Manage) : (modManage s f).reports = s.reports := rfl
@[simp] theorem modManage_witness (s : State) (f : Manage → Manage) : (modManage s f).witness = s.witness := rfl
@[simp] theorem modManage_bell (s : State) (f : Manage → Manage) : (modManage s f).bell = s.bell := rfl
@[simp] theorem modManage_ports (s : State) (f : Manage → Manage) : (modManage s f).ports = s.ports := rfl
@[simp] theorem modManage_inbox (s : State) (f : Manage → Manage) : (modManage s f).inbox = s.inbox := rfl
@[simp] theorem modManage_requests (s : State) (f : Manage → Manage) : (modManage s f).requests = s.requests := rfl
@[simp] theorem modManage_expired (s : State) (f : Manage → Manage) : (modManage s f).expired = s.expired := rfl
@[simp] theorem modManage_nextTag (s : State) (f : Manage → Manage) : (modManage s f).nextTag = s.nextTag := rfl
@[simp] theorem modManage_inMsgs (s : State) (f : Manage → Manage) : (modManage s f).inMsgs = s.inMsgs := rfl
@[simp] theorem modManage_withheld (s : State) (f : Manage → Manage) : (modManage s f).withheld = s.withheld := rfl
@[simp] theorem modManage_routed (s : State) (f : Manage → Manage) : (modManage s f).routed = s.routed := rfl
@[simp] theorem modManage_buckets (s : State) (f : Manage → Manage) : (modManage s f).buckets = s.buckets := rfl
@[simp] theorem modManage_instances (s : State) (f : Manage → Manage) : (modManage s f).instances = s.instances := rfl
@[simp] theorem modManage_summaries (s : State) (f : Manage → Manage) : (modManage s f).summaries = s.summaries := rfl
@[simp] theorem modManage_fallen (s : State) (f : Manage → Manage) : (modManage s f).fallen = s.fallen := rfl
@[simp] theorem modManage_partners (s : State) (f : Manage → Manage) : (modManage s f).partners = s.partners := rfl
@[simp] theorem modManage_roads (s : State) (f : Manage → Manage) : (modManage s f).roads = s.roads := rfl
@[simp] theorem modManage_gateways (s : State) (f : Manage → Manage) : (modManage s f).gateways = s.gateways := rfl
@[simp] theorem modManage_assemblies (s : State) (f : Manage → Manage) : (modManage s f).assemblies = s.assemblies := rfl
@[simp] theorem modManage_banks (s : State) (f : Manage → Manage) : (modManage s f).banks = s.banks := rfl
@[simp] theorem modManage_market (s : State) (f : Manage → Manage) : (modManage s f).market = s.market := rfl
@[simp] theorem modManage_integrity (s : State) (f : Manage → Manage) : (modManage s f).integrity = s.integrity := rfl
@[simp] theorem modManage_watch (s : State) (f : Manage → Manage) : (modManage s f).watch = s.watch := rfl
@[simp] theorem modManage_diffs (s : State) (f : Manage → Manage) : (modManage s f).diffs = s.diffs := rfl
@[simp] theorem modManage_flipWait (s : State) (f : Manage → Manage) : (modManage s f).flipWait = s.flipWait := rfl
@[simp] theorem modManage_handWait (s : State) (f : Manage → Manage) : (modManage s f).handWait = s.handWait := rfl
@[simp] theorem modManage_torusCounted (s : State) (f : Manage → Manage) : (modManage s f).torusCounted = s.torusCounted := rfl

@[simp] theorem modBell_now (s : State) (f : BellUnit → BellUnit) : (modBell s f).now = s.now := rfl
@[simp] theorem modBell_draws (s : State) (f : BellUnit → BellUnit) : (modBell s f).draws = s.draws := rfl
@[simp] theorem modBell_started (s : State) (f : BellUnit → BellUnit) : (modBell s f).started = s.started := rfl
@[simp] theorem modBell_pending (s : State) (f : BellUnit → BellUnit) : (modBell s f).pending = s.pending := rfl
@[simp] theorem modBell_out (s : State) (f : BellUnit → BellUnit) : (modBell s f).out = s.out := rfl
@[simp] theorem modBell_power (s : State) (f : BellUnit → BellUnit) : (modBell s f).power = s.power := rfl
@[simp] theorem modBell_recorder (s : State) (f : BellUnit → BellUnit) : (modBell s f).recorder = s.recorder := rfl
@[simp] theorem modBell_manage (s : State) (f : BellUnit → BellUnit) : (modBell s f).manage = s.manage := rfl
@[simp] theorem modBell_mem (s : State) (f : BellUnit → BellUnit) : (modBell s f).mem = s.mem := rfl
@[simp] theorem modBell_poison (s : State) (f : BellUnit → BellUnit) : (modBell s f).poison = s.poison := rfl
@[simp] theorem modBell_frc (s : State) (f : BellUnit → BellUnit) : (modBell s f).frc = s.frc := rfl
@[simp] theorem modBell_flaws (s : State) (f : BellUnit → BellUnit) : (modBell s f).flaws = s.flaws := rfl
@[simp] theorem modBell_regs (s : State) (f : BellUnit → BellUnit) : (modBell s f).regs = s.regs := rfl
@[simp] theorem modBell_latches (s : State) (f : BellUnit → BellUnit) : (modBell s f).latches = s.latches := rfl
@[simp] theorem modBell_pendingHalf (s : State) (f : BellUnit → BellUnit) : (modBell s f).pendingHalf = s.pendingHalf := rfl
@[simp] theorem modBell_activeHalf (s : State) (f : BellUnit → BellUnit) : (modBell s f).activeHalf = s.activeHalf := rfl
@[simp] theorem modBell_held (s : State) (f : BellUnit → BellUnit) : (modBell s f).held = s.held := rfl
@[simp] theorem modBell_history (s : State) (f : BellUnit → BellUnit) : (modBell s f).history = s.history := rfl
@[simp] theorem modBell_tensors (s : State) (f : BellUnit → BellUnit) : (modBell s f).tensors = s.tensors := rfl
@[simp] theorem modBell_cores (s : State) (f : BellUnit → BellUnit) : (modBell s f).cores = s.cores := rfl
@[simp] theorem modBell_channels (s : State) (f : BellUnit → BellUnit) : (modBell s f).channels = s.channels := rfl
@[simp] theorem modBell_rings (s : State) (f : BellUnit → BellUnit) : (modBell s f).rings = s.rings := rfl
@[simp] theorem modBell_replays (s : State) (f : BellUnit → BellUnit) : (modBell s f).replays = s.replays := rfl
@[simp] theorem modBell_reports (s : State) (f : BellUnit → BellUnit) : (modBell s f).reports = s.reports := rfl
@[simp] theorem modBell_witness (s : State) (f : BellUnit → BellUnit) : (modBell s f).witness = s.witness := rfl
@[simp] theorem modBell_ports (s : State) (f : BellUnit → BellUnit) : (modBell s f).ports = s.ports := rfl
@[simp] theorem modBell_inbox (s : State) (f : BellUnit → BellUnit) : (modBell s f).inbox = s.inbox := rfl
@[simp] theorem modBell_requests (s : State) (f : BellUnit → BellUnit) : (modBell s f).requests = s.requests := rfl
@[simp] theorem modBell_expired (s : State) (f : BellUnit → BellUnit) : (modBell s f).expired = s.expired := rfl
@[simp] theorem modBell_nextTag (s : State) (f : BellUnit → BellUnit) : (modBell s f).nextTag = s.nextTag := rfl
@[simp] theorem modBell_inMsgs (s : State) (f : BellUnit → BellUnit) : (modBell s f).inMsgs = s.inMsgs := rfl
@[simp] theorem modBell_withheld (s : State) (f : BellUnit → BellUnit) : (modBell s f).withheld = s.withheld := rfl
@[simp] theorem modBell_routed (s : State) (f : BellUnit → BellUnit) : (modBell s f).routed = s.routed := rfl
@[simp] theorem modBell_buckets (s : State) (f : BellUnit → BellUnit) : (modBell s f).buckets = s.buckets := rfl
@[simp] theorem modBell_instances (s : State) (f : BellUnit → BellUnit) : (modBell s f).instances = s.instances := rfl
@[simp] theorem modBell_summaries (s : State) (f : BellUnit → BellUnit) : (modBell s f).summaries = s.summaries := rfl
@[simp] theorem modBell_fallen (s : State) (f : BellUnit → BellUnit) : (modBell s f).fallen = s.fallen := rfl
@[simp] theorem modBell_partners (s : State) (f : BellUnit → BellUnit) : (modBell s f).partners = s.partners := rfl
@[simp] theorem modBell_roads (s : State) (f : BellUnit → BellUnit) : (modBell s f).roads = s.roads := rfl
@[simp] theorem modBell_gateways (s : State) (f : BellUnit → BellUnit) : (modBell s f).gateways = s.gateways := rfl
@[simp] theorem modBell_assemblies (s : State) (f : BellUnit → BellUnit) : (modBell s f).assemblies = s.assemblies := rfl
@[simp] theorem modBell_banks (s : State) (f : BellUnit → BellUnit) : (modBell s f).banks = s.banks := rfl
@[simp] theorem modBell_market (s : State) (f : BellUnit → BellUnit) : (modBell s f).market = s.market := rfl
@[simp] theorem modBell_integrity (s : State) (f : BellUnit → BellUnit) : (modBell s f).integrity = s.integrity := rfl
@[simp] theorem modBell_watch (s : State) (f : BellUnit → BellUnit) : (modBell s f).watch = s.watch := rfl
@[simp] theorem modBell_diffs (s : State) (f : BellUnit → BellUnit) : (modBell s f).diffs = s.diffs := rfl
@[simp] theorem modBell_flipWait (s : State) (f : BellUnit → BellUnit) : (modBell s f).flipWait = s.flipWait := rfl
@[simp] theorem modBell_handWait (s : State) (f : BellUnit → BellUnit) : (modBell s f).handWait = s.handWait := rfl
@[simp] theorem modBell_torusCounted (s : State) (f : BellUnit → BellUnit) : (modBell s f).torusCounted = s.torusCounted := rfl

@[simp] theorem modGate_now (s : State) (p : Nat) (f : Gateway → Gateway) : (modGate s p f).now = s.now := rfl
@[simp] theorem modGate_draws (s : State) (p : Nat) (f : Gateway → Gateway) : (modGate s p f).draws = s.draws := rfl
@[simp] theorem modGate_started (s : State) (p : Nat) (f : Gateway → Gateway) : (modGate s p f).started = s.started := rfl
@[simp] theorem modGate_pending (s : State) (p : Nat) (f : Gateway → Gateway) : (modGate s p f).pending = s.pending := rfl
@[simp] theorem modGate_out (s : State) (p : Nat) (f : Gateway → Gateway) : (modGate s p f).out = s.out := rfl
@[simp] theorem modGate_power (s : State) (p : Nat) (f : Gateway → Gateway) : (modGate s p f).power = s.power := rfl
@[simp] theorem modGate_recorder (s : State) (p : Nat) (f : Gateway → Gateway) : (modGate s p f).recorder = s.recorder := rfl
@[simp] theorem modGate_manage (s : State) (p : Nat) (f : Gateway → Gateway) : (modGate s p f).manage = s.manage := rfl
@[simp] theorem modGate_mem (s : State) (p : Nat) (f : Gateway → Gateway) : (modGate s p f).mem = s.mem := rfl
@[simp] theorem modGate_poison (s : State) (p : Nat) (f : Gateway → Gateway) : (modGate s p f).poison = s.poison := rfl
@[simp] theorem modGate_frc (s : State) (p : Nat) (f : Gateway → Gateway) : (modGate s p f).frc = s.frc := rfl
@[simp] theorem modGate_flaws (s : State) (p : Nat) (f : Gateway → Gateway) : (modGate s p f).flaws = s.flaws := rfl
@[simp] theorem modGate_regs (s : State) (p : Nat) (f : Gateway → Gateway) : (modGate s p f).regs = s.regs := rfl
@[simp] theorem modGate_latches (s : State) (p : Nat) (f : Gateway → Gateway) : (modGate s p f).latches = s.latches := rfl
@[simp] theorem modGate_pendingHalf (s : State) (p : Nat) (f : Gateway → Gateway) : (modGate s p f).pendingHalf = s.pendingHalf := rfl
@[simp] theorem modGate_activeHalf (s : State) (p : Nat) (f : Gateway → Gateway) : (modGate s p f).activeHalf = s.activeHalf := rfl
@[simp] theorem modGate_held (s : State) (p : Nat) (f : Gateway → Gateway) : (modGate s p f).held = s.held := rfl
@[simp] theorem modGate_history (s : State) (p : Nat) (f : Gateway → Gateway) : (modGate s p f).history = s.history := rfl
@[simp] theorem modGate_tensors (s : State) (p : Nat) (f : Gateway → Gateway) : (modGate s p f).tensors = s.tensors := rfl
@[simp] theorem modGate_cores (s : State) (p : Nat) (f : Gateway → Gateway) : (modGate s p f).cores = s.cores := rfl
@[simp] theorem modGate_channels (s : State) (p : Nat) (f : Gateway → Gateway) : (modGate s p f).channels = s.channels := rfl
@[simp] theorem modGate_rings (s : State) (p : Nat) (f : Gateway → Gateway) : (modGate s p f).rings = s.rings := rfl
@[simp] theorem modGate_replays (s : State) (p : Nat) (f : Gateway → Gateway) : (modGate s p f).replays = s.replays := rfl
@[simp] theorem modGate_reports (s : State) (p : Nat) (f : Gateway → Gateway) : (modGate s p f).reports = s.reports := rfl
@[simp] theorem modGate_witness (s : State) (p : Nat) (f : Gateway → Gateway) : (modGate s p f).witness = s.witness := rfl
@[simp] theorem modGate_bell (s : State) (p : Nat) (f : Gateway → Gateway) : (modGate s p f).bell = s.bell := rfl
@[simp] theorem modGate_ports (s : State) (p : Nat) (f : Gateway → Gateway) : (modGate s p f).ports = s.ports := rfl
@[simp] theorem modGate_inbox (s : State) (p : Nat) (f : Gateway → Gateway) : (modGate s p f).inbox = s.inbox := rfl
@[simp] theorem modGate_requests (s : State) (p : Nat) (f : Gateway → Gateway) : (modGate s p f).requests = s.requests := rfl
@[simp] theorem modGate_expired (s : State) (p : Nat) (f : Gateway → Gateway) : (modGate s p f).expired = s.expired := rfl
@[simp] theorem modGate_nextTag (s : State) (p : Nat) (f : Gateway → Gateway) : (modGate s p f).nextTag = s.nextTag := rfl
@[simp] theorem modGate_inMsgs (s : State) (p : Nat) (f : Gateway → Gateway) : (modGate s p f).inMsgs = s.inMsgs := rfl
@[simp] theorem modGate_withheld (s : State) (p : Nat) (f : Gateway → Gateway) : (modGate s p f).withheld = s.withheld := rfl
@[simp] theorem modGate_routed (s : State) (p : Nat) (f : Gateway → Gateway) : (modGate s p f).routed = s.routed := rfl
@[simp] theorem modGate_buckets (s : State) (p : Nat) (f : Gateway → Gateway) : (modGate s p f).buckets = s.buckets := rfl
@[simp] theorem modGate_instances (s : State) (p : Nat) (f : Gateway → Gateway) : (modGate s p f).instances = s.instances := rfl
@[simp] theorem modGate_summaries (s : State) (p : Nat) (f : Gateway → Gateway) : (modGate s p f).summaries = s.summaries := rfl
@[simp] theorem modGate_fallen (s : State) (p : Nat) (f : Gateway → Gateway) : (modGate s p f).fallen = s.fallen := rfl
@[simp] theorem modGate_partners (s : State) (p : Nat) (f : Gateway → Gateway) : (modGate s p f).partners = s.partners := rfl
@[simp] theorem modGate_roads (s : State) (p : Nat) (f : Gateway → Gateway) : (modGate s p f).roads = s.roads := rfl
@[simp] theorem modGate_assemblies (s : State) (p : Nat) (f : Gateway → Gateway) : (modGate s p f).assemblies = s.assemblies := rfl
@[simp] theorem modGate_banks (s : State) (p : Nat) (f : Gateway → Gateway) : (modGate s p f).banks = s.banks := rfl
@[simp] theorem modGate_market (s : State) (p : Nat) (f : Gateway → Gateway) : (modGate s p f).market = s.market := rfl
@[simp] theorem modGate_integrity (s : State) (p : Nat) (f : Gateway → Gateway) : (modGate s p f).integrity = s.integrity := rfl
@[simp] theorem modGate_watch (s : State) (p : Nat) (f : Gateway → Gateway) : (modGate s p f).watch = s.watch := rfl
@[simp] theorem modGate_diffs (s : State) (p : Nat) (f : Gateway → Gateway) : (modGate s p f).diffs = s.diffs := rfl
@[simp] theorem modGate_flipWait (s : State) (p : Nat) (f : Gateway → Gateway) : (modGate s p f).flipWait = s.flipWait := rfl
@[simp] theorem modGate_handWait (s : State) (p : Nat) (f : Gateway → Gateway) : (modGate s p f).handWait = s.handWait := rfl
@[simp] theorem modGate_torusCounted (s : State) (p : Nat) (f : Gateway → Gateway) : (modGate s p f).torusCounted = s.torusCounted := rfl

@[simp] theorem modRoad_now (s : State) (r : Nat) (f : Road → Road) : (modRoad s r f).now = s.now := rfl
@[simp] theorem modRoad_draws (s : State) (r : Nat) (f : Road → Road) : (modRoad s r f).draws = s.draws := rfl
@[simp] theorem modRoad_started (s : State) (r : Nat) (f : Road → Road) : (modRoad s r f).started = s.started := rfl
@[simp] theorem modRoad_pending (s : State) (r : Nat) (f : Road → Road) : (modRoad s r f).pending = s.pending := rfl
@[simp] theorem modRoad_out (s : State) (r : Nat) (f : Road → Road) : (modRoad s r f).out = s.out := rfl
@[simp] theorem modRoad_power (s : State) (r : Nat) (f : Road → Road) : (modRoad s r f).power = s.power := rfl
@[simp] theorem modRoad_recorder (s : State) (r : Nat) (f : Road → Road) : (modRoad s r f).recorder = s.recorder := rfl
@[simp] theorem modRoad_manage (s : State) (r : Nat) (f : Road → Road) : (modRoad s r f).manage = s.manage := rfl
@[simp] theorem modRoad_mem (s : State) (r : Nat) (f : Road → Road) : (modRoad s r f).mem = s.mem := rfl
@[simp] theorem modRoad_poison (s : State) (r : Nat) (f : Road → Road) : (modRoad s r f).poison = s.poison := rfl
@[simp] theorem modRoad_frc (s : State) (r : Nat) (f : Road → Road) : (modRoad s r f).frc = s.frc := rfl
@[simp] theorem modRoad_flaws (s : State) (r : Nat) (f : Road → Road) : (modRoad s r f).flaws = s.flaws := rfl
@[simp] theorem modRoad_regs (s : State) (r : Nat) (f : Road → Road) : (modRoad s r f).regs = s.regs := rfl
@[simp] theorem modRoad_latches (s : State) (r : Nat) (f : Road → Road) : (modRoad s r f).latches = s.latches := rfl
@[simp] theorem modRoad_pendingHalf (s : State) (r : Nat) (f : Road → Road) : (modRoad s r f).pendingHalf = s.pendingHalf := rfl
@[simp] theorem modRoad_activeHalf (s : State) (r : Nat) (f : Road → Road) : (modRoad s r f).activeHalf = s.activeHalf := rfl
@[simp] theorem modRoad_held (s : State) (r : Nat) (f : Road → Road) : (modRoad s r f).held = s.held := rfl
@[simp] theorem modRoad_history (s : State) (r : Nat) (f : Road → Road) : (modRoad s r f).history = s.history := rfl
@[simp] theorem modRoad_tensors (s : State) (r : Nat) (f : Road → Road) : (modRoad s r f).tensors = s.tensors := rfl
@[simp] theorem modRoad_cores (s : State) (r : Nat) (f : Road → Road) : (modRoad s r f).cores = s.cores := rfl
@[simp] theorem modRoad_channels (s : State) (r : Nat) (f : Road → Road) : (modRoad s r f).channels = s.channels := rfl
@[simp] theorem modRoad_rings (s : State) (r : Nat) (f : Road → Road) : (modRoad s r f).rings = s.rings := rfl
@[simp] theorem modRoad_replays (s : State) (r : Nat) (f : Road → Road) : (modRoad s r f).replays = s.replays := rfl
@[simp] theorem modRoad_reports (s : State) (r : Nat) (f : Road → Road) : (modRoad s r f).reports = s.reports := rfl
@[simp] theorem modRoad_witness (s : State) (r : Nat) (f : Road → Road) : (modRoad s r f).witness = s.witness := rfl
@[simp] theorem modRoad_bell (s : State) (r : Nat) (f : Road → Road) : (modRoad s r f).bell = s.bell := rfl
@[simp] theorem modRoad_ports (s : State) (r : Nat) (f : Road → Road) : (modRoad s r f).ports = s.ports := rfl
@[simp] theorem modRoad_inbox (s : State) (r : Nat) (f : Road → Road) : (modRoad s r f).inbox = s.inbox := rfl
@[simp] theorem modRoad_requests (s : State) (r : Nat) (f : Road → Road) : (modRoad s r f).requests = s.requests := rfl
@[simp] theorem modRoad_expired (s : State) (r : Nat) (f : Road → Road) : (modRoad s r f).expired = s.expired := rfl
@[simp] theorem modRoad_nextTag (s : State) (r : Nat) (f : Road → Road) : (modRoad s r f).nextTag = s.nextTag := rfl
@[simp] theorem modRoad_inMsgs (s : State) (r : Nat) (f : Road → Road) : (modRoad s r f).inMsgs = s.inMsgs := rfl
@[simp] theorem modRoad_withheld (s : State) (r : Nat) (f : Road → Road) : (modRoad s r f).withheld = s.withheld := rfl
@[simp] theorem modRoad_routed (s : State) (r : Nat) (f : Road → Road) : (modRoad s r f).routed = s.routed := rfl
@[simp] theorem modRoad_buckets (s : State) (r : Nat) (f : Road → Road) : (modRoad s r f).buckets = s.buckets := rfl
@[simp] theorem modRoad_instances (s : State) (r : Nat) (f : Road → Road) : (modRoad s r f).instances = s.instances := rfl
@[simp] theorem modRoad_summaries (s : State) (r : Nat) (f : Road → Road) : (modRoad s r f).summaries = s.summaries := rfl
@[simp] theorem modRoad_fallen (s : State) (r : Nat) (f : Road → Road) : (modRoad s r f).fallen = s.fallen := rfl
@[simp] theorem modRoad_partners (s : State) (r : Nat) (f : Road → Road) : (modRoad s r f).partners = s.partners := rfl
@[simp] theorem modRoad_gateways (s : State) (r : Nat) (f : Road → Road) : (modRoad s r f).gateways = s.gateways := rfl
@[simp] theorem modRoad_assemblies (s : State) (r : Nat) (f : Road → Road) : (modRoad s r f).assemblies = s.assemblies := rfl
@[simp] theorem modRoad_banks (s : State) (r : Nat) (f : Road → Road) : (modRoad s r f).banks = s.banks := rfl
@[simp] theorem modRoad_market (s : State) (r : Nat) (f : Road → Road) : (modRoad s r f).market = s.market := rfl
@[simp] theorem modRoad_integrity (s : State) (r : Nat) (f : Road → Road) : (modRoad s r f).integrity = s.integrity := rfl
@[simp] theorem modRoad_watch (s : State) (r : Nat) (f : Road → Road) : (modRoad s r f).watch = s.watch := rfl
@[simp] theorem modRoad_diffs (s : State) (r : Nat) (f : Road → Road) : (modRoad s r f).diffs = s.diffs := rfl
@[simp] theorem modRoad_flipWait (s : State) (r : Nat) (f : Road → Road) : (modRoad s r f).flipWait = s.flipWait := rfl
@[simp] theorem modRoad_handWait (s : State) (r : Nat) (f : Road → Road) : (modRoad s r f).handWait = s.handWait := rfl
@[simp] theorem modRoad_torusCounted (s : State) (r : Nat) (f : Road → Road) : (modRoad s r f).torusCounted = s.torusCounted := rfl

@[simp] theorem emit_out (s : State) (o : Out) : (emit s o).out = s.out ++ [o] := rfl
@[simp] theorem modPower_power (s : State) (f : Power → Power) : (modPower s f).power = f s.power := rfl
@[simp] theorem modManage_manage (s : State) (f : Manage → Manage) : (modManage s f).manage = f s.manage := rfl
@[simp] theorem modBell_bell (s : State) (f : BellUnit → BellUnit) : (modBell s f).bell = f s.bell := rfl
@[simp] theorem modCore_length (s : State) (c : Nat) (f : Core → Core) : (modCore s c f).cores.length = s.cores.length := by simp [modCore, modAt]
@[simp] theorem modPort_length (s : State) (p : Nat) (f : Port → Port) : (modPort s p f).ports.length = s.ports.length := by simp [modPort, modAt]
@[simp] theorem modRing_length (s : State) (r : Nat) (f : Ring → Ring) : (modRing s r f).rings.length = s.rings.length := by simp [modRing, modAt]
@[simp] theorem modChan_length (s : State) (c : Nat) (f : Channel → Channel) : (modChan s c f).channels.length = s.channels.length := by
  simp [modChan, modAt]

end Sys2Proof.Machine
end

