-- ==== Sys2Proof/Laws/Registers.lean ====
section
/-! SUPPORT. Laws of registers, settings, tallies and the lists of units: what a read gives after each shared operation. -/

namespace Sys2Proof.Machine

@[simp] theorem rd_wr_same (s : State) (k v : Nat) : rd (wr s k v) k = v % 2 ^ 32 := by simp [rd, wr]

theorem rd_wr_ne (s : State) (k j v : Nat) (h : j ≠ k) : rd (wr s k v) j = rd s j := by
  simp [rd, wr, sget_sput_ne _ _ _ _ _ _ h]

theorem rd_lt (s : State) (k : Nat) : rd s k < 2 ^ 32 := BitVec.isLt _

/-- Registers alone decide what a register reads. -/
theorem rd_congr {s t : State} (h : t.regs = s.regs) (k : Nat) : rd t k = rd s k := by simp [rd, h]

@[simp] theorem rd_emit (s : State) (o : Out) (k : Nat) : rd (emit s o) k = rd s k := rfl
@[simp] theorem rd_modCore (s : State) (c : Nat) (f : Core → Core) (k : Nat) : rd (modCore s c f) k = rd s k := rfl
@[simp] theorem rd_modPort (s : State) (p : Nat) (f : Port → Port) (k : Nat) : rd (modPort s p f) k = rd s k := rfl
@[simp] theorem rd_modRing (s : State) (r : Nat) (f : Ring → Ring) (k : Nat) : rd (modRing s r f) k = rd s k := rfl
@[simp] theorem rd_modChan (s : State) (c : Nat) (f : Channel → Channel) (k : Nat) : rd (modChan s c f) k = rd s k := rfl

/-- What one counter's step writes. -/
theorem rd_count_same (s : State) (k : Nat) : rd (count s k) k = satAdd (rd s k) 1 := by
  have : satAdd (rd s k) 1 < 2 ^ 32 := by unfold satAdd; omega
  simp only [count, countBy, Nat.one_ne_zero, if_false]
  rw [rd_wr_same, Nat.mod_eq_of_lt this]

theorem rd_count_ne (s : State) (k j : Nat) (h : j ≠ k) : rd (count s k) j = rd s j := by simp [count, countBy, rd_wr_ne _ _ _ _ h]

/-- `count` changes the registers alone. -/
theorem count_eq (s : State) (k : Nat) : count s k = { s with regs := (count s k).regs } := rfl

@[simp] theorem setting_putSetting_same (h : Half) (o v : Nat) : setting (putSetting h o v) o = v % 2 ^ 32 := by simp [setting, putSetting]

theorem setting_putSetting_ne (h : Half) (o j v : Nat) (hj : j ≠ o) : setting (putSetting h o v) j = setting h j := by
  simp [setting, putSetting, sget_sput_ne _ _ _ _ _ _ hj]

/-! ### Tallies (R283) -/

/-- A signal adds one, modulo 65,536, to the tally it names. -/
theorem tally_signal_same (s : State) (c t : Nat) : tally (signalTally s c t) c t = (tally s c t + 1) % 65536 := by
  have : (tally s c t + 1) % 65536 < 2 ^ 32 := by omega
  simp only [signalTally, tally, fld] at *
  rw [rd_wr_same]
  simp [bits] at *

/-- A signal leaves every other register as it was. -/
theorem rd_signal_ne (s : State) (c t j : Nat) (h : j ≠ coreReg c coreTally + 4 * t) : rd (signalTally s c t) j = rd s j :=
  rd_wr_ne _ _ _ _ h

/-- A signal changes the registers alone. -/
theorem signal_eq (s : State) (c t : Nat) : signalTally s c t = { s with regs := (signalTally s c t).regs } := rfl

/-! ### Lists of units -/

theorem getD_modAt {α : Type} (xs : List α) (i j : Nat) (f : α → α) (d : α) (hi : i < xs.length) :
    (modAt xs i f).getD j d = if j = i then f (xs.getD i d) else xs.getD j d := by
  unfold modAt
  by_cases h : j = i
  · subst h
    simp [List.getD_eq_getElem?_getD, hi]
  · simp [List.getD_eq_getElem?_getD, h, Ne.symm h]

theorem coreAt_modCore (s : State) (c d : Nat) (f : Core → Core) (h : c < s.cores.length) :
    coreAt (modCore s c f) d = if d = c then f (coreAt s c) else coreAt s d := getD_modAt _ _ _ _ _ h

theorem portAt_modPort (s : State) (p q : Nat) (f : Port → Port) (h : p < s.ports.length) :
    portAt (modPort s p f) q = if q = p then f (portAt s p) else portAt s q := getD_modAt _ _ _ _ _ h

end Sys2Proof.Machine
end

