-- ==== Sys2Proof/Laws/Growth.lean ====
section
/-! SUPPORT. What every shared operation keeps: the queue of waiting commands, what has left the module, time, and the soundness of the state. One
lemma for each operation, and how they compose. -/

namespace Sys2Proof.Machine

/-- `t` follows `s` by work of the module: the queue as it was, time and outputs only more, soundness kept. -/
structure Follows (s t : State) : Prop where
  queue : t.pending = s.pending
  time : s.now ≤ t.now
  sent : s.out <+: t.out
  sound : s.Sound → t.Sound

namespace Follows

theorem refl (s : State) : Follows s s := ⟨rfl, le_refl _, List.prefix_refl _, id⟩

theorem trans {s t u : State} (h : Follows s t) (k : Follows t u) : Follows s u :=
  ⟨k.queue.trans h.queue, h.time.trans k.time, h.sent.trans k.sent, k.sound ∘ h.sound⟩

/-- A change of fields that soundness does not look at. -/
theorem aside {s t : State} (hq : t.pending = s.pending) (ht : t.now = s.now) (ho : t.out = s.out) (hm : t.mem = s.mem) (hr : t.regs = s.regs)
    (hp : t.poison = s.poison) (hc : t.cores = s.cores) (hg : t.rings = s.rings) (hd : t.channels = s.channels) (hl : t.ports = s.ports)
    (hb : t.banks = s.banks) : Follows s t := by
  refine ⟨hq, le_of_eq ht.symm, by rw [ho], fun h => ?_⟩
  simpa only [State.Sound, State.regsCanonical, State.sized, hm, hr, hp, hc, hg, hd, hl, hb] using h

theorem ite {s t u : State} {c : Prop} [Decidable c] (h : Follows s t) (k : Follows s u) : Follows s (if c then t else u) := by
  split <;> assumption

/-- Work done for each element of a list, one after the other. -/
theorem foldl {α : Type} {f : State → α → State} (h : ∀ s a, Follows s (f s a)) (xs : List α) : ∀ s, Follows s (xs.foldl f s) := by
  induction xs with
  | nil => exact refl
  | cons x xs ih => exact fun s => (h s x).trans (ih _)

end Follows

/-! ### Updates of one field -/

theorem length_modAt {α : Type} (xs : List α) (i : Nat) (f : α → α) : (modAt xs i f).length = xs.length := by simp [modAt]

/-- A register write keeps the registers canonical. -/
theorem follows_wr (s : State) (k v : Nat) : Follows s (wr s k v) := by
  refine ⟨rfl, le_refl _, List.prefix_refl _, fun ⟨hm, ⟨h1, h2⟩, hp, hz⟩ => ⟨hm, ⟨?_, ?_⟩, hp, hz⟩⟩
  · show (sput _ s.regs k _).Pairwise _
    unfold sput
    rw [List.pairwise_append, List.pairwise_append]
    refine ⟨⟨h1.filter _, by split <;> simp, ?_⟩, h1.filter _, ?_⟩
    · intro a ha b hb
      have ha := (List.mem_filter.mp ha).2
      split at hb
      · simp at hb
      · simp at hb ha; subst hb; exact ha
    · intro a ha b hb
      have hb := (List.mem_filter.mp hb).2
      simp at hb
      rcases List.mem_append.mp ha with ha | ha
      · have := (List.mem_filter.mp ha).2; simp at this; omega
      · split at ha
        · simp at ha
        · simp at ha; subst ha; exact hb
  · intro e he
    change e ∈ sput _ s.regs k _ at he
    unfold sput at he
    simp only [List.mem_append] at he
    rcases he with (he | he) | he
    · exact h2 e (List.mem_of_mem_filter he)
    · split at he
      · simp at he
      · rename_i hv; simp at he; subst he; exact hv
    · exact h2 e (List.mem_of_mem_filter he)

theorem follows_emit (s : State) (o : Out) : Follows s (emit s o) := ⟨rfl, le_refl _, List.prefix_append _ _, id⟩

theorem follows_modCore (s : State) (c : Nat) (f : Core → Core) : Follows s (modCore s c f) :=
  ⟨rfl, le_refl _, List.prefix_refl _, fun ⟨hm, hr, hp, hz⟩ => ⟨hm, hr, hp, (length_modAt _ _ _).trans hz.1, hz.2⟩⟩

theorem follows_modRing (s : State) (r : Nat) (f : Ring → Ring) : Follows s (modRing s r f) :=
  ⟨rfl, le_refl _, List.prefix_refl _, fun ⟨hm, hr, hp, hz⟩ => ⟨hm, hr, hp, hz.1, (length_modAt _ _ _).trans hz.2.1, hz.2.2⟩⟩

theorem follows_modChan (s : State) (c : Nat) (f : Channel → Channel) : Follows s (modChan s c f) :=
  ⟨rfl, le_refl _, List.prefix_refl _, fun ⟨hm, hr, hp, hz⟩ => ⟨hm, hr, hp, hz.1, hz.2.1, (length_modAt _ _ _).trans hz.2.2.1, hz.2.2.2⟩⟩

theorem follows_modPort (s : State) (p : Nat) (f : Port → Port) : Follows s (modPort s p f) :=
  ⟨rfl, le_refl _, List.prefix_refl _, fun ⟨hm, hr, hp, hz⟩ =>
    ⟨hm, hr, hp, hz.1, hz.2.1, hz.2.2.1, (length_modAt _ _ _).trans hz.2.2.2.1, hz.2.2.2.2⟩⟩

theorem follows_modBankC (s : State) (b : Nat) (f : CipherBank → CipherBank) : Follows s (modBankC s b f) :=
  ⟨rfl, le_refl _, List.prefix_refl _, fun ⟨hm, hr, hp, hz⟩ =>
    ⟨hm, hr, hp, hz.1, hz.2.1, hz.2.2.1, hz.2.2.2.1, (length_modAt _ _ _).trans hz.2.2.2.2⟩⟩

/-! ### Registers, counters, flags, messages -/

theorem follows_setFld (s : State) (k hi lo v : Nat) : Follows s (setFld s k hi lo v) := follows_wr _ _ _
theorem follows_setFlag (s : State) (k i : Nat) (b : Bool) : Follows s (setFlag s k i b) := follows_wr _ _ _
theorem follows_wr64 (s : State) (k v : Nat) : Follows s (wr64 s k v) := (follows_wr _ _ _).trans (follows_wr _ _ _)
theorem follows_countBy (s : State) (k n : Nat) : Follows s (countBy s k n) := .ite (.refl _) (follows_wr _ _ _)
theorem follows_count (s : State) (k : Nat) : Follows s (count s k) := follows_countBy _ _ _
theorem follows_signal (s : State) (c t : Nat) : Follows s (signalTally s c t) := follows_wr _ _ _

theorem follows_sendVector (s : State) (v : Nat) : Follows s (sendVector s v) := .ite (follows_setFlag _ _ _ _) (follows_emit _ _)

theorem follows_flushVectors (s : State) : Follows s (flushVectors s) :=
  .ite (.foldl (fun _ _ => .ite ((follows_setFlag _ _ _ _).trans (follows_sendVector _ _)) (.refl _)) _ _) (.refl _)

theorem follows_raiseFlag (s : State) (i k b : Nat) : Follows s (raiseFlag s i k b) :=
  (follows_setFlag s k b true).trans (.ite (.refl _) (follows_sendVector _ _))

theorem follows_submitEvent (s : State) (code source status : Nat) (payload : List Byte) :
    Follows s (submitEvent s code source status payload) :=
  .ite (.aside rfl rfl rfl rfl rfl rfl rfl rfl rfl rfl rfl) (.aside rfl rfl rfl rfl rfl rfl rfl rfl rfl rfl rfl)

theorem follows_drawNat (s : State) : Follows s (drawNat s).2 := .aside rfl rfl rfl rfl rfl rfl rfl rfl rfl rfl rfl
theorem follows_drawBytes (s : State) (k : Nat) : Follows s (drawBytes s k).2 := .aside rfl rfl rfl rfl rfl rfl rfl rfl rfl rfl rfl
theorem follows_takeTag (s : State) : Follows s (takeTag s).2 := .aside rfl rfl rfl rfl rfl rfl rfl rfl rfl rfl rfl

theorem follows_logError (s : State) (cause source arg : Nat) : Follows s (logError s cause source arg) := by
  have h1 := (follows_count s (intReg errErrCount)).trans (follows_count _ (intReg errErrCause + 4 * cause))
  have h2 := (h1.trans (follows_wr _ (intReg errErrLast) (2 ^ 31 + cause * 65536 + source))).trans (follows_wr _ (intReg errErrLastArg) arg)
  have h3 := h2.trans (follows_wr64 _ (intReg errErrLastBellLo) (bellNum s))
  exact ((h3.trans (.ite (.refl _) ((follows_wr _ _ _).trans (follows_wr _ _ _)))).trans (follows_raiseFlag _ _ _ _)).trans
    (.ite (follows_sendVector _ _) (.refl _))

/-! ### Memory -/

theorem markBlock_rising (p : List Nat) (a len b : Nat) (dirty : Bool) (h : Rising p) : Rising (markBlock p a len b dirty) := by
  unfold markBlock
  split
  · exact setIns_rising _ _ h
  · split
    · exact setDel_rising _ _ h
    · exact h

theorem foldl_rising {α : Type} {f : List Nat → α → List Nat} (hf : ∀ p a, Rising p → Rising (f p a)) (xs : List α) :
    ∀ p, Rising p → Rising (xs.foldl f p) := by
  induction xs with
  | nil => exact fun _ h => h
  | cons x xs ih => exact fun p h => ih _ (hf p x h)

theorem putMark_rising (puts : List Put) (p : List Nat) (b : Nat) (h : Rising p) : Rising (putMark puts p b) := by
  unfold putMark
  simp only
  split
  · exact setIns_rising _ _ h
  · split
    · exact setDel_rising _ _ h
    · exact h

/-- Memory and marks changed, both kept in canonical form. -/
theorem follows_mem (s : State) (m : List Host.Cell) (p : List Nat) (hm : Memory.wf s.mem = true → Memory.wf m = true)
    (hp : Rising s.poison → Rising p) : Follows s { s with mem := m, poison := p } :=
  ⟨rfl, le_refl _, List.prefix_refl _, fun h => ⟨hm h.1, h.2.1, hp h.2.2.1, h.2.2.2⟩⟩

/-! ### Errors met in memory (R166 to R172) -/

theorem follows_correctable (s : State) (a : Nat) : Follows s (correctable s a) := by
  unfold correctable
  split <;> first | exact follows_count _ _ | exact .refl _

theorem follows_setOrigins (s : State) (a len : Nat) (o : MarkOrigin) : Follows s (setOrigins s a len o) :=
  .aside rfl rfl rfl rfl rfl rfl rfl rfl rfl rfl rfl

theorem follows_uncorrectable (s : State) (a : Nat) : Follows s (uncorrectable s a) := by
  have h : Follows s (setOrigins { s with poison := setIns s.poison (a / 64) } a 1 (errorOrigin s a)) :=
    (follows_mem s s.mem _ id (setIns_rising _ _)).trans (follows_setOrigins _ _ _ _)
  unfold uncorrectable
  simp only
  generalize setOrigins { s with poison := setIns s.poison (a / 64) } a 1 (errorOrigin s a) = u at h ⊢
  split
  · exact ((((h.trans (follows_count _ _)).trans (follows_wr _ _ _)).trans (follows_setFld _ _ _ _ _)).trans (follows_raiseFlag _ _ _ _)).trans
      (follows_submitEvent _ _ _ _ _)
  · exact (h.trans (follows_count _ _)).trans (follows_submitEvent _ _ _ _ _)
  · exact h.trans (follows_submitEvent _ _ _ _ _)
  · exact h

theorem follows_clearFlaws (s : State) (p : FlawPlace → Bool) : Follows s (clearFlaws s p) :=
  .aside rfl rfl rfl rfl rfl rfl rfl rfl rfl rfl rfl

theorem follows_setBlock (s : State) (b : Nat) (word : List Nat) (bad : Bool) : Follows s (setBlock s b word bad) :=
  (follows_mem s _ (if bad || bit (leAt (word.map (BitVec.ofNat 8)) 64 5) 39 then setIns s.poison b else setDel s.poison b) (writeMem_wf _ _ _)
    (fun h => by split; exact setIns_rising _ _ h; exact setDel_rising _ _ h)).trans (.aside rfl rfl rfl rfl rfl rfl rfl rfl rfl rfl rfl)

/-- Flaws are no part of what soundness looks at. -/
theorem follows_flaws (s : State) (fs : List Flaw) : Follows s { s with flaws := fs } := .aside rfl rfl rfl rfl rfl rfl rfl rfl rfl rfl rfl

theorem follows_readBlock (s : State) (b : Nat) : Follows s (readBlock s b) := by
  unfold readBlock
  simp only
  split
  · exact follows_countBy _ _ _
  · split
    · exact ((follows_countBy _ _ _).trans (follows_setBlock _ _ _ _)).trans (follows_clearFlaws _ _)
    · exact ((follows_countBy _ _ _).trans (follows_clearFlaws _ _)).trans ((follows_setBlock _ _ _ _).trans
        ((follows_flaws _ _).trans (follows_correctable _ _)))
    · exact ((follows_countBy _ _ _).trans (follows_setBlock _ _ _ _)).trans ((follows_clearFlaws _ _).trans (follows_uncorrectable _ _))

theorem follows_readWord (s : State) (w : Nat) : Follows s (readWord s w) := by
  unfold readWord
  simp only
  split
  · exact .refl _
  · exact .ite ((follows_clearFlaws _ _).trans (follows_correctable _ _)) ((follows_clearFlaws _ _).trans
      ((follows_mem _ _ _ (writeMem_wf _ _ _) id).trans (follows_uncorrectable _ _)))

theorem follows_strike (s : State) (blocks : List Nat) : Follows s (strike s blocks) :=
  .ite (.refl _) (.foldl (fun s b => .ite (follows_readBlock s b) (.foldl (fun _ _ => follows_readWord _ _) _ _)) _ _)

theorem follows_meetMem (s : State) (a len : Nat) : Follows s (meetMem s a len) :=
  .ite (.refl _) (.ite (follows_strike _ _) (.foldl (fun _ _ => follows_readWord _ _) _ _))

theorem follows_plantOne (s : State) (f : Flaw) : Follows s (plantOne s f) :=
  .ite (.aside rfl rfl rfl rfl rfl rfl rfl rfl rfl rfl rfl) (.refl _)

theorem follows_plant (s : State) (up : Upset) : Follows s (plant s up) :=
  .ite (.refl _) ((Follows.foldl follows_plantOne _ _).trans (.ite ((follows_clearFlaws _ _).trans (follows_submitEvent _ _ _ _ _)) (follows_clearFlaws _ _)))

theorem follows_mergeRead (s : State) (a len : Nat) : Follows s (mergeRead s a len) := by
  unfold mergeRead
  refine .ite (.refl _) (.trans ?_ (follows_clearFlaws _ _))
  exact .ite (follows_strike _ _) (.foldl (fun _ _ => follows_readWord _ _) _ _)

theorem follows_mergePuts (s : State) (puts : List Put) : Follows s (mergePuts s puts) := by
  unfold mergePuts
  exact .ite (.refl _) (((follows_strike _ _).trans (.foldl (fun _ _ => follows_readWord _ _) _ _)).trans (follows_clearFlaws _ _))

/-! ### Stores -/

theorem follows_store (s : State) (a : Nat) (bs : List Byte) (dirty : Bool) : Follows s (store s a bs dirty) := by
  unfold store
  refine .ite (.refl _) (.ite (.refl _) ((follows_mergeRead s a bs.length).trans ?_))
  generalize mergeRead s a bs.length = s
  have h : Follows s { s with
      mem := writeMem s.mem a bs
      poison := (blocksOf a bs.length).foldl (fun p b => markBlock p a bs.length b dirty) s.poison } :=
    follows_mem _ _ _ (writeMem_wf _ _ _) (foldl_rising (fun _ _ => markBlock_rising _ _ _ _ _) _ _)
  exact .ite (h.trans (.foldl (fun _ _ => .ite (.refl _) (follows_count _ _)) _ _)) h

theorem follows_storeRange (s : State) (a : Nat) (bs : List Byte) (dirty : Bool) : Follows s (storeRange s a bs dirty) :=
  .ite ((follows_store _ _ _ _).trans (.foldl (fun _ _ => follows_store _ _ _ _) _ _)) (follows_store _ _ _ _)

theorem foldl_writeMem_wf {α : Type} (f : α → Nat × List Byte) (xs : List α) :
    ∀ m, Memory.wf m = true → Memory.wf (xs.foldl (fun m x => writeMem m (f x).1 (f x).2) m) = true := by
  induction xs with
  | nil => exact fun _ h => h
  | cons x xs ih => exact fun m h => ih _ (writeMem_wf _ _ _ h)

theorem follows_putBytes (s : State) (puts : List Put) : Follows s (putBytes s puts) :=
  (follows_mergePuts s _).trans
    (follows_mem _ _ _ (foldl_writeMem_wf (fun p : Put => (p.1, [p.2.1])) _ _) (foldl_rising (fun _ _ => putMark_rising _ _ _) _ _))

theorem follows_countPartial (s : State) (puts : List Put) : Follows s (countPartial s puts) :=
  .foldl (fun _ _ => .ite (follows_count _ _) (.refl _)) _ _

theorem follows_putPieces (s : State) (rs : List (Nat × List Byte × Bool)) : Follows s (putPieces s rs) :=
  ((follows_mergePuts s _).trans
    (follows_mem _ _ _ (foldl_writeMem_wf (fun p : Nat × List Byte × Bool => (p.1, p.2.1)) _ _) (foldl_rising (fun _ _ => putMark_rising _ _ _) _ _))).trans
    (follows_countPartial _ _)

theorem follows_poisonRange (s : State) (a len unit : Nat) : Follows s (poisonRange s a len unit) :=
  (follows_mem s s.mem _ id (foldl_rising (fun _ _ => setIns_rising _ _) _ _)).trans (follows_setOrigins _ _ _ _)

/-! ### Packets -/

theorem follows_deliver (s : State) (pkt : Packet) (port : Option Nat) (cls : Nat) (core : Option Nat) : Follows s (deliver s pkt port cls core) :=
  .aside rfl rfl rfl rfl rfl rfl rfl rfl rfl rfl rfl

theorem follows_enqueue (s : State) (p cls input : Nat) (core : Option Nat) (pkt : Packet) : Follows s (enqueue s p cls input core pkt) :=
  (follows_modPort _ _ _).trans (.aside rfl rfl rfl rfl rfl rfl rfl rfl rfl rfl rfl)

theorem follows_launch (s : State) (core : Option Nat) (pkt : Packet) : Follows s (launch s core pkt) := by
  unfold launch
  split
  · exact follows_deliver _ _ _ _ _
  · exact follows_enqueue _ _ _ _ _ _
  · simp only
    split
    · exact (follows_count _ _).trans (follows_deliver _ _ _ _ _)
    · exact follows_count _ _

theorem follows_inject (s : State) (c : Nat) (bell : Option Nat) (pkt : Packet) : Follows s (inject s c bell pkt) := by
  unfold inject
  simp only
  split
  · exact follows_modCore _ _ _
  · split
    · exact follows_launch _ _ _
    · exact (follows_modCore _ _ _).trans (follows_launch _ _ _)

theorem follows_sendStep (s : State) (n : Nat) (core : Option Nat) (pkt : Packet) : Follows s (sendStep s n core pkt) := by
  unfold sendStep
  split
  · exact .aside rfl rfl rfl rfl rfl rfl rfl rfl rfl rfl rfl
  · split
    · exact follows_inject _ _ _ _
    · exact follows_launch _ _ _

theorem follows_drainSendQ (s : State) (c : Nat) : Follows s (drainSendQ s c) :=
  (follows_modCore _ _ _).trans (.foldl (fun s e => by split <;> first | exact follows_sendStep _ _ _ _ | exact follows_inject _ _ _ _) _ _)

theorem follows_returnCredit (s : State) (c vc : Nat) : Follows s (returnCredit s c vc) :=
  (follows_modCore _ _ _).trans (follows_drainSendQ _ _)

theorem follows_releaseHeld (s : State) (n : Nat) : Follows s (releaseHeld s n) := by
  refine Follows.trans (t := { s with withheld := s.withheld.filter (fun w => w.1 != n) })
    (.aside rfl rfl rfl rfl rfl rfl rfl rfl rfl rfl rfl) (.foldl (fun s w => ?_) _ _)
  split
  · exact follows_inject _ _ _ _
  · exact follows_launch _ _ _

theorem follows_consume (s : State) (i : InPkt) : Follows s (consume s i) := by
  have h : Follows s { s with inbox := s.inbox.erase i } := .aside rfl rfl rfl rfl rfl rfl rfl rfl rfl rfl rfl
  unfold consume
  cases i.core <;> cases i.port
  · exact h
  · exact h.trans (follows_modPort _ _ _)
  · exact h.trans (follows_returnCredit _ _ _)
  · exact (h.trans (follows_returnCredit _ _ _)).trans (follows_modPort _ _ _)

end Sys2Proof.Machine
end

