-- ==== Sys2Proof/Laws/Ops.lean ====
section
/-! SUPPORT. What the shared operations change: for each, the fields that may differ afterwards, every other as before. -/

namespace Sys2Proof.Machine

/-! ### Operations on registers -/

theorem regs_trans {s t u : State} (h : t = { s with regs := t.regs }) (k : u = { t with regs := u.regs }) : u = { s with regs := u.regs } :=
  k.trans (congrArg (fun x : State => { x with regs := u.regs }) h)

theorem foldl_regs {α : Type} {f : State → α → State} (h : ∀ s a, f s a = { s with regs := (f s a).regs }) (xs : List α) :
    ∀ s, xs.foldl f s = { s with regs := (xs.foldl f s).regs } := by
  induction xs with
  | nil => exact fun _ => rfl
  | cons x xs ih => exact fun s => regs_trans (h s x) (ih _)

theorem wr_eq (s : State) (k v : Nat) : wr s k v = { s with regs := (wr s k v).regs } := rfl
theorem setFld_eq (s : State) (k hi lo v : Nat) : setFld s k hi lo v = { s with regs := (setFld s k hi lo v).regs } := rfl
theorem setFlag_eq (s : State) (k i : Nat) (b : Bool) : setFlag s k i b = { s with regs := (setFlag s k i b).regs } := rfl
theorem wr64_eq (s : State) (k v : Nat) : wr64 s k v = { s with regs := (wr64 s k v).regs } := rfl

theorem countBy_eq (s : State) (k n : Nat) : countBy s k n = { s with regs := (countBy s k n).regs } := by
  unfold countBy; split <;> rfl

/-- A field reads back what was put there, as far as it is wide. -/
theorem fld_setFld_same (s : State) (k hi lo v : Nat) : fld (setFld s k hi lo v) k hi lo = bits (setBits (rd s k) hi lo v % 2 ^ 32) hi lo := by
  simp [fld, setFld]

/-- A field of another register is as it was. -/
theorem fld_setFld_ne (s : State) (k j hi lo h l v : Nat) (hj : j ≠ k) : fld (setFld s k hi lo v) j h l = fld s j h l := by
  simp [fld, setFld, rd_wr_ne _ _ _ _ hj]

/-! ### Operations that may also send -/

theorem regs_out_trans {s t u : State} (h : t = { s with regs := t.regs, out := t.out }) (k : u = { t with regs := u.regs, out := u.out }) :
    u = { s with regs := u.regs, out := u.out } :=
  k.trans (congrArg (fun x : State => { x with regs := u.regs, out := u.out }) h)

theorem regs_regs_out {s t : State} (h : t = { s with regs := t.regs }) : t = { s with regs := t.regs, out := t.out } := by
  have : t.out = s.out := (congrArg State.out h).trans rfl
  rw [this]
  exact h

theorem sendVector_eq (s : State) (v : Nat) : sendVector s v = { s with regs := (sendVector s v).regs, out := (sendVector s v).out } := by
  unfold sendVector; simp only; split <;> rfl

theorem raiseFlag_eq (s : State) (i k b : Nat) : raiseFlag s i k b = { s with regs := (raiseFlag s i k b).regs, out := (raiseFlag s i k b).out } := by
  unfold raiseFlag
  simp only
  split
  · rfl
  · exact regs_out_trans (regs_regs_out (setFlag_eq s k b true)) (sendVector_eq _ _)

theorem logError_eq (s : State) (cause source arg : Nat) :
    logError s cause source arg = { s with regs := (logError s cause source arg).regs, out := (logError s cause source arg).out } := by
  unfold logError
  simp only
  have h (t : State) (ht : t = { s with regs := t.regs }) :
      (if (!flag t (intReg errErrEvent) 31 && flag (raiseFlag t 12 (intReg errErrEvent) 31) (intReg errErrCtrl) 31) = true
        then sendVector (raiseFlag t 12 (intReg errErrEvent) 31) (fld (raiseFlag t 12 (intReg errErrEvent) 31) (irqReg irqErrVec) 7 0)
        else raiseFlag t 12 (intReg errErrEvent) 31) =
      { s with
        regs := (if (!flag t (intReg errErrEvent) 31 && flag (raiseFlag t 12 (intReg errErrEvent) 31) (intReg errErrCtrl) 31) = true
          then sendVector (raiseFlag t 12 (intReg errErrEvent) 31) (fld (raiseFlag t 12 (intReg errErrEvent) 31) (irqReg irqErrVec) 7 0)
          else raiseFlag t 12 (intReg errErrEvent) 31).regs
        out := (if (!flag t (intReg errErrEvent) 31 && flag (raiseFlag t 12 (intReg errErrEvent) 31) (intReg errErrCtrl) 31) = true
          then sendVector (raiseFlag t 12 (intReg errErrEvent) 31) (fld (raiseFlag t 12 (intReg errErrEvent) 31) (irqReg irqErrVec) 7 0)
          else raiseFlag t 12 (intReg errErrEvent) 31).out } := by
    have hr := regs_out_trans (regs_regs_out ht) (raiseFlag_eq t 12 (intReg errErrEvent) 31)
    split
    · exact regs_out_trans hr (sendVector_eq _ _)
    · exact hr
  apply h
  split
  · exact regs_trans (regs_trans (regs_trans (count_eq s _) (count_eq _ _)) (regs_trans (wr_eq _ _ _) (wr_eq _ _ _))) (wr64_eq _ _ _)
  · exact regs_trans (regs_trans (regs_trans (regs_trans (count_eq s _) (count_eq _ _)) (regs_trans (wr_eq _ _ _) (wr_eq _ _ _))) (wr64_eq _ _ _))
      (regs_trans (wr_eq _ _ _) (wr_eq _ _ _))

theorem submitEvent_eq (s : State) (code source status : Nat) (payload : List Byte) :
    submitEvent s code source status payload = { s with recorder := (submitEvent s code source status payload).recorder } := by
  unfold submitEvent; split <;> rfl

/-! ### Errors met in memory (R166 to R172) -/

/-- What a read that may meet errors can change: memory with its marks, its flaws, registers, what is sent, recorded and judged. -/
def ErrorsMet (s t : State) : Prop :=
  t = { s with mem := t.mem, poison := t.poison, frc := t.frc, flaws := t.flaws, regs := t.regs, out := t.out, recorder := t.recorder,
               integrity := t.integrity }

namespace ErrorsMet

theorem refl (s : State) : ErrorsMet s s := rfl

theorem trans {s t u : State} (h : ErrorsMet s t) (k : ErrorsMet t u) : ErrorsMet s u :=
  Eq.trans k (congrArg (fun x : State => { x with
    mem := u.mem, poison := u.poison, frc := u.frc, flaws := u.flaws, regs := u.regs, out := u.out, recorder := u.recorder,
    integrity := u.integrity }) h)

theorem foldl {α : Type} {f : State → α → State} (h : ∀ s a, ErrorsMet s (f s a)) (xs : List α) : ∀ s, ErrorsMet s (xs.foldl f s) := by
  induction xs with
  | nil => exact refl
  | cons x xs ih => exact fun s => (h s x).trans (ih _)

theorem ite {s t u : State} {c : Prop} [Decidable c] (h : ErrorsMet s t) (k : ErrorsMet s u) : ErrorsMet s (if c then t else u) := by
  split <;> assumption

theorem of_regs {s t : State} (h : t = { s with regs := t.regs }) : ErrorsMet s t := by rw [h]; rfl
theorem of_regs_out {s t : State} (h : t = { s with regs := t.regs, out := t.out }) : ErrorsMet s t := by rw [h]; rfl
theorem of_recorder {s t : State} (h : t = { s with recorder := t.recorder }) : ErrorsMet s t := by rw [h]; rfl

end ErrorsMet

theorem errors_correctable (s : State) (a : Nat) : ErrorsMet s (correctable s a) := by
  unfold correctable
  split <;> first | exact .of_regs (count_eq _ _) | exact .refl _

theorem errors_setOrigins (s : State) (a len : Nat) (o : MarkOrigin) : ErrorsMet s (setOrigins s a len o) := rfl

theorem errors_uncorrectable (s : State) (a : Nat) : ErrorsMet s (uncorrectable s a) := by
  have e (x : State) (code source status : Nat) (payload : List Byte) := ErrorsMet.of_recorder (submitEvent_eq x code source status payload)
  have h : ErrorsMet s (setOrigins { s with poison := setIns s.poison (a / 64) } a 1 (errorOrigin s a)) := rfl
  unfold uncorrectable
  simp only
  generalize setOrigins { s with poison := setIns s.poison (a / 64) } a 1 (errorOrigin s a) = u at h ⊢
  split
  · exact ((((h.trans (.of_regs (count_eq _ _))).trans (.of_regs (wr_eq _ _ _))).trans (.of_regs (setFld_eq _ _ _ _ _))).trans
      (.of_regs_out (raiseFlag_eq _ _ _ _))).trans (e _ _ _ _ _)
  · exact (h.trans (.of_regs (count_eq _ _))).trans (e _ _ _ _ _)
  · exact h.trans (e _ _ _ _ _)
  · exact h

theorem errors_clearFlaws (s : State) (p : FlawPlace → Bool) : ErrorsMet s (clearFlaws s p) := rfl
theorem errors_setBlock (s : State) (b : Nat) (word : List Nat) (bad : Bool) : ErrorsMet s (setBlock s b word bad) := rfl

/-- A block read may be corrected, or poisoned, with what that counts, records and judges. -/
theorem errors_readBlock (s : State) (b : Nat) : ErrorsMet s (readBlock s b) := by
  have c := ErrorsMet.of_regs (countBy_eq s (mcReg (stackOf (64 * b)) mcOndieCount) ((flawsAt s (.onDie b)).map Flaw.err).sum)
  have flaws (x : State) (fs : List Flaw) : ErrorsMet x { x with flaws := fs } := rfl
  unfold readBlock
  simp only
  split
  · exact c
  · split
    · exact (c.trans (errors_setBlock _ _ _ _)).trans (errors_clearFlaws _ _)
    · exact (c.trans (errors_clearFlaws _ _)).trans ((errors_setBlock _ _ _ _).trans ((flaws _ _).trans (errors_correctable _ _)))
    · exact (c.trans (errors_setBlock _ _ _ _)).trans ((errors_clearFlaws _ _).trans (errors_uncorrectable _ _))

theorem errors_readWord (s : State) (w : Nat) : ErrorsMet s (readWord s w) := by
  have mem (x : State) (m : List Host.Cell) : ErrorsMet x { x with mem := m } := rfl
  unfold readWord
  simp only
  split
  · exact .refl _
  · exact .ite ((errors_clearFlaws _ _).trans (errors_correctable _ _)) ((errors_clearFlaws _ _).trans ((mem _ _).trans (errors_uncorrectable _ _)))

theorem errors_strike (s : State) (blocks : List Nat) : ErrorsMet s (strike s blocks) :=
  .ite (.refl _) (.foldl (fun _ _ => .ite (errors_readBlock _ _) (.foldl (fun _ _ => errors_readWord _ _) _ _)) _ _)

/-- A read of memory meets errors and does nothing else. -/
theorem errors_meetMem (s : State) (a len : Nat) : ErrorsMet s (meetMem s a len) :=
  .ite (.refl _) (.ite (errors_strike _ _) (.foldl (fun _ _ => errors_readWord _ _) _ _))

theorem errors_mergeRead (s : State) (a len : Nat) : ErrorsMet s (mergeRead s a len) := by
  unfold mergeRead
  exact .ite (.refl _) ((ErrorsMet.ite (errors_strike _ _) (.foldl (fun _ _ => errors_readWord _ _) _ _)).trans (errors_clearFlaws _ _))

theorem errors_mergePuts (s : State) (puts : List Put) : ErrorsMet s (mergePuts s puts) := by
  unfold mergePuts
  exact .ite (.refl _) (((errors_strike _ _).trans (.foldl (fun _ _ => errors_readWord _ _) _ _)).trans (errors_clearFlaws _ _))

/-! Without flaws no read meets an error. -/

@[simp] theorem strike_none (s : State) (blocks : List Nat) (h : s.flaws = []) : strike s blocks = s := by simp [strike, h]
@[simp] theorem meetMem_none (s : State) (a len : Nat) (h : s.flaws = []) : meetMem s a len = s := by simp [meetMem, h]
@[simp] theorem mergeRead_none (s : State) (a len : Nat) (h : s.flaws = []) : mergeRead s a len = s := by simp [mergeRead, h]
@[simp] theorem mergePuts_none (s : State) (puts : List Put) (h : s.flaws = []) : mergePuts s puts = s := by simp [mergePuts, h]
@[simp] theorem plant_none (s : State) : plant s {} = s := by simp [plant]

/-! ### Memory -/

/-- A store changes memory, its marks, the counters of partial writes, and what an error in a block it merges with changes. -/
theorem errors_store (s : State) (a : Nat) (bs : List Byte) (dirty : Bool) : ErrorsMet s (store s a bs dirty) := by
  have put (x : State) (m : List Host.Cell) (p : List Nat) : ErrorsMet x { x with mem := m, poison := p } := rfl
  unfold store
  exact .ite (.refl _) (.ite (.refl _) ((errors_mergeRead _ _ _).trans ((put _ _ _).trans
    (.ite (.foldl (fun _ _ => .ite (.refl _) (.of_regs (count_eq _ _))) _ _) (.refl _)))))

/-- A store where nothing is flawed changes memory, its marks and the counters of partial writes. -/
theorem store_eq (s : State) (a : Nat) (bs : List Byte) (dirty : Bool) (hf : s.flaws = []) :
    store s a bs dirty = { s with mem := (store s a bs dirty).mem, poison := (store s a bs dirty).poison, regs := (store s a bs dirty).regs } := by
  unfold store
  split
  · rfl
  · split
    · rfl
    · simp only [mergeRead_none s _ _ hf]
      split
      · generalize hb : blocksOf a bs.length = bl
        have h := foldl_regs (f := fun s b => if a ≤ 64 * b ∧ 64 * b + 64 ≤ a + bs.length then s else count s (mcReg (stackOf (64 * b)) mcRmwCount))
          (fun s b => by split; rfl; exact count_eq _ _) bl
          { s with mem := writeMem s.mem a bs, poison := bl.foldl (fun p b => markBlock p a bs.length b dirty) s.poison }
        rw [h]
      · rfl

/-- Where the stack lives and nothing is flawed, a store leaves exactly its bytes in memory. -/
theorem store_mem (s : State) (a : Nat) (bs : List Byte) (dirty : Bool) (h : deadStack s a = false) (hf : s.flaws = []) :
    (store s a bs dirty).mem = if bs = [] then s.mem else writeMem s.mem a bs := by
  unfold store
  by_cases he : bs = []
  · simp [he]
  · simp only [List.isEmpty_iff, he, h, if_false, Bool.false_eq_true, mergeRead_none s _ _ hf]
    split
    · generalize blocksOf a bs.length = bl
      have h := foldl_regs (f := fun s b => if a ≤ 64 * b ∧ 64 * b + 64 ≤ a + bs.length then s else count s (mcReg (stackOf (64 * b)) mcRmwCount))
        (fun s b => by split; rfl; exact count_eq _ _) bl
        { s with mem := writeMem s.mem a bs, poison := bl.foldl (fun p b => markBlock p a bs.length b dirty) s.poison }
      rw [h]
    · rfl

theorem errors_putBytes (s : State) (puts : List Put) : ErrorsMet s (putBytes s puts) := by
  have put (x : State) (m : List Host.Cell) (p : List Nat) : ErrorsMet x { x with mem := m, poison := p } := rfl
  exact (errors_mergePuts _ _).trans (put _ _ _)

/-- Where nothing is flawed, the bytes of one instruction change memory and its marks alone. -/
theorem putBytes_eq (s : State) (puts : List Put) (hf : s.flaws = []) :
    putBytes s puts = { s with mem := (putBytes s puts).mem, poison := (putBytes s puts).poison } := by
  simp [putBytes, mergePuts_none s _ hf]

/-- A failed unit's range is marked, and where its marks arose is recorded. -/
theorem poisonRange_eq (s : State) (a len unit : Nat) : poisonRange s a len unit =
    { s with poison := (blocksOf a len).foldl setIns s.poison, integrity := (poisonRange s a len unit).integrity } := rfl

/-! ### Packets -/

theorem enqueue_eq (s : State) (p cls input : Nat) (core : Option Nat) (pkt : Packet) :
    enqueue s p cls input core pkt = { s with ports := (enqueue s p cls input core pkt).ports, routed := s.routed + 1 } := rfl

/-- A packet put on its way changes what waits here or at a port, and a counter. -/
theorem launch_eq (s : State) (core : Option Nat) (pkt : Packet) : launch s core pkt =
    { s with inbox := (launch s core pkt).inbox, ports := (launch s core pkt).ports, regs := (launch s core pkt).regs,
             routed := (launch s core pkt).routed } := by
  unfold launch
  split
  · rfl
  · rfl
  · simp only
    split <;> rfl

/-- A packet for this module itself is delivered here. -/
theorem launch_here (s : State) (core : Option Nat) (pkt : Packet) (h : pkt.dst = ownXyz s) : launch s core pkt = deliver s pkt none 0 core := by
  unfold launch routeOf
  simp [h]

/-- A packet that no core of this module sent, taken: it leaves the inbox and its port is owed a credit. -/
theorem consume_eq (s : State) (i : InPkt) (h : i.core = none) : consume s i = { s with inbox := s.inbox.erase i, ports := (consume s i).ports } := by
  unfold consume; rw [h]; cases i.port <;> rfl

end Sys2Proof.Machine
end

