-- ==== Sys2Proof/Tests/Slice0.lean ====
section
/-! SUPPORT. Tests of the model: ill-formed commands are recognised, worked values of the manual and of the published standards, and for each
statement about the model a state and operands that meet its hypotheses. -/

namespace Sys2Proof.Tests

open Sys2Proof Sys2Proof.Machine

set_option Elab.async false

/-! ### Helpers -/

/-- A module whose function is ready, with the host's link up. -/
def up : State := { State.reset with
  power := { State.reset.power with running := true, ready := true, linkUp := true, busMaster := true, perst := false } }

/-- `up` with registers set. -/
def upWith (ws : List (Nat × Nat)) : State := ws.foldl (fun s w => wr s w.1 w.2) up

/-- The state that a command leads to, where it leads to one. -/
def after (i : Instr) (s : State) : State :=
  match exec i s with
  | .next t => t
  | _ => s

/-! ### Ill-formed commands, one for each check -/

theorem test_wf_core : (Instr.tilePassEnd 64 {}).wf = false := by decide
theorem test_wf_port : (Instr.nakHoldoffTimer 8).wf = false := by decide
theorem test_wf_ring : (Instr.completionWrite 64).wf = false := by decide
theorem test_wf_channel : (Instr.dmaDescEnd 32).wf = false := by decide
theorem test_wf_tally : (Instr.tallySignal 63 64).wf = false := by decide
theorem test_wf_region : (Instr.regionCtrlWrite .host 16 0).wf = false := by decide
theorem test_wf_road : (Instr.keepaliveTimer 16).wf = false := by decide
theorem test_wf_partner : (Instr.ackDelayTimer 4).wf = false := by decide
theorem test_wf_bank : (Instr.urgentSuspend 5).wf = false ∧ (Instr.cipherMessageDone 5 0).wf = false := by decide
theorem test_wf_cipher_core : (Instr.cipherMessageDone 4 80).wf = false ∧ (Instr.cipherMessageDone 3 255).wf = true := by decide
theorem test_wf_probes : (Instr.calibrateDone 0 [1, 2, 3]).wf = false := by decide
theorem test_wf_lane : (Instr.laneSignalLoss 7 8).wf = false := by decide
theorem test_wf_requester : (Instr.undoGo (.core 64)).wf = false := by decide
theorem test_wf_source : (Instr.nop (.ring 64)).wf = false ∧ (Instr.nop .step).wf = true := by decide
theorem test_wf_offset : (Instr.rcCounterRead .host 0x4040000 4).wf = false := by decide
theorem test_wf_width : (Instr.loHalfRead .host 0 3).wf = false := by decide
theorem test_wf_value : (Instr.sqTailDoorbell 0 1 256).wf = false := by decide
theorem test_wf_word : (Instr.pwrLimitWrite .host (2 ^ 32)).wf = false := by decide
theorem test_wf_data : (Instr.bar4Access true 0 2 [0] false {}).wf = false ∧ (Instr.bar4Access false 0 2 [0, 0] false {}).wf = false := by decide

/-! ### Worked values of the manual -/

/-- Spec 00, worked example after R19. -/
theorem test_core_block : coreReg 37 0 = 0x125000 ∧ portReg 3 0 = 0x20C000 := by decide

/-- Spec 02, worked example after R57: 3.3 under e = −2 is 13.2, which lies between 13 and 14. -/
theorem test_e4m3_rounding :
    (e4m3.convert (.fin false (13 * 65536 + 13107) (-16)) .rne).enc = 0x55 ∧
    (e4m3.convert (.fin false (13 * 65536 + 13107) (-16)) (.sr 60000)).enc = 0x56 ∧
    (e4m3.convert (.fin false (13 * 65536 + 13107) (-16)) (.sr 1000)).enc = 0x55 := by decide +kernel

/-- Spec 02, worked example after R66: H = 0 and m = 1 give e = −29 for SQ32; 0.61 has step maximum 0; 2⁻³¹ is counted as vanish. -/
theorem test_scale_exponent :
    derivedExp (scaleEntry (putSetting [] 0 0) 0 |> fun x => { x with margin := 1, fmt := 0xB }) 0 = -29 ∧
    stepMax (.fin false 61 (-6)) = some 0 ∧ stepMax (.fin false 61 (-9)) = some (-3) ∧
    (convSq32 (.fin false 1 (-2)) .rne).flush = true := by decide +kernel

/-- Spec 06, worked example after R158: the offset 0x12_3456_7A80 lies in stack 2. -/
theorem test_stack_of : stackOf 0x1234567A80 = 2 := by decide +kernel

/-- Spec 06, worked example after Table 6.7: rate 1, source FP32 and Q = −20 make the tag 0x44EC. -/
theorem test_frc_tag : frcTag 1 1 (-20) = 0x44EC := by decide +kernel

/-- Spec 06, the same example: 256 values of 2⁻¹⁸ give Q = −20 and a payload of 128 bytes, four bits each. -/
theorem test_frc_encode :
    (frcEncode 1 false (List.replicate 256 (.fin false 1 (-18)))).map (fun r => (r.1, r.2.length, r.2.head?)) = some (-20, 128, some 0x44) := by
  decide +kernel

/-- Spec 12, worked example after R374: from (30, 5, 2) to (1, 20, 14) x goes up; from (1, 20, 2) z goes down. -/
theorem test_route :
    nextHop (wr up (fabReg fabTorusSize) 0x0F1F1F) ⟨30, 5, 2⟩ ⟨1, 20, 14⟩ = some (0, true) ∧
    nextHop (wr up (fabReg fabTorusSize) 0x0F1F1F) ⟨1, 20, 2⟩ ⟨1, 20, 14⟩ = some (2, false) := by decide +kernel

/-- Spec 13, worked example after R413: a sum of 214,748,365 over a divisor of 3 under e = −29 is 0x3E088889 in FP32. -/
theorem test_reduced_value : (fp32.convert (reducedValue 214748365 3 (-29)) .rne).enc = 0x3E088889 := by decide +kernel

/-- Spec 16, worked example: the nonce of core 37 of bank 1 for port 3, power cycle 0xA2F, count 0x12. -/
theorem test_nonce : beBytes 12 (nonceOf 1 37 3 1 0xA2F 0x12) = [0x22, 0x53, 0x01, 0x00, 0x00, 0x0A, 0x2F, 0x00, 0x00, 0x00, 0x00, 0x12] := by
  decide +kernel

/-- Spec 18, worked example: hour 12,345 and second 1,807 make the TIME bytes 0F 97 03 03 00; SEQ and SOURCE are in their places. -/
theorem test_record_bytes :
    slice (entryBytes 0x0400 0x3005 901 (12345, 1807) 0xA2F 1 0x11 []) 8 5 = [0x0F, 0x97, 0x03, 0x03, 0x00] ∧
    slice (entryBytes 0x0400 0x3005 901 (12345, 1807) 0xA2F 1 0x11 []) 13 3 = [0x2F, 0x0A, 0x00] ∧
    entrySeq (entryBytes 0x0400 0x3005 901 (12345, 1807) 0xA2F 1 0x11 []) = 901 := by decide +kernel

/-- Spec 19, worked example after R549: an input of 62.0 V limits power to 3,007 W. -/
theorem test_effective_limit : effectiveLimit { up with power := { up.power with inputDv := 620 } } = 3007 := by decide +kernel

/-- Spec 07, worked example after R199: three fields of 1,000 cells; source position 1,234 goes to target 1,411; a burst is 170 cells. -/
theorem test_split_target :
    let d : ChanDesc := ChanDesc.ofBytes (List.replicate 128 0)
    let f : ChanDesc := { d with op := 1, fields := 3, esize := 3, src := ⟨0x8000000010000000, 8, 0, 0, 3000, 1, 1⟩, dst := ⟨0x400000000, 8, 0x100000, 0, 1000, 3, 1⟩ }
    f.target 1234 = 1411 ∧ f.dst.at_ 1411 = 0x400100CD8 ∧ f.burst = 510 := by decide +kernel

/-- Spec 20, worked example: the first error is 0x01 from core 12, the last 0x04 from the host; two errors are counted. -/
theorem test_error_log :
    let s := logError (logError up 1 (sourceOf (.core 12)) 0x1140) 4 (sourceOf .host) 0x214018
    rd s (intReg errErrFirst) = 0x8001100C ∧ rd s (intReg errErrFirstArg) = 0x1140 ∧ rd s (intReg errErrLast) = 0x80040000 ∧
    rd s (intReg errErrLastArg) = 0x214018 ∧ rd s (intReg errErrCount) = 2 := by decide +kernel

/-! ### Values of published standards -/

/-- FIPS 197: the S-box at 0x53 and a column of MixColumns. -/
theorem test_aes_parts :
    subByte 0x53 = 0xED ∧ (mixColumns [0xDB, 0x13, 0x53, 0x45, 1, 1, 1, 1, 1, 1, 1, 1, 1, 1, 1, 1]).take 4 = [0x8E, 0x4D, 0xA1, 0xBC] := by
  decide +kernel

/-- FIPS 180: SHA-256 of "abc" begins BA7816BF. -/
theorem test_sha256 : (sha256 [0x61, 0x62, 0x63]).take 4 = [0xBA, 0x78, 0x16, 0xBF] := by decide +kernel

/-- The CRC-32C of "123456789" is 0xE3069283. -/
theorem test_crc32c : crc32c [0x31, 0x32, 0x33, 0x34, 0x35, 0x36, 0x37, 0x38, 0x39] = 0xE3069283 := by decide +kernel

/-- An INT8 column sum, 3·5 + (−1)·2, reaches the bank as the integer 13 (R90). -/
theorem test_tile_int8_sum :
    (combine 0xA false 0 (columnSum [decodeElem 0xA 3, decodeElem 0xA 0xFF] [decodeElem 0xA 5, decodeElem 0xA 2])).1 = 13 := by decide +kernel

/-! ### Witnesses: for each statement a state and operands that meet its hypotheses -/

/-- A module whose power state is changed. -/
def powered (f : Power → Power) : State := { State.reset with power := f State.reset.power }

/-- PowerUpSequence. -/
theorem witness_power_up : up.power.mainOn = true ∧
    (let s := powered (fun p => { p with perst := false }); s.power.pwrGood = true ∧ s.power.perst = false ∧ s.power.running = false) ∧
    (let s := powered (fun p => { p with pwrEn := false, mainOn := false, latch := some .trip }); s.power.pwrEn = false ∧ s.power.latch.isSome = true) := by
  decide

/-- FunctionReadyMarksStacks. -/
theorem witness_function_ready : (let s := powered (fun p => { p with running := true }); s.power.running = true ∧ s.power.ready = false) := by decide

/-- PerstResetsPackage and MainDomainGoesOff, the trip at its threshold. -/
theorem witness_main_off :
    up.power.mainOn = true ∧ up.power.pwrEn = true ∧ up.power.mc ≠ .off ∧ up.power.latch ≠ some .trip ∧
    tempLimits 16 = some (950, 1000, 1100) ∧ (950, 1000, 1100).2.2 ≤ 1100 := by decide

/-- BootSelectsImage. -/
theorem witness_boot :
    (let s := powered (fun p => { p with mc := .off }); s.power.mc = .off ∧ 630 ≤ 630) ∧
    (let s := powered (fun p => { p with mc := .booting }); s.power.mc = .booting ∧ s.recorder.queue.length + 3 ≤ 1024) := by decide

/-- SensorsAndPowerLimit: a reading just below the trip threshold, a requester, and values at both ends of the limit's range. -/
theorem witness_sensors :
    tempLimits 16 = some (950, 1000, 1100) ∧ (1099 : Nat) < (950, 1000, 1100).2.2 ∧ up.power.mc ≠ .off ∧ up.power.mainOn = true ∧
    live up = true ∧ mayAsk up .host = true ∧ mayAsk up (.core 5) = true ∧ (1000 ≤ 1000 ∧ 1000 ≤ 3200) ∧ (1000 ≤ 3200 ∧ 3200 ≤ 3200) ∧
    (999 < 1000 ∨ 3200 < 999) ∧ (3201 < 1000 ∨ 3200 < 3201) := by decide

/-- A journal that holds one record, and a module with it. -/
def recorded : State :=
  { up with recorder := { up.recorder with
      queue := [⟨0x0400, 0x3005, 0x11, padTo 40 [], (0, 0), 0⟩]
      bank0 := { up.recorder.bank0 with entries := [entryBytes 0x0400 0x3005 7 (0, 0) 0xA2F 1 0x11 (padTo 40 [])] }
      nextSeq := 8 } }

/-- EventsQueuedMergedRecorded: a queue with room and a full one; an event like the newest record and one unlike it. -/
theorem witness_events :
    up.power.mc ≠ .off ∧ up.recorder.queue.length < 1024 ∧
    (let s := { up with recorder := { up.recorder with queue := List.replicate 1024 ⟨0, 0, 0, [], (0, 0), 0⟩ } }; 1024 ≤ s.recorder.queue.length) ∧
    recorderFree recorded = true ∧ recorded.recorder.merged = none ∧ recorded.recorder.lost = 0 ∧ recorded.recorder.queue ≠ [] ∧
    (activeJournal recorded.recorder).entries.length + 1 < compactAt := by decide +kernel

theorem witness_event_merged :
    newestRecord (activeJournal recorded.recorder) = some (entryBytes 0x0400 0x3005 7 (0, 0) 0xA2F 1 0x11 (padTo 40 [])) ∧
    identical ⟨0x0400, 0x3005, 0x11, padTo 40 [], (0, 0), 0⟩ (entryBytes 0x0400 0x3005 7 (0, 0) 0xA2F 1 0x11 (padTo 40 [])) = true ∧
    identical ⟨0x0401, 0x3005, 0x11, padTo 40 [], (0, 0), 0⟩ (entryBytes 0x0400 0x3005 7 (0, 0) 0xA2F 1 0x11 (padTo 40 [])) = false := by decide +kernel

/-- JournalEntriesAndConfig. -/
theorem witness_journal :
    (let s := { recorded with recorder := { recorded.recorder with merged := some 3 } }
     recorderFree s = true ∧ s.recorder.merged = some 3 ∧ (newestRecord (activeJournal s.recorder)).isSome = true ∧
     (activeJournal s.recorder).entries.length + 1 < compactAt) ∧
    (let s := { recorded with recorder := { recorded.recorder with compacting := true } }
     s.power.mc = .booted ∧ s.recorder.compacting = true ∧ s.recorder.activeBank < 2) ∧
    ((activeJournal up.recorder).entries.length < bankPositions ∧ (configKeys (activeJournal up.recorder)).length < 4096) ∧
    live up = true ∧ mayAsk up .host = true := by decide +kernel

/-- A module with an owner's session open: configuration key 0x0010 names the owner, who proved the certificate. -/
def keyed : State :=
  let s := writeHouse up 0xF002 (configPayload 0x10 (some (List.replicate 32 7)))
  { s with manage := { s.manage with session := some (List.replicate 32 7, true) } }

/-- KeyStoreCommands, both key spaces at their last slot, in such a session and outside one. -/
theorem witness_key_store :
    keyed.power.mc = .booted ∧ slotExists 0 63 = true ∧ slotExists 1 7 = true ∧ slotExists 1 8 = false ∧
    keyed.manage.exportSlots.length = 64 ∧ keyed.manage.rootSlots.length = 8 ∧ keyed.banks.length = 5 ∧ keySession keyed = true ∧ keySession up = false ∧
    (List.replicate 32 (9 : Byte)).length = 32 := by decide +kernel

/-- ManagementAnswers. -/
theorem witness_management :
    up.power.mc = .booted ∧ { up.manage with exchange := true }.exchange = true ∧ (sensorReading up 1).isSome = true := by decide +kernel

/-- FirmwareUpdateStates, each state an update goes through. -/
theorem witness_update :
    up.power.mc = .booted ∧ up.manage.image < 2 ∧ up.manage.update = .idle ∧
    (let s := { up with manage := { up.manage with update := .download, updSize := 64 } }
     s.manage.update = .download ∧ 0 + (List.replicate 64 (0 : Byte)).length ≤ s.manage.updSize) ∧
    (let s := { up with manage := { up.manage with update := .readyXfer, updValid := true } }
     s.manage.update = .readyXfer ∧ s.manage.updValid = true ∧ s.power.pwrEn = true) := by decide +kernel

/-- An image of four header parts, an empty body, public exponent 1, and a signature worked out by the steps of RFC 8017, section 9.1.1, with a
salt of zeros. -/
def signature : List Byte :=
  beBytes 64 0x057BD113E1E5130A6F677FEC2F2CE1210AFDADDF0E1577608BD0ABD807C5C1BB2C9CF113BB946E2FBDC3FC08B71FFFBB1E478C0DD09B4F86E8353DC0080637A9 ++
  beBytes 64 0x0E1B67CF02579547CBA56891A8E387CB222ACBF24F8DE5CDD11277B641C1216386DCAF77F082E44242E96A463F1057BE170E5947FAA9BE4232071BD84424C7FF ++
  beBytes 64 0x4F507274D96894D9DD83577490FA12B5422A92555BF38874E4EF78F82F292B271988434D99CAFEA6B9403EF580CA7359F591798A21FEBBA05ABE18AC8202AE49 ++
  beBytes 64 0x808D9071A5E0B873EED1DF48AD7752BD6E1B22460CDD1CB46CC4650EADBDF6890AA7ECA8DC9686BDEB7F8A7BA5A5DD3CD44EBD317DDD70349CF50B3ABE4006FE ++
  beBytes 64 0x824F3CAFA85A98DBE4C13A142363E625AC75C9CCC032218E185EA361563AC68021EE786F1CEBB62591C3E2CA19CB24410935C4CD4FA3B70E5A0FEEE773F4D8FD ++
  beBytes 64 0x1EF7FD7200AE26A357A8D500951AEAF3A7B7E8087D2CFBBAA793BA51C4ADE0766AC16494EABB08DCFA3DB9ACE603957202503246E61880E2C8C74BB16535D2BC

/-- An image that the boot ROM takes on every stepping. -/
def goodImage : List Byte :=
  leBytes 4 0x4846494D ++ leBytes 4 1 ++ [0, 0, 255, 0] ++ leBytes 4 0 ++
  beBytes 32 0xE3B0C44298FC1C149AFBF4C8996FB92427AE41E4649B934CA495991B7852B855 ++
  List.replicate 16 0 ++ beBytes 384 (2 ^ 3071) ++ leBytes 4 1 ++ signature

/-- The management controller with that image as image B and its key fused. -/
def goodManage : Manage := {
  imageB := goodImage
  keyHashes := [beBytes 32 0x374BE4518982C8478A5746EADC35E42DE8ED0B0E64094DA336A613B14BC775D2] }

theorem goodImage_authentic : imageAuthentic goodManage goodImage = true := by decide +kernel

/-- BootSelectsImage and FirmwareUpdateStates: an image that is not rejected, whatever the stepping. -/
theorem witness_image : imageReject goodManage goodImage = none := by
  have h1 : imageField goodImage 9 1 = 0 := by decide +kernel
  have h2 : imageField goodImage 10 1 = 255 := by decide +kernel
  have h3 : imageSvn goodImage = 0 := by decide +kernel
  have h4 : ¬ (Config.stepping % 256 < 0 ∨ 255 < Config.stepping % 256 ∨ (0 : Nat) < 0) := by omega
  unfold imageReject
  rw [goodImage_authentic, h1, h2, h3]
  simp only [Bool.not_true, Bool.false_eq_true, if_false]
  exact if_neg h4

/-- The register at an offset is `p`. -/
def regIs (s : State) (off : Nat) (p : Nat → RegDef → Bool) : Bool :=
  match placeOf (ethView s) off with
  | .reg k d => p k d
  | _ => false

/-- RegisterWrites: a register of a core, one of a cipher bank and one of the integrity block; an offset with no register; a posted setting. -/
theorem witness_register_writes :
    regIs up (irqReg irqEvtMask) (fun k d => decide (0x4000 ≤ k ∧ k < 0x10000) && d.rw &&& d.w1c == 0 && 1 &&& d.rsvd == 0) = true ∧
    regIs up (bankReg 4 ciphCiphEvent) (fun k d => decide (0x2C0000 ≤ k ∧ k < 0x340000) && d.rw &&& d.w1c == 0 && 0x80000000 &&& d.rsvd == 0) = true ∧
    regIs up (coreReg 63 coreMxFault) (fun k d => decide (0x100000 ≤ k ∧ k < 0x200000) && d.rw &&& d.w1c == 0 && 0x80000000 &&& d.rsvd == 0) = true ∧
    placeOf (ethView up) 0x3FF0 = .reserved ∧ doorbellPage .host 0x3FF0 = none ∧ doorbellPage .host 0x3C0000 = none ∧ flag up (bellReg bellBellStatus) 27 = false ∧
    (match placeOf (ethView up) 0x3C0000 with | .pendingSet _ _ => true | _ => false) = true := by decide +kernel

/-- CounterReadClears. -/
theorem witness_counter_read :
    regIs up (coreReg 5 coreNfConvCount) (fun k d => d.rc && !wideLo k && !wideLo (k - 4) && decide (0x100000 ≤ k ∧ k < 0x200000)) = true := by
  decide +kernel

/-- LowHalfLatchesHigh: a _LO register, and a _HI register latched and not latched. -/
theorem witness_low_half :
    regIs up (bellReg bellBellNumLo) (fun k _ => wideLo k) = true ∧
    regIs up (bellReg bellBellNumHi) (fun k _ => !wideLo k && wideLo (k - 4)) = true ∧
    (let s := after (.loHalfRead .host (bellReg bellBellNumLo) 4) up
     s.latches.find? (fun l => l.1 == latchOf .host && l.2.1 == bellReg bellBellNumHi)) = some (0, bellReg bellBellNumHi, 0) ∧
    up.latches.find? (fun l => l.1 == latchOf (.core 3) && l.2.1 == bellReg bellBellNumHi) = none := by decide +kernel

/-- NarrowAccessCounted: each width and alignment that is refused. -/
theorem witness_narrow : live up = true ∧ mayAsk up (.core 63) = true ∧ 0x1002 % 4 ≠ 0 ∧ 0x8004 % 8 ≠ 0 ∧ doorbellPage (.core 63) 0x1002 = none ∧ doorbellPage .host 0x8004 = none := by decide

/-- FunctionLevelReset and the first clauses of TalliesTakeSignalsAndWrites. -/
theorem witness_live : live up = true ∧ up.power.ready = true ∧ up.cores.length = 64 ∧ (63 : Nat) < 64 ∧ (65535 : Nat) < 65536 := by decide

/-- The key of ring 0's first descriptor. -/
def key0 : DescKey := ⟨.ring 0, 0, 0, 0⟩

/-- A module whose core 0 holds a step program of one instruction of each unit, written as 16-byte words from `w`. -/
def programmed (u : CoreUnit) (w : List Byte) (regs : List (Nat × Nat)) : State :=
  let p : Prog := ⟨0, 1, 0, false, 0, 0, key0, 0, none⟩
  let s := upWith regs
  { modCore s 0 (modStream u (fun st => setSlot st .step (some p))) with mem := writeMem [] (imemAddr 0 u 0) w }

/-- The instruction at the head of core 0's step slot is not poisoned and satisfies `f`. -/
def headIs (s : State) (u : CoreUnit) (f : Nat → Bool) : Bool :=
  match progOf s 0 u .step with
  | some p => (nextIndex p).any (fun i => !headPoisoned s 0 u p i && f (headWord s 0 u p i))
  | none => false

/-- WaitsOnTallies: an MX SYNC that waits for count 1 of a tally that stands at 0. -/
theorem witness_wait :
    let s := programmed .mx (leBytes 8 (2 ^ 50 + 2 ^ 28)) []
    live s = true ∧ s.flaws = [] ∧ headIs s .mx (fun w => mxCause w == none && !mxWait s 0 w) = true := by decide +kernel

/-- SyncIssuesAndSignals, each unit: a SYNC that issues, and an invalid word. -/
theorem witness_sync_mx :
    (let s := programmed .mx (leBytes 8 (2 ^ 27 + 5 * 2 ^ 21 + 7 * 2 ^ 15)) []
     live s = true ∧ s.cores.length = 64 ∧ s.flaws = [] ∧ headIs s .mx (fun w => mxOp w == 0 && mxCause w == none && mxWait s 0 w) = true) ∧
    headIs (programmed .mx (leBytes 16 (15 * 2 ^ 124)) []) .mx (fun w => (mxCause w).isSome) = true := by decide +kernel

theorem witness_sync_vx :
    (let s := programmed .vx (leBytes 16 (2 ^ 80)) []
     headIs s .vx (fun w => vxOp w == 0 && lowest (vxWordCauses w) == none && vxWait s 0 w) = true) ∧
    headIs (programmed .vx (leBytes 32 (15 * 2 ^ 252)) []) .vx (fun w => (lowest (vxWordCauses w)).isSome) = true := by decide +kernel

theorem witness_sync_rx :
    (let s := programmed .rx (leBytes 16 (2 ^ 48)) []
     headIs s .rx (fun w => rxOp w == 0 && lowest (rxWordCauses w) == none && rxWait s 0 w) = true) ∧
    headIs (programmed .rx (leBytes 16 (15 * 2 ^ 124)) []) .rx (fun w => (lowest (rxWordCauses w)).isSome) = true := by decide +kernel

theorem witness_sync_mv :
    (let s := programmed .mv (leBytes 16 (2 ^ 72)) []
     headIs s .mv (fun w => mvOp w == 0 && lowest (mvWordCauses w) == none && mvWait s 0 w) = true) ∧
    headIs (programmed .mv (leBytes 32 (15 * 2 ^ 252)) []) .mv (fun w => (lowest (mvWordCauses w)).isSome) = true := by decide +kernel


/-- HostWindowAndConfiguration: the last bytes of the window, an access beyond it, and a module that is not yet ready. -/
theorem witness_host_window :
    live up = true ∧ up.power.ready = true ∧ up.power.linkUp = true ∧ up.power.d3hot = false ∧ up.flaws = [] ∧ 30 ≤ up.power.bar4Log2 ∧
    (let off := bar4Size up - 4
     off + 4 ≤ bar4Size up ∧ bar4Addr up off + 4 ≤ hbmTop ∧ (∀ b ∈ blocksOf (bar4Addr up off) 4, deadStack up (64 * b) = false) ∧
     deadStack up (bar4Addr up off) = false) ∧
    bar4Size up < bar4Size up - 3 + 4 ∧ okData true 4 [1, 2, 3, 4] = true ∧
    (let s := powered (fun p => { p with running := true }); live s = true ∧ s.power.ready = false) ∧ 30 ≤ 38 := by decide +kernel

/-- RegionsAndPatrolScrub: a region that may be enabled, one that may not, and one that is on; a scrubbed block of a trained stack, with one
wrong symbol and with two. -/
theorem witness_regions :
    (let s := upWith [(regionReg 15 regionSizeLo, 0x10000)]
     regionOn s 15 = false ∧ regionRefused s 15 (bits (2 ^ 31 + 1) 3 0) = false ∧ regionRefused s 15 (bits (2 ^ 31 + 15) 3 0) = true ∧
     regionOn (wr s (regionReg 15 regionCtrl) (2 ^ 31 + 1)) 15 = true ∧ regionTypeOf (wr s (regionReg 15 regionCtrl) (2 ^ 31 + 1)) 15 = 1) ∧
    (let s := upWith [(mcReg 0 mcScrubCtrl, 2 ^ 31), (mcReg 0 mcMcStatus, 1)]
     flag s (mcReg (stackOf 0) mcScrubCtrl) 31 = true ∧ flag s (mcReg (stackOf 0) mcMcStatus) 0 = true ∧ s.flaws = [] ∧
     rsRead (applyFlaws [⟨.hbm 0, 71, 0x80⟩] (blockSymbols s 0)) = .corrected 71 0x80 ∧
     rsRead (applyFlaws [⟨.hbm 0, 0, 255⟩, ⟨.hbm 0, 71, 1⟩] (blockSymbols s 0)) = .uncorrectable) := by decide +kernel

/-- A stream descriptor of FP32 elements: address, elements and stride. -/
def stream (a n stride : Nat) : List Byte := leBytes 64 (2 ^ 504 + a * 2 ^ 416 + (n - 1) * 2 ^ 400 + stride * 2 ^ 336)

/-- Core 0 with a program of one instruction and two streams: 4,096 onward to 8,192 onward. -/
def streamed (u : CoreUnit) (w : List Byte) (n : Nat) : State :=
  let s := programmed u w [(coreReg 0 coreVxRcpBase, 4)]
  { s with mem := writeMem s.mem (scratchAddr 0 0) (stream 4096 n 4 ++ stream 8192 n 4) }

/-- TileIssueLoadsWeights. -/
theorem witness_tile_issue :
    let s := programmed .mx (leBytes 16 (2 ^ 124 + 4 * 2 ^ 120 + 4 * 2 ^ 116)) []
    headIs s .mx (fun w => mxOp w == 1) = true ∧ mxCanIssue s 0 .step = true ∧ s.poison = [] ∧ s.flaws = [] := by decide +kernel

/-- A TILE with transposed activations. -/
def tileOp : TileOp :=
  { word := 2 ^ 124 + 4 * 2 ^ 120 + 4 * 2 ^ 116 + 2 ^ 111, slot := .step, key := key0, job := 0, bell := 0, index := 0, auditArray := none }

/-- TilePassBankAudit. -/
theorem witness_tile_pass :
    (let s := modCore up 0 (fun k => { k with loading := some tileOp })
     (coreAt s 0).loading = some tileOp ∧ (coreAt s 0).pass = none ∧ (coreAt s 0).audit = none ∧ mxAt tileOp.word = true) ∧
    (coreAt (modCore up 63 (fun k => { k with pass := some tileOp })) 63).pass = some tileOp ∧
    (coreAt (modCore up 63 (fun k => { k with drain := [tileOp] })) 63).drain = [tileOp] ∧
    (let a : Audit := ⟨7, 0, tileOp, [], false⟩
     let s := { modCore up 0 (fun k => { k with audit := some a }) with handWait := [(0, 7)] }
     (coreAt s 0).audit = some a ∧ a.running = false ∧ (coreAt s 0).pass = none ∧ auditAwaited s a.bell = true) ∧
    (let a : Audit := ⟨7, 0, tileOp, [], true⟩
     let s := modCore up 0 (fun k => { k with audit := some a })
     (coreAt s 0).audit = some a ∧ a.running = true ∧ s.handWait = [] ∧ s.flipWait = []) := by decide +kernel

/-- VectorAndReducerRun: an instruction of each unit that may issue. -/
theorem witness_vx_issue :
    let s := streamed .vx (leBytes 32 (2 ^ 252 + 2 ^ 214 + 2 ^ 204 + 2 ^ 202)) 4
    headIs s .vx (fun w => vxOp w == 1) = true ∧ vxCanIssue s 0 .step = true ∧ s.poison = [] ∧ s.flaws = [] ∧
    (∀ m < 8, flag s (mcReg m mcMcStatus) 1 = false) ∧ (coreAt s 0).bank0.poison = [] ∧ (coreAt s 0).bank1.poison = [] ∧
    (coreAt s 0).vxOps = [] := by decide +kernel

theorem witness_rx_issue :
    let s := streamed .rx (leBytes 16 (2 ^ 124 + 2 ^ 96)) 128
    headIs s .rx (fun w => rxOp w == 1) = true ∧ rxCanIssue s 0 .step = true ∧ s.poison = [] ∧ s.flaws = [] ∧
    (∀ m < 8, flag s (mcReg m mcMcStatus) 1 = false) ∧ (coreAt s 0).rxOps = [] := by decide +kernel

/-- VectorAndReducerRun: instructions in flight, reading and writing. -/
theorem witness_flow :
    let o : FlowOp := ⟨.step, key0, 0, 0, true, false, [], [], .other 0, [], []⟩
    let w : FlowOp := { o with reading := false }
    ((coreAt (modCore up 0 (fun k => { k with vxOps := [o] })) 0).vxOps.find? FlowOp.reading = some o) ∧
    ((coreAt (modCore up 0 (fun k => { k with rxOps := [o] })) 0).rxOps.find? FlowOp.reading = some o) ∧
    ((coreAt (modCore up 0 (fun k => { k with vxOps := [w] })) 0).vxOps.find? (fun o => !o.reading) = some w) ∧
    ((coreAt (modCore up 0 (fun k => { k with rxOps := [w] })) 0).rxOps.find? (fun o => !o.reading) = some w) ∧ w.normCheck = [] := by decide

/-- MoveCopiesAndEnds. -/
theorem witness_move :
    let s := streamed .mv (leBytes 32 (2 ^ 252 + 2 ^ 240)) 4
    let w := fetchWord s 0 .mv 0
    headIs s .mv (fun x => x == w) = true ∧ s.poison = [] ∧ s.flaws = [] ∧ mvCanIssue s 0 .step = true ∧ mvOp w = 1 ∧ mvSrcSp w = 0 ∧ mvDstSp w = 0 ∧ mvCmp w = false ∧
    (mvSrcDesc s 0 w).kind = 0 ∧ (mvDstDesc s 0 w).kind = 0 ∧
    (let at_ (d : SDesc) (j : Nat) : Nat := scratchAddr 0 (d.place s 0 j).toNat
     (∀ j < (mvSrcDesc s 0 w).n, ∀ k < (mvSrcDesc s 0 w).n, at_ (mvDstDesc s 0 w) j + 4 ≤ at_ (mvSrcDesc s 0 w) k ∨ at_ (mvSrcDesc s 0 w) k + 4 ≤ at_ (mvDstDesc s 0 w) j) ∧
     (∀ j < (mvSrcDesc s 0 w).n, ∀ k < (mvSrcDesc s 0 w).n, j ≠ k →
       at_ (mvDstDesc s 0 w) j + 4 ≤ at_ (mvDstDesc s 0 w) k ∨ at_ (mvDstDesc s 0 w) k + 4 ≤ at_ (mvDstDesc s 0 w) j)) := by decide +kernel

theorem witness_move_ends :
    let o : MoveOp := ⟨.step, key0, 0, 0, true, [], [], []⟩
    let w : MoveOp := { o with reading := false }
    (let s := modCore up 0 (fun k => { k with mvOps := [o] })
     (coreAt s 0).mvOps.find? (fun o => o.reading && moveRead s 0 o) = some o) ∧
    (let s := modCore up 0 (fun k => { k with mvOps := [w] })
     (coreAt s 0).mvOps.find? (fun o => !o.reading && moveWritten s o) = some w) := by decide +kernel

/-- A channel descriptor of one level: operation and element size, cipher, addresses, elements, status address. -/
def chanBytes (op esize cipher src dst n status : Nat) : List Byte :=
  let level : List Byte := leBytes 6 (2 ^ esize) ++ List.replicate 12 0 ++ leBytes 2 (n - 1) ++ List.replicate 4 0
  padTo 128 ([BitVec.ofNat 8 (1 + 16 * op), BitVec.ofNat 8 esize, BitVec.ofNat 8 cipher, 0x83, 5, 0, 0, 0] ++ leBytes 8 src ++ leBytes 8 dst ++
    level ++ level ++ leBytes 8 status ++ leBytes 2 31)

/-- The registers that hold a channel's descriptor, with its state. -/
def chanRegs (c st : Nat) (b : List Byte) : List (Nat × Nat) :=
  (chanReg c chanState, st) :: (List.range 32).map (fun i => (chanReg c (chanDesc + 4 * i), leAt b (4 * i) 4))

/-- A module with a burst of channel 31 in flight. -/
def bursting (b : List Byte) (n : Nat) (st retry : Nat) : State :=
  modChan (upWith (chanRegs 31 st b)) 31 (fun k => { k with bursts := [⟨0, n⟩], retryMax := retry })

/-- A module whose key-store slot 0 is filled and whose power-cycle count is known. -/
def sealing (s : State) : State := { s with
  recorder := { s.recorder with pcc := 7 }
  manage := { s.manage with exportSlots := { filled := true, openOnly := false, gen := 1, key := List.replicate 32 9 } :: List.replicate 63 {} } }

/-- DmaChannelCommands: each state and outcome of the checks. -/
theorem witness_dma_commands :
    (let s := upWith (chanRegs 31 0 (chanBytes 0 2 0 0x1000 0x2000 4 0))
     chanOwner s 31 = false ∧ chanStateOf s 31 = 0 ∧ (chanDescOf s 31).valid = true ∧ keyReady s (chanDescOf s 31) = true) ∧
    (let s := upWith (chanRegs 31 3 (chanBytes 0 2 1 0x1000 0x2000 4 0))
     chanStateOf s 31 = 3 ∧ (chanDescOf s 31).valid = true ∧ keyReady s (chanDescOf s 31) = false) ∧
    (let s := upWith (chanRegs 31 0 []); (chanDescOf s 31).valid = false) ∧
    (let s := upWith [(chanReg 31 chanCtrl, 0x80)]; chanOwner s 31 = true) ∧
    (let s := bursting (chanBytes 0 2 0 0x1000 0x2000 4 0) 4 1 0
     chanStateOf s 31 = 1 ∧ (chanAt s 31).ending = none ∧ (chanAt s 31).bursts = [⟨0, 4⟩]) ∧
    chanStateOf (bursting (chanBytes 0 2 0 0x1000 0x2000 4 0) 4 2 0) 31 = 2 := by decide +kernel

/-- DmaBurstsMoveData: a copy. -/
theorem witness_dma_burst :
    let s := bursting (chanBytes 0 2 0 0x1000 0x2000 4 0) 4 1 0
    let d := chanDescOf s 31
    let k := chanAt s 31
    s.poison = [] ∧ s.flaws = [] ∧ (∀ m < 8, flag s (mcReg m mcMcStatus) 1 = false) ∧ chanStateOf s 31 = 1 ∧ k.ending = none ∧ k.aborting = false ∧
    k.bursts = [⟨0, 4⟩] ∧ d.valid = true ∧ d.cipher = 0 ∧ 0 < d.src.n ∧ 0 + 4 ≤ d.src.n ∧ d.op ≠ 3 ∧ d.op ≠ 4 ∧
    (∀ j < d.src.n, isMemory (d.src.at_ j) = true ∧ isMemory (d.dst.at_ j) = true) ∧
    (∀ i < 4, ∀ j < 4, i ≠ j → d.dst.at_ i + d.size ≤ d.dst.at_ j ∨ d.dst.at_ j + d.size ≤ d.dst.at_ i) := by decide +kernel

/-- DmaBurstsMoveData: messages sealed and opened. -/
theorem witness_dma_cipher :
    (let s := sealing (bursting (chanBytes 0 2 1 0x1000 0x2000 4 0) 4 1 0)
     let d := chanDescOf s 31
     d.valid = true ∧ burstCut s d = false ∧ burstFails s {} 31 d ⟨0, 4⟩ = false ∧ d.cipher = 1 ∧ keyReady s d = true ∧
     (∀ core < 80, sealedCount s d.slot (exportSlot s d.slot).gen core < 2 ^ 40 - 1)) ∧
    (let s := sealing (bursting (chanBytes 0 2 2 0x1000 0x2000 4 0) 4 1 0)
     let d := chanDescOf s 31
     d.valid = true ∧ burstCut s d = false ∧ burstFails s {} 31 d ⟨0, 4⟩ = false ∧ d.cipher = 2 ∧ keyReady s d = true) ∧
    (let s := bursting (chanBytes 0 2 1 0x1000 0x2000 4 0) 4 1 0
     let d := chanDescOf s 31
     d.valid = true ∧ burstCut s d = false ∧ burstFails s {} 31 d ⟨0, 4⟩ = false ∧ keyReady s d = false) := by decide +kernel

/-- A host view whose first 4 KiB are unsupported. -/
def deafHost : HostView := { fails := [(0, 4095, .unsupported)] }

/-- DmaErrorsAndEnds: with and without retries, a retry that works and one that fails, and ends with and without a status address. -/
theorem witness_dma_errors :
    (let b := chanBytes 0 2 0 hostBase 0x2000 4 0
     let s := bursting b 4 1 0
     (chanAt s 31).aborting = false ∧ (burstReads s 31 (chanDescOf s 31) ⟨0, 4⟩).any (fun r => inHost r.1) = true ∧
     chanStateOf s 31 = 1 ∧ (chanAt s 31).ending = none ∧ (chanAt s 31).retryMax = 0 ∧
     (let s := bursting b 4 2 3
      chanStateOf s 31 = 2 ∧ hostReachable s = true ∧ (chanAt s 31).ending = none ∧ (chanAt s 31).retryMax = 3 ∧
      hostReachable { s with power := { s.power with linkUp := false } } = false ∧
      burstFails s {} 31 (chanDescOf s 31) ⟨0, 4⟩ = false ∧ burstFails s deafHost 31 (chanDescOf s 31) ⟨0, 4⟩ = true)) ∧
    (let s := modChan (upWith (chanRegs 31 1 (chanBytes 0 2 0 0x1000 0x2000 4 0x3000))) 31 (fun k => { k with ending := some 0 })
     let d := chanDescOf s 31
     (chanAt s 31).ending = some 0 ∧ (chanAt s 31).src = none ∧ s.flaws = [] ∧ d.statusAddr ≠ 0 ∧ d.statusAddr % 32 = 0 ∧ isMemory d.statusAddr = true ∧
     deadStack s d.statusAddr = false) := by decide +kernel

/-- An enabled ring: class, state, eight slots, pointers; its submission queue at 0x10000 and its completion queue in the host window. -/
def ringRegs (r cls st head tail : Nat) : List (Nat × Nat) :=
  [(ringReg r ringCtrl, 2 ^ 31 + cls * 2 ^ 26 + 3), (ringReg r ringState, st), (ringReg r ringPtr, head * 65536 + tail),
   (ringReg r ringSqBaseLo, 0x10000), (ringReg r ringCqBaseLo, 0), (ringReg r ringCqBaseHi, 0x80000000)]

/-- DoorbellsMovePointers. -/
theorem witness_doorbells :
    hostUp up = true ∧ ringEnabled up 63 = false ∧
    (let s := upWith (ringRegs 63 1 1 0 0); ringEnabled s 63 = true ∧ ringSlots s 63 = 8 ∧ 7 < ringSlots s 63 ∧ ringSlots s 63 ≤ 8 ∧ ringClass s 63 = 1) ∧
    ringClass (upWith (ringRegs 63 0 1 0 0)) 63 ≠ 1 := by decide +kernel

/-- RingControl: an enable that is taken, one refused, a disable; a ring that is halted and one that is not. -/
theorem witness_ring_control :
    (let s := upWith [(ringReg 0 ringSqBaseLo, 0x10000), (ringReg 0 ringCqBaseHi, 0x80000000)]
     let v := 2 ^ 31 + 6
     v < 2 ^ 32 ∧ v &&& ctrlFixed = v % 2 ^ 29 ∧ bit v 30 = false ∧ bit v 29 = false ∧ bit v 31 = true ∧ ringEnabled s 0 = false ∧
     enableRefused s 0 (v % 2 ^ 29) = none ∧ (enableRefused s 0 31).isSome = true) ∧
    (let s := upWith (ringRegs 0 0 1 0 0)
     ringEnabled s 0 = true ∧ ringClass s 0 ≠ 1 ∧ bit 3 31 = false ∧ 3 &&& ctrlFixed = rd s (ringReg 0 ringCtrl) &&& ctrlFixed ∧ stateOfRing s 0 ≠ 2) ∧
    (let s := upWith (ringRegs 0 0 2 6 1)
     stateOfRing s 0 = 2 ∧ sqHead s 0 < ringSlots s 0 ∧ sqTail s 0 < ringSlots s 0) := by decide +kernel

/-- Ring 0 with 64-byte descriptor `b` at its head. -/
def posted (cls : Nat) (b : List Byte) : State :=
  { upWith (ringRegs 0 cls 1 0 1) with mem := writeMem [] 0x10000 (padTo 64 b) }

/-- DescriptorStarts: a valid descriptor, an invalid one, and one that cannot be read. -/
theorem witness_descriptor :
    (let s := posted 0 [1]
     ringEnabled s 0 = true ∧ stateOfRing s 0 = 1 ∧ sqHead s 0 ≠ sqTail s 0 ∧ sqHead s 0 < ringSlots s 0 ∧ ringSlots s 0 ≤ 65536 ∧
     (ringAt s 0).dead = false ∧ (ringAt s 0).inflight = [] ∧ s.replays = [] ∧ cqFree s 0 = true ∧ s.flaws = [] ∧ ringClass s 0 ≠ 2 ∧
     readDesc s {} 0x10000 = some (padTo 64 [1]) ∧ descValid s (.ring 0) (padTo 64 [1]) = true ∧
     runBlocked s (.ring 0) (padTo 64 [1]) = false ∧ descValid s (.ring 0) (padTo 64 [2]) = false) ∧
    (let s := { posted 0 [1] with poison := [0x10000 / 64] }; readDesc s {} 0x10000 = none) := by decide +kernel

/-- A descriptor in flight. -/
def flying (b : List Byte) (p : Progress) (parts : List Part) : Desc :=
  ⟨5, padTo 64 b, (b.getD 1 0).toNat, 9, false, p, 0, 0, 0, parts, 0, 0, [], 0⟩

/-- Ring 0 with one descriptor in flight. -/
def flown (cls : Nat) (d : Desc) : State := modRing (upWith (ringRegs 0 cls 1 0 0)) 0 (fun q => { q with inflight := [d] })

/-- SimpleDescriptorsAndStreams: each operation and each action. -/
theorem witness_simple :
    (startedWith (flown 0 (flying [1, 0] .started [])) (.ring 0) (fun d => d.op == 0)).isSome = true ∧
    (startedWith (flown 0 (flying [1, 5, 0, 0, 0, 0, 0, 0, 63, 63] .started [])) (.ring 0) (fun d => d.op == 5)).isSome = true ∧
    (startedWith (flown 0 (flying [1, 4] .started [])) (.ring 0) (fun d => d.op == 4)).isSome = true ∧ up.bell.lastEdge = none ∧
    (∀ act < 3, (startedWith (flown 0 (flying ([1, 3, 0, 0, 0, 0, 0, 0, 1, 0, 0, 0, 0, 0, 0, 0, 15, BitVec.ofNat 8 act]) .started [])) (.ring 0)
      (fun d => d.op == 3 && leAt d.bytes 17 1 == act)).isSome = true) ∧
    (let s := flown 0 (flying [1, 3] .started [])
     ringEnabled s 0 = true ∧ (∀ e ∈ (ringAt s 0).inflight, e.progress ≠ .running) ∧ ((ringAt s 0).inflight.map Desc.index).Nodup) ∧
    (let s := { up with bell := { up.bell with lastEdge := some (0, 0) } }; s.bell.lastEdge.isSome = true ∧ 0 ≤ bellNum s) := by decide +kernel

/-- A RUN of core 63: one MX instruction. -/
def runBytes : List Byte := [1, 1, 0, 0, 0, 0, 0, 0, 0, 0, 0, 0, 0, 0, 0, 0x80, 0, 0x10, 0, 0]

/-- RunAndDmaDescriptors: a RUN whose streams are free, a part with nothing left, a part that times out, and a DMA. -/
theorem witness_run :
    (let s := flown 1 (flying runBytes .started [])
     (startedWith s (.ring 0) (fun d => d.op == 1)).isSome = true ∧ streamsFree s (slotFor s (.ring 0)) (padTo 64 runBytes) = true ∧
     coreMask (padTo 64 runBytes) = [63]) ∧
    (let d := flying runBytes .running [⟨63, 0, false, 0⟩]
     let s := flown 1 d
     ringEnabled s 0 = true ∧ (ringAt s 0).inflight = [d] ∧ d.op = 1 ∧ (∀ p ∈ d.parts, p.core = 63 → p.ended = false ∧ p.left = 0 ∧ p.status = 0) ∧
     (∃ p ∈ d.parts, p.core = 63)) ∧
    (let d := flying (runBytes ++ List.replicate 12 0 ++ [100]) .running [⟨63, 0, false, 0⟩]
     let s := flown 1 d
     stateOfRing s 0 = 1 ∧ d.op = 1 ∧ d.index < 65536 ∧ leAt d.bytes 32 4 ≠ 0 ∧ leAt d.bytes 40 8 = 0 ∧ d.parts = [⟨63, 0, false, 0⟩] ∧ 0 = unissued s (d.key (.ring 0) 0) 63) ∧
    (let s := flown 1 (flying ([1, 2, 0, 0, 0, 0, 0, 0, 31] ++ List.replicate 7 0 ++ leBytes 8 0x4000) .started [])
     (startedWith s (.ring 0) (fun d => d.op == 2 && channelFree s d)).isSome = true ∧ s.flaws = [] ∧
     startedWith (wr s (chanReg 31 chanState) 1) (.ring 0) (fun d => d.op == 2 && channelFree (wr s (chanReg 31 chanState) 1) d) = none ∧ devFails s {} 0x4000 128 = false ∧
     (devRead s {} 0x4000 128).bad = false) := by decide +kernel

/-- CompletionsAndCoalescing. -/
theorem witness_completion :
    let s := wr (wr (flown 0 (flying [1, 0] .ended [])) 0x800C 0) (ringReg 0 ringIntr) (2 ^ 31 + 2 ^ 13)
    let v := fld s (ringReg 0 ringIntr) 30 23
    bit (rd s (0x8000 + 16 * v + 12)) 0 = false ∧ hostReachable s = true ∧ ringEnabled s 0 = true ∧ (ringAt s 0).dead = false ∧
    s.reports = [] ∧ cqFree s 0 = true ∧ cqTail s 0 < ringSlots s 0 ∧ spaceOf (rd64 s (ringReg 0 ringCqBaseLo) + 32 * cqTail s 0) = .host 0 ∧
    fld s (ringReg 0 ringIntr) 22 13 ≠ 0 := by decide +kernel

/-- A module with settings in the active half, and registers. -/
def settled (sets regs : List (Nat × Nat)) : State :=
  { upWith regs with activeHalf := sets.foldl (fun h w => putSetting h w.1 w.2) [] }

/-- Settings with which a swap's checks pass. -/
def goodHalf : Half := [(setBellPeriod, 4000), (setCurfew, 3700)].foldl (fun h w => putSetting h w.1 w.2) []

/-- BELL_CTRL.EN. -/
def belled (sets : List (Nat × Nat)) (extra : Nat) : State := settled sets [(bellReg bellBellCtrl, 2 ^ 31 + extra)]

/-- BellControlAndSwap and ArmAndDisarm. -/
theorem witness_bell_control :
    bellOn up = false ∧ bellOn (belled [] 0) = true ∧ bit (2 ^ 31 + 12) 31 = true ∧ (2 ^ 31 + 12) &&& 0x1FFFFC00 = 0 ∧
    swapFault (putSetting goodHalf setCurfew 0) = some setCurfew ∧ swapFault goodHalf = none ∧
    (let s := upWith [(bellReg bellBellStatus, 2 ^ 27)]; flag s (bellReg bellBellStatus) 27 = true ∧ s.bell.keep = []) := by decide +kernel

/-- A bell with its next edge placed. -/
def ringing (sets : List (Nat × Nat)) (extra n at_ : Nat) : State :=
  let s := belled sets extra
  { s with bell := { s.bell with next := some (n, at_) } }

/-- BellEdgeAdvances, at the largest bell number, at a master and elsewhere. -/
theorem witness_bell_edge :
    (let s := ringing [(setBellMaster, 2 ^ 31)] 0 (2 ^ 64 - 1) 5
     bellOn s = true ∧ s.bell.next = some (2 ^ 64 - 1, 5) ∧ isMaster s = true ∧ s.bell.armed = none) ∧
    (let s := ringing [] (2 ^ 30) 7 5
     flag s (bellReg bellBellCtrl) 30 = true ∧ isMaster s = false ∧ { s.bell with placed := true }.placed = true) := by decide +kernel

/-- A packet of type `t` for this module. -/
def packet (t addr : Nat) (data : List Byte) : Packet := ⟨t, true, true, false, 0, ⟨0, 0, 0⟩, ⟨0, 0, 0⟩, 0, addr, data, 0⟩

/-- A packet that has arrived. -/
def inbound (t addr : Nat) (data : List Byte) : InPkt := ⟨packet t addr data, none, 0, 0, none⟩

/-- A packet that has arrived at a module. -/
def arriving (s : State) (i : InPkt) : State := { s with inbox := [i] }

/-- BellMessagesAndPins: the master's send, the first message of another module, a falling edge, a release. -/
theorem witness_bell_messages :
    (let s := ringing [(setBellMaster, 2 ^ 31)] 0 8 5
     isMaster s = true ∧ s.bell.timely = false ∧ s.bell.next = some (8, 5) ∧ treeNext s (ownXyz s) = []) ∧
    (let m : BellMsg := ⟨0, 8, 1000000, 4000, ⟨1, 0, 0⟩, 0⟩
     let i := inbound 0x31 0 m.bytes
     let s := arriving (belled [(setBellMaster, 2 ^ 31 + 1)] 0) i
     isMaster s = false ∧ s.bell.next = none ∧ nextOf s 0x31 (fun _ => true) = some i ∧ BellMsg.ofBytes i.pkt.data = some m ∧
     s.now < ((i.at_ : Int) + psToClocks (remainHere s i m)).toNat) ∧
    (let s := ringing [(setBellMaster, 2 ^ 31 + 1)] (2 ^ 30) 8 5
     bellOn s = true ∧ flag s (bellReg bellBellCtrl) 30 = true ∧ isMaster s = false) := by decide +kernel

/-- A report that is closed. -/
def closedReport : Report := { emptyReport 3 with closed := true }

/-- StepReportWritten: a report that is not due, and one due at a slot of ring 63. -/
theorem witness_report :
    (let s := { up with reports := [closedReport] }; s.reports.find? (·.closed) = some closedReport ∧ closedReport.dest = none) ∧
    (let d : ReportDest := ⟨63, 2 ^ 31 + 12, 0x20000, 0⟩
     let r := { closedReport with dest := some d }
     let s := { up with reports := [r] }
     let a := reportSlot d.cfg d.base r.bell
     s.reports.find? (·.closed) = some r ∧ d.ring < 64 ∧ s.flaws = [] ∧ a % 64 = 0 ∧ isMemory a = true ∧ deadStack s a = false ∧
     64 + ((reportTensors s r.bell).flatMap (tensorEntry s r.bell) ++ rollEntry s r.bell ++ r.events.flatMap RepEvent.bytes).length ≤
       2 ^ bits d.cfg 4 0) := by decide +kernel

/-- An empty side record of one entry. -/
def noSide : SideRec := ⟨[], [], false, none, [⟨none, 0, 0, 0⟩]⟩

/-- A bucket of four words. -/
def bucket4 : Bucket := ⟨4, 0, 0x85, 0x3F, 0x30000, 0x40000, 0, [⟨1, 0, 4⟩], true⟩

/-- An instance of slot 0. -/
def inst (n : Nat) : Instance := { bucket := 0, bell := n, ownSide := noSide, sideAcc := noSide }

/-- A module alone in its group, with one bucket instance of bell 0. -/
def reducing (i : Instance) (regs : List (Nat × Nat)) : State :=
  { settled [(0x4000 + 60, 2 ^ 8), (0x1000 + setRedBucketCount, 1)] regs with buckets := [(0, [bucket4])], instances := [i] }

/-- CurfewAndHandover: the bell of the last edge and another, a slot beyond the buckets and one beyond every bucket, an audit that is pending. -/
theorem witness_curfew :
    (let s := { reducing (inst 0) [] with bell := { up.bell with begun := some (0, 5) } }
     s.bell.begun = some (0, 5) ∧ s.bell.begun ≠ some (1, 5) ∧ s.fallen.contains 0 = false ∧
     ({ s with fallen := [0] } : State).fallen.contains 0 = true ∧ live s = true ∧ mayAsk s .host = true ∧
     bucketCount (settingsOf s 0) = 1 ∧ bellNum s = 0 ∧ instanceOf s 0 0 = some (inst 0) ∧ (inst 0).handed = false ∧ s.handWait.contains (0, 0) = false ∧
     auditPending s 0 = false ∧ bucketOf s 0 0 = some bucket4 ∧ bucket4.valid = true ∧ (inst 0).own = .waiting ∧ s.flaws = []) ∧
    (let a : Audit := ⟨0, 0, tileOp, [], false⟩
     auditPending (modCore (reducing (inst 0) []) 0 (fun k => { k with audit := some a })) 0 = true) ∧
    bucketCount (settingsOf up 0) ≤ 4095 := by decide +kernel

/-- A replay of one descriptor at 0x10000. -/
def replay : Replay := ⟨0, 0, 1, 0x10000, false, false, [], [], 0, false, [], 0, false, false, false, 0⟩

/-- ReplayStartsAndPool: a step replay, one behind a descriptor posted before its edge, a witness's replay, a waiting record. -/
theorem witness_replay :
    (let s := { upWith (ringRegs 63 1 1 0 0) with replays := [replay], mem := writeMem [] 0x10000 (padTo 64 [1]) }
     readDesc s {} (replay.base + 64 * replay.next) = some (padTo 64 [1]) ∧ replay.next < replay.count ∧ stepRing s = some 63 ∧ stateOfRing s 63 = 1 ∧
     s.flaws = [] ∧ replay.ahead = 0 ∧ { replay with ahead := 1 }.ahead ≠ 0 ∧ (ringAt s 63).inflight = [] ∧
     gateHolds s replay = false ∧ gateEnds s replay = false ∧ runBlocked s .step (padTo 64 [1]) = false ∧ descValid s .step (padTo 64 [1]) = true) ∧
    (let s := { up with witness := some replay, mem := writeMem [] 0x10000 (padTo 64 [1]) }
     s.witness = some replay ∧ runBlocked s .replay (padTo 64 [1]) = false ∧ descValid s .replay (padTo 64 [1]) = true ∧ s.replays = []) ∧
    (let r : PoolRec := ⟨0, 0, 0, 0, 0, 0, 64, 0x50000, 0, false, .waiting, true⟩
     let p := { replay with records := [r] }
     let s := { upWith (ringRegs 63 1 1 0 0) with replays := [p] }
     stepRuns s = true ∧ p.allStarted = false ∧ r.put = p.next ∧ r.waited = true ∧ r.state = .waiting ∧ s.witness = none) := by decide +kernel

/-- A shard directory of one entry at 0x60000, its header at 0x61000 in a region of type `t`. -/
def sharded (t mirror : Nat) : State :=
  let s := upWith [(glbReg glbShardDirLo, 0x60000), (glbReg glbShardDirCount, 1), (regionReg 0 regionSizeLo, 0x100000), (regionReg 0 regionCtrl, 2 ^ 31 + t)]
  { s with mem := writeMem (writeMem [] 0x60000 (leBytes 8 0x61000)) 0x61000 (leBytes 16 0 ++ leBytes 4 9 ++ [0, 0, 0x11, BitVec.ofNat 8 (2 * mirror), 4]) }

/-- CommitPort: an entry of this module, a mirror that is reversed, and a mirror whose request, an UPDATE for another bell, is refused. -/
theorem witness_commit :
    dirCount up ≤ 16383 ∧ up.flaws = [] ∧
    (let s := sharded 1 0
     let h := shardAt s (dirEntry s 0)
     0 < dirCount s ∧ headerInRegion s h = true ∧ headerGood h = true ∧ deadStack s h.at_ = false ∧ requestRefused s h = false ∧
     s.integrity.updateFault.contains (portBell s (bellNum s) h) = false ∧ auditPending s (portBell s (bellNum s) h) = false ∧ s.watch.length < 256) ∧
    (let s := sharded 4 1
     let h := shardAt s (dirEntry s 0)
     headerInRegion s h = true ∧ headerGood h = true ∧ h.mirror = true ∧ h.flipBell = reqBell s h ∧ h.undone = false) ∧
    (let s := sharded 4 1
     let s := { s with mem := writeMem s.mem (shardAt s (dirEntry s 0)).grad (1 :: 1 :: List.replicate 6 0 ++ leBytes 8 9) }
     let h := shardAt s (dirEntry s 0)
     0 < dirCount s ∧ headerInRegion s h = true ∧ headerGood h = true ∧ requestRefused s h = true) := by decide +kernel

/-- A difference-stream buffer of `size` units, with a record waiting. -/
def differing (size rp : Nat) : State :=
  let s := sharded 1 0
  let s := [(regionReg 1 regionBaseLo, 0x200000), (regionReg 1 regionSizeLo, 64 * size), (regionReg 1 regionCtrl, 2 ^ 31 + 5), (glbReg glbDsRptr, rp)].foldl
    (fun s w => wr s w.1 w.2) s
  { s with diffs := [⟨0, 1, 0x61000, 1, 0, 0, false⟩] }

/-- UndoWalkAndDifferences: a record that fits, one that does not, and one that needs a PAD record before it. -/
theorem witness_undo :
    flag up (glbReg glbUndoCtrl) 30 = false ∧ dirCount up = 0 ∧ flag (upWith [(glbReg glbUndoCtrl, 2 ^ 30)]) (glbReg glbUndoCtrl) 30 = true ∧
    (let h := shardAt (sharded 1 0) 0x61000; 1 + (diffParts h).length * (payloadBytes h.words / 64) = 257) ∧
    (let s := differing 1024 258
     diffRegion s = some (0x200000, 1024) ∧ rd s (glbReg glbDsWptr) = 0 ∧ 0 + 257 ≤ 1024 ∧ 257 < diffRoom s 1024 ∧ 0x200000 % 64 = 0 ∧
     0x200000 + 64 * 1024 ≤ hbmTop ∧ (∀ m < 8, flag s (mcReg m mcMcStatus) 1 = false) ∧ s.flaws = []) ∧
    (let s := differing 1024 257; diffRegion s = some (0x200000, 1024) ∧ diffRoom s 1024 ≤ 257 ∧ (s.diffs.all (fun d => !d.stalled)) = true) ∧
    (let s := wr (differing 300 150) (glbReg glbDsWptr) 200
     rd s (glbReg glbDsWptr) = 200 ∧ rd s (glbReg glbDsRptr) = 150 ∧ 200 < 300 ∧ 300 < 200 + 257 ∧ 300 - 200 < diffRoom s 300 ∧ 150 < 300 ∧ 150 ≤ 257 ∧
     diffRegion s = some (0x200000, 300)) := by decide +kernel


/-! ### Ports, packets and reductions -/

/-- A module whose Mopin port 3 is enabled in direction +x and in a state, with its unit's data. -/
def ported (st : Nat) (q : Port) (regs : List (Nat × Nat)) : State :=
  modPort (upWith ([(portReg 3 portPortCtrl, 2 ^ 31 + 2 ^ 25), (portReg 3 portPortStatus, st * 2 ^ 28)] ++ regs)) 3 (fun _ => q)

/-- A training block of a neighbour. -/
def trainBlock (x verMax : Nat) : TrainBlock := ⟨1, verMax, ⟨x, 0, 0⟩, 0, 0, 2, true, false, 255, 5⟩

/-- PortControl: a torus too large and one that is not, a port in each state that its clauses ask for. -/
theorem witness_port_control :
    (let v := 2 ^ 31 + 2 ^ 25
     live up = true ∧ mayAsk up .host = true ∧ up.ports.length = 8 ∧ v < 2 ^ 32 ∧ v &&& 0x30FFFFFF = 0 ∧ bits v 27 25 ≠ 7 ∧ bit v 30 = false ∧ bit v 31 = true ∧
     portEnabled up 7 = false ∧ isMopin up 7 = true ∧ sameDirection up 7 (bits v 27 25) < 2 ∧ torusBad up = false ∧
     torusBad (upWith [(fabReg fabTorusSize, 0xFFFFFF)]) = true) ∧
    (let w := 2 ^ 31 + 2 ^ 28; w < 2 ^ 32 ∧ w &&& 0x00FFFFFF = 0 ∧ bits w 29 28 = 1 ∧ bits w 27 25 ≠ 7 ∧ bit w 30 = false ∧ bit w 31 = true) ∧
    (∀ st ∈ [5, 7], let s := ported st {} []
      portEnabled s 3 = true ∧ isMopin s 3 = true ∧ portState s 3 = st ∧ torusBad s = false ∧ (portAt s 3).retry = [] ∧ (portAt s 3).txq = []) ∧
    bit 0 31 = false := by decide +kernel

/-- PortTraining: each state, a block that is expected and one that is not, a spoilt one, and one heard before. -/
theorem witness_port_training :
    (∀ st ∈ [1, 2, 3, 4, 5, 6], let s := ported st {} []
      live s = true ∧ s.ports.length = 8 ∧ isMopin s 3 = true ∧ portState s 3 = st) ∧
    4 ≤ ((List.range 8).filter (bit 0xF0)).length ∧
    (let bs := trainBytes (trainBlock 1 1)
     let s := ported 3 { lanesOk := 255, heard := bs :: List.replicate 7 [] } [(fabReg fabTorusSize, 1), (portReg 3 portExpId, 1)]
     let b := trainOf bs
     bs.length = 32 ∧ trainGood bs = true ∧ b = trainBlock 1 1 ∧ (portAt s 3).heard.getD 0 [] = bs ∧ (portAt s 3).heard.getD 1 [] ≠ bs ∧
     expected s 3 b = true ∧ torusFits s 3 b = true ∧ (portAt s 3).lanesOk &&& b.lanes = 255 ∧ b.refuse = false ∧
     expected s 3 (trainOf (trainBytes (trainBlock 0 1))) = false ∧ b.verMin ≤ 1 ∧ 1 ≤ b.verMax ∧ trainGood (List.replicate 32 0) = false) ∧
    (List.replicate 16 100).length = 16 ∧
    (let s := ported 4 {} [(portReg 3 portRetrainCfg, 2 * 2 ^ 16)]
     (portAt s 3).tries + 1 < atLeastOne (fld s (portReg 3 portRetrainCfg) 23 16)) ∧
    (let s := ported 4 {} [(portReg 3 portRetrainCfg, 0)]; atLeastOne (fld s (portReg 3 portRetrainCfg) 23 16) ≤ (portAt s 3).tries + 1) := by decide +kernel

/-- A packet that goes out at a port. -/
def leaving : TxPkt := ⟨{ packet 1 0x100 [7] with dst := ⟨1, 0, 0⟩ }, 0, 0, 8, 0, none, 4⟩

/-- A DATA flit that carries a packet for this module. -/
def dataFlit1 : Flit := ⟨1, 0, 0, 0, 0xFFF, 3, 2, some (packet 1 0x100 [7])⟩

/-- FlitsReceivedAndSent: flits received. -/
theorem witness_flits :
    (let s := ported 5 {} []
     let heard (f : Flit) : Port := { takeAck f.ack (portAt s 3) with credits := modAt (takeAck f.ack (portAt s 3)).credits f.crVc (· + f.crCount) }
     let bs := flitBody dataFlit1
     live s = true ∧ s.ports.length = 8 ∧ flowing s 3 = true ∧ bs.length = 252 ∧ flitGood bs (crc32c bs) = true ∧ flitOf bs = dataFlit1 ∧
     dataFlit1.seq = (heard dataFlit1).seqRx ∧ dataFlit1.ftype = 1 ∧ dataFlit1.pkt = some (packet 1 0x100 [7]) ∧
     (vcOf (packet 1 0x100 [7]).ttype).isSome = true ∧ (packet 1 0x100 [7]).dst = ownXyz s ∧
     (∀ f ∈ [{ dataFlit1 with seq := 1 }, { dataFlit1 with ftype := 3 }, { dataFlit1 with ftype := 0, pkt := none }],
       (flitBody f).length = 252 ∧ flitOf (flitBody f) = f) ∧
     flitGood (List.replicate 252 0) 1 = false ∧
     (lastMs s (portAt s 3).uncorr ++ [s.now]).length ≤ fld (wr s (portReg 3 portRetrainCfg) (2 ^ 24)) (portReg 3 portRetrainCfg) 31 24 ∧
     fld (wr s (portReg 3 portRetrainCfg) 0) (portReg 3 portRetrainCfg) 31 24 < (lastMs s (portAt s 3).uncorr ++ [s.now]).length) ∧
    (let wrong := (List.range 16).map (2 * ·)
     codewordLost wrong 0 = true ∧ codewordLost (wrong.drop 1) 0 = false ∧ codewordLost (wrong.drop 1) 1 = false ∧
     codewordCorrected (wrong.drop 1) 0 = true ∧ ∀ i ∈ wrong, i < 1088) ∧
    (let s := ported 5 { retry := [(0, leaving)] } []
     let nak : Flit := { dataFlit1 with ftype := 2, pkt := none }
     (flitBody nak).length = 252 ∧ flitOf (flitBody nak) = nak ∧
     (takeAck nak.ack (portAt s 3)).retry = [(0, leaving)] ∧ (portAt s 3).retry = [(0, leaving)] ∧ (portAt s 3).resendFrom ≠ some 0) := by decide +kernel

/-- FlitsReceivedAndSent: flits sent. -/
theorem witness_flits_sent :
    (let s := ported 5 {} []
     (∀ c < 8, (portAt s 3).owed.getD c 0 = 0) ∧ (portAt s 3).nakDue = false ∧ (portAt s 3).resend = [] ∧ (portAt s 3).txq = []) ∧
    (ported 5 { nakDue := true } []).ports.length = 8 ∧ (portAt (ported 5 { nakDue := true } []) 3).nakDue = true ∧
    (let s := ported 5 { retry := [(0, leaving)], resend := [0] } []
     (portAt s 3).resend = [0] ∧ (portAt s 3).retry.find? (fun e => e.1 == 0) = some (0, leaving)) ∧
    (let s := ported 5 { txq := [leaving] } []
     (portAt s 3).txq = [leaving] ∧ (portAt s 3).retry.length < 1024 ∧ leaving.vc < 4 ∧ leaving.input < 9 ∧ hasCredit (portAt s 3) leaving = true ∧
     flowHeld s 3 leaving = false ∧ leaving.core = none) := by decide +kernel

/-- A region at address 0 that the fabric may write and read, of type `t`. -/
def openRegion (t : Nat) : State := upWith [(regionReg 0 regionSizeLo, 0x100000), (regionReg 0 regionCtrl, 2 ^ 31 + 2 ^ 30 + 2 ^ 29 + t)]

/-- PacketsIntoMemory: of each type a packet that is admitted and one that is not. -/
theorem witness_packets :
    (∀ e ∈ [(1, Access.write), (3, Access.barn), (5, Access.write)],
      let i := inbound e.1 0x100 (List.replicate 8 3)
      let s := arriving (openRegion 4) i
      let u := consume s i
      live s = true ∧ u.poison = [] ∧ u.flaws = [] ∧ (∀ m < 8, flag u (mcReg m mcMcStatus) 1 = false) ∧ i.pkt.poison = 0 ∧
      nextOf s e.1 (fun _ => true) = some i ∧ i.pkt.data.length ≤ 224 ∧ i.pkt.data.length % 8 = 0 ∧ i.pkt.addr % 8 = 0 ∧
      admits u e.2 i.pkt.addr i.pkt.data.length = true ∧ admits (consume (arriving up i) i) e.2 i.pkt.addr i.pkt.data.length = false) ∧
    nextOf (arriving up (inbound 0x30 0x102 [])) 0x30 (fun _ => true) = some (inbound 0x30 0x102 []) := by decide +kernel

/-- A module that waits for the response to a MOVE of core 2. -/
def waiting (read : Bool) (i : InPkt) : State :=
  let s := { arriving up i with requests := [⟨9, .move 2, ⟨0, 0, 0⟩, read, [scratchAddr 2 64], 8⟩] }
  modCore s 2 (fun c => { c with mvOps := [⟨.step, key0, 0, 0, read, [respName read 9], [], []⟩] })

/-- RequestsAndResponses: a request answered here and over a port, a message to be acknowledged, and a MOVE's response of each kind. -/
theorem witness_requests :
    (let i := inbound 2 0x100 []
     let s := arriving (openRegion 4) i
     nextOf s 2 (fun _ => true) = some i ∧ i.core = none ∧ s.poison = [] ∧ s.flaws = [] ∧ (∀ m < 8, flag s (mcReg m mcMcStatus) 1 = false) ∧
     i.pkt.src = ownXyz s) ∧
    (let s := ported 5 { inService := true } [(fabReg fabTorusSize, 2)]
     routeOf s (barePacket 0x11 ⟨1, 0, 0⟩ (ownXyz s) 7 0) none 0 = .port 3 0) ∧
    ({ up with inMsgs := [⟨⟨1, 0, 0⟩, 0, 7, 0x0E, true⟩] } : State).inMsgs.find? (·.ready) = some ⟨⟨1, 0, 0⟩, 0, 7, 0x0E, true⟩ ∧
    (let i : InPkt := ⟨{ packet 0x10 0 (List.replicate 8 1) with tag := 9 }, none, 0, 0, none⟩
     let s := waiting true i
     let a := scratchAddr 2 64
     s.cores.length = 64 ∧ nextOf s 0x10 (fun p => (requestOf s true p.tag p.src).isSome) = some i ∧ i.pkt.status = 0 ∧ i.pkt.poison = 0 ∧
     s.poison = [] ∧ s.flaws = [] ∧ (∀ m < 8, flag s (mcReg m mcMcStatus) 1 = false) ∧
     spaceOf a = .scratch 2 (a - scratchAddr 2 0) ∧ i.pkt.data.length = 8 ∧ a % 64 + 8 ≤ 64) ∧
    (∀ st ∈ [0, 0x0E], let i : InPkt := ⟨{ packet 0x11 0 [] with tag := 9, status := st }, none, 0, 0, none⟩
      let s := waiting false i
      nextOf s 0x11 (fun p => (requestOf s false p.tag p.src).isSome) = some i ∧ i.pkt.status = st ∧ (coreAt s 2).mvOps.map (·.tags) = [[respName false 9]]) ∧
    (let i : InPkt := ⟨{ packet 0x11 0 [] with tag := 8 }, none, 0, 0, none⟩
     let s := waiting false i
     nextOf s 0x10 (fun p => (requestOf s true p.tag p.src).isNone) = none ∧ nextOf s 0x11 (fun p => (requestOf s false p.tag p.src).isNone) = some i) := by
  decide +kernel

/-- A REDUCE packet of slot 0, generation `gen`, that is not the last of its chunk. -/
def reduceOf (gen : Nat) : InPkt :=
  ⟨{ packet 0x20 0 (leBytes 2 (gen * 4096) ++ List.replicate 14 0 ++ [1, 2, 3, 4]) with last := false }, none, 0, 0, none⟩

/-- ReductionsRun. -/
theorem witness_reductions :
    (∀ g ∈ [0, 1], let s := arriving (reducing { inst 0 with gen := g } []) (reduceOf 0)
      let h : ReduceHeader := ⟨0, 0, 0, false, 0, 0, 0⟩
      firstOf s 0x20 (fun p => match reduceHeader p.data with | some h => !reduceEarly s h | none => true) = some (reduceOf 0) ∧
      reduceHeader (reduceOf 0).pkt.data = some h ∧ reduceBell s h = some 0 ∧ instanceOf s 0 0 = some { inst 0 with gen := g } ∧
      bucketOf s 0 0 = some bucket4 ∧ h.frc = (frcOf bucket4.mode 0).isSome) ∧
    (let i := { inst 0 with final := some noSide, done := [(5, 0)] }
     let s := reducing i []
     (ownGrid s 0).any (fun g => resultFinal g bucket4 i) = true ∧ bucket4.valid = true ∧ i.complete = false ∧ summaryFinal s 0 = false ∧
     s.buckets.any (fun e => e.1 == 0) = true ∧ casesOpen s 0 = false ∧ s.integrity.pendingUse = [] ∧ replayOf s 0 = none) ∧
    (let i := { inst 0 with complete := true, final := some { noSide with nonfinite := true, origin := some 3 } }
     (nonfiniteOrigin i).isSome = true ∧ nonfiniteOrigin { inst 0 with complete := true } = none) := by decide +kernel

/-! ### Ethernet, Stolcen, markets, integrity -/

/-- Frame bytes that a port of MAC address 0 takes in direct carriage under EtherType 0x88B5: a DATA part of site 2 to site 0, road 1, of one
shard of `n` bytes. -/
def stlPart (n : Nat) : List Byte :=
  [0x11, 0, 2, 0, 1, 0, 0, 0] ++ leBytes 4 0 ++ leBytes 8 1 ++ leBytes 2 0 ++ leBytes 2 0 ++ leBytes 2 (n - 1) ++ leBytes 2 n ++
  List.replicate (36 + n + 16) 0

/-- The frame that carries it. -/
def stlFrame (n : Nat) : List Byte := List.replicate 12 0 ++ [0x88, 0xB5] ++ stlPart n

/-- A module with Ethernet port 3 up, Stolcen on, partner 1 at site 2 led here and its road entry 5 owned here, and road keys. -/
def linked (roadUp : Bool) (g : Gateway) (regs : List (Nat × Nat)) : State :=
  let s := settled [(0x1C00 + setKeyKeyCtrl, 2 ^ 31)]
    ([(portReg 3 portPortCtrl, 2 ^ 31 + 2 ^ 28), (ethReg 3 ethEthStatus, 2 ^ 31), (ethReg 3 ethEthCfg, 0x88B5), (stlReg stlStlCtrl, 2 ^ 31)] ++ regs)
  { s with
    recorder := { s.recorder with pcc := 7 }
    manage := { s.manage with rootSlots := { filled := true, openOnly := false, gen := 1, key := List.replicate 32 9 } :: List.replicate 7 {} }
    partners := [{}, { en := true, site := 2 }, {}, {}]
    roads := List.replicate 5 {} ++ [{ en := true, partner := 1, road := 1, port := 3, up := roadUp }] ++ List.replicate 10 {}
    gateways := [{}, g, {}, {}] }

/-- EthernetAndStolcenStart. -/
theorem witness_ethernet :
    (let s := linked true {} []
     live s = true ∧ isEth s 3 = true ∧ ethLink s 3 = true ∧
     beNat ((afterTag (List.replicate 12 0 ++ [0x88, 0x08])).take 2) = 0x8808 ∧ (List.replicate 14 (1 : Byte)).take 6 ≠ ownMac s 3 ∧
     carried_ s 3 (List.replicate 14 0) = none ∧ beNat ((afterTag (List.replicate 14 (1 : Byte))).take 2) ≠ 0x8808 ∧
     (let part := stlPart 3
      (stlFrame 3).length ≤ 9212 ∧ beNat ((afterTag (stlFrame 3)).take 2) ≠ 0x8808 ∧ (stlFrame 3).take 6 = ownMac s 3 ∧ carried_ s 3 (stlFrame 3) = some part ∧
      leAt part 3 1 = ownSite s ∧ (partnerOfSite s (leAt part 2 1)).isSome = true ∧ roadOfFrame s 3 part = some 5 ∧ frameHeadGood part = true ∧
      epochAccepted s (leAt part 8 4) = true ∧ roadKeysExist s = true ∧ s.banks.length = 5 ∧ (bankAt s (bankOfPort 3)).running = [] ∧
      (bankAt s (bankOfPort 3)).keys.length < 128) ∧ stlOn s = true) ∧
    (let s := linked true {} [(ethReg 3 ethEthStatus, 0)]; isEth s 3 = true ∧ ethLink s 3 = false) ∧
    9212 < (List.replicate 9213 (0 : Byte)).length ∧ stlOn up = false := by decide +kernel

/-- A STOLCEN packet of an operation. -/
def stlPacket (op : Nat) (data : List Byte) : InPkt := inbound 4 (op * 2 ^ 56) data

/-- StolcenMessages: a message taken and one refused, a shard sent and one received. -/
theorem witness_stolcen :
    (let m := [1, 0, 2, 0, 0, 0, 0] ++ List.replicate 33 (0 : Byte)
     let i := stlPacket 1 m
     let s := arriving (linked false {} [(stlReg stlStoreSize, 1)]) i
     let u := consume s i
     i.pkt.first = true ∧ i.pkt.last = true ∧ bits i.pkt.addr 31 0 = 0 ∧ i.pkt.poison = 0 ∧ m.length ≤ 224 ∧ u.gateways.length = 4 ∧ u.banks.length = 5 ∧
     nextOf s 4 (fun p => (fun op => op != 2 && op != 3 && op != 4) (stlOp p)) = some i ∧ stlOn u = true ∧ stlOp i.pkt = 1 ∧
     partnerOfSite u (leAt m 2 1) = some 1 ∧ leads u 1 = true ∧ storeUsed u + m.length ≤ 65536 * rd u (stlReg stlStoreSize) ∧ submitGood m = true ∧
     upRoads u 1 = [] ∧ partnerOfSite (consume (arriving up i) i) 2 = none ∧
     nextOf (arriving up i) 4 (fun p => (fun op => op != 2 && op != 3 && op != 4) (stlOp p)) = some i) ∧
    (let m := patch (stlPart 3) 2 [0, 2]
     let i := stlPacket 2 m
     let s := arriving (linked true {} []) i
     let u := consume s i
     nextOf s 4 (fun p => stlOp p == 2) = some i ∧ stlOn u = true ∧ 64 ≤ m.length ∧ m.length ≤ 224 ∧
     (ownRoads u).find? (fun r => (partnerAt u (roadAt u r).partner).site == leAt m 3 1 && (roadAt u r).road == leAt m 4 1) = some 5 ∧
     roadKeysExist u = true ∧ (roadAt u 5).port < 8 ∧ (bankAt u (bankOfPort (roadAt u 5).port)).running = [] ∧
     (bankAt u (bankOfPort (roadAt u 5).port)).keys = []) ∧
    (let m := patch (stlPart 3) 5 [1]
     let i := stlPacket 3 m
     let s := arriving (linked true {} []) i
     let u := consume s i
     nextOf s 4 (fun p => stlOp p == 3) = some i ∧ stlOn u = true ∧ 64 ≤ m.length ∧ leAt m 0 1 ≠ 0x21 ∧ partnerOfSite u (leAt m 2 1) = some 1 ∧
     leads u 1 = true ∧ (gateAt u 1).groups.find? (InGroup.is (leAt m 12 8) (leAt m 20 2)) = none ∧
     leAt m 6 1 < bits (leAt m 5 1) 2 0 + 1 + bits (leAt m 5 1) 5 3 ∧ leAt m 20 2 ≤ leAt m 22 2 ∧ 1 ≤ bits (leAt m 5 1) 2 0 ∧
     (gateAt u 1).store = []) := by decide +kernel

/-- StolcenMessages: a message that the receive ring takes and one that it refuses. -/
theorem witness_deliver :
    let i := stlPacket 4 (List.replicate 20 1)
    let s := arriving (upWith [(stlReg stlRxRingSize, 1), (stlReg stlRxWptr, 1022), (stlReg stlRxRptr, 500), (stlReg stlRxRingLo, 0x40000)]) i
    let u := consume s i
    let n := 1024 * rd u (stlReg stlRxRingSize)
    nextOf s 4 (fun p => stlOp p == 4) = some i ∧ u.gateways.length = 4 ∧ u.banks.length = 5 ∧ n ≠ 0 ∧ n < 2 ^ 32 ∧
    ringPlace (rd u (stlReg stlRxWptr)) (rd u (stlReg stlRxRptr) % n) n (1 + ((i.pkt.data.drop 16).length + 63) / 64) = some (1022, 0, 0) ∧
    17 ≤ i.pkt.data.length ∧ (0x40000 + 64 * 1022) % 64 = 0 ∧ isMemory (0x40000 + 64 * 1022) = true ∧
    deadStack u (0x40000 + 64 * 1022) = false ∧ u.flaws = [] ∧ 1024 * rd (consume (arriving up i) i) (stlReg stlRxRingSize) = 0 := by decide +kernel

/-- A message stored for partner 1, its one group sent `n` resends ago. -/
def keptMsg (n : Nat) : StoredMsg := ⟨4, false, List.replicate 40 1, [⟨0, some 0, n⟩]⟩

/-- StolcenTimersAndAcks: roads, reassembly, acknowledgements, a group past its RTO in each way. -/
theorem witness_stolcen_timers :
    (let s := linked true {} []
     live s = true ∧ stlOn s = true ∧ s.gateways.length = 4 ∧ s.roads.length = 16 ∧ s.banks.length = 5 ∧ 5 ∈ ownRoads s ∧ (roadAt s 5).port < 8 ∧
     roadKeysExist s = true ∧ (bankAt s (bankOfPort (roadAt s 5).port)).running = [] ∧ (bankAt s (bankOfPort (roadAt s 5).port)).keys = [] ∧
     (roadAt s 5).en = true ∧ (roadAt s 5).up = true ∧ (∀ x < 16, (roadAt s x).sampled = false)) ∧
    (∀ e ∈ [(0, true), (3, false)], let g : InGroup := ⟨4, 0, 0, 40, 2, 1, [], none, e.1, e.2⟩
      let s := linked false { groups := [g] } []
      (gateAt s 1).groups.find? (InGroup.is 4 0) = some g ∧ g.decoded = none ∧ upRoads s 1 = []) ∧
    (let s := linked true { ackDue := true } []; leads s 1 = true ∧ (gateAt s 1).ackDue = true ∧ upRoads s 1 ≠ []) ∧
    (∀ n ∈ [0, 1], let s := linked true { store := [keptMsg n] } [(stlReg stlStlCtrl, 2 ^ 31 + 16)]
      storedGroup s 1 4 0 = some (keptMsg n, ⟨0, some 0, n⟩) ∧ upRoads s 1 ≠ [] ∧ (gateAt s 1).acks = [] ∧ (n < resendMax s ↔ n = 0)) := by
  decide +kernel

/-- StolcenTimersAndAcks: an ACK that frees a message, or covers one past its RTO, and a NAK of a group not held. -/
theorem witness_stolcen_acks :
    (let m := List.replicate 16 0 ++ leBytes 8 4 ++ List.replicate 512 0
     let s := linked false { store := [keptMsg 0], acks := [m] } []
     firstWaiting s (·.acks) = some (1, m) ∧ upRoads s 1 = [] ∧ ackCovers m 4 = true ∧ ackCovers m 5 = false ∧
     (gateAt s 1).acks.any (fun m => ackCovers m 4) = true) ∧
    (let m := List.replicate 16 0 ++ leBytes 8 9
     let s := linked false { naks := [m] } []
     firstWaiting s (·.naks) = some (1, m) ∧ m.length = 24 ∧ storedGroup s 1 (leAt (m.drop 16) 0 6) (leAt (m.drop 16) 6 2) = none) := by decide +kernel

/-- A message on core 7 of bank 1. -/
def sealJob (sealing ok : Bool) : CipherJob := ⟨7, false, sealing, 5, ok, stlPart 3, 0⟩

/-- An urgent message that waits. -/
def urgentJob : CipherJob := ⟨256, true, true, 5, false, stlPart 3, 0⟩

/-- A module whose bank 1 runs and holds messages. -/
def banked (running waitingJobs : List CipherJob) : State :=
  modBankC (linked true {} []) 1 (fun k => { k with running := running, waitingJobs := waitingJobs })

/-- CipherCores. -/
theorem witness_cipher :
    (∀ e ∈ [true, false], let s := banked [sealJob e e] []
      s.banks.length = 5 ∧ (bankAt s 1).running.find? (fun x => x.core == 7) = some (sealJob e e) ∧ (bankAt s 1).suspended = [] ∧
      (bankAt s 1).waitingJobs = []) ∧
    (let s := banked [sealJob true true] [urgentJob]
     (bankAt s 1).waitingJobs.find? (·.urgent) = some urgentJob ∧ suspendCore (bankAt s 1) = some (sealJob true true) ∧ urgentJob.sealing = true ∧
     roadKeysExist s = true ∧ (bankAt s 1).keys = []) := by decide +kernel

/-- A module with markets on, one market header of identity 77 in STATE `st` over the shard at 0x61000, and a message of class `cls` first in
its receive ring. -/
def traded (st cls : Nat) (body : List Byte) : State :=
  let s := sharded 1 0
  let s := [(stlReg stlRxRingSize, 1), (stlReg stlRxWptr, 3), (stlReg stlRxRingLo, 0x80000)].foldl (fun s w => wr s w.1 w.2) s
  let sets := [(setMktMktCtrl, 2 ^ 31 + 3 * 2 ^ 18), (setMktH, 4), (setMktMapLo, 0x70000), (setMktMapCount, 1)]
  let m := writeMem s.mem 0x70000 (leBytes 4 77 ++ leBytes 2 0 ++ leBytes 1 st ++ [0])
  { s with
    mem := writeMem m 0x80000 (List.replicate 9 0 ++ leBytes 1 cls ++ [0, 0] ++ leBytes 4 (16 + body.length) ++ List.replicate 64 0 ++ body)
    activeHalf := sets.foldl (fun h w => putSetting h (0x1400 + w.1) w.2) s.activeHalf }

/-- The body of a contribution or state message to market `id`, of round 1, for a shard of 4 words; for a state message its words 0 to 4 of C. -/
def mktBody (id : Nat) (tail : List Byte) : List Byte := leBytes 8 1 ++ leBytes 4 id ++ leBytes 4 4 ++ tail

/-- Markets: messages of the receive ring, for a market of this module and for none. -/
theorem witness_market_messages :
    (∀ id ∈ [77, 78], let b := mktBody id [0, 0, 0, 0, 0, 0, 4, 1]
      let s := traded 0 1 b
      let past := (nextRecord {} 1 4096 (meetHeaders s)).2
      live s = true ∧ mktOn s.activeHalf = true ∧ (nextRecord {} 1 4096 (meetHeaders s)).1 = some (0x80040, List.replicate 16 0 ++ b) ∧
      (mktById past (leAt b 8 4)).isSome = (id == 77) ∧
      (mktById past (leAt b 8 4)).all (fun m => decide (m.lastRound ≤ (leAt b 0 8 : Int)) && decide ((leAt b 0 8 : Int) ≤ m.lastRound + 3) &&
        leAt b 12 4 == mktWords past m) = true ∧ leAt b 23 1 < 4 ∧ bit (sendSet past) (leAt b 23 1) = true) ∧
    (let b := leBytes 4 77 ++ [1] ++ List.replicate 11 0
     let s := traded 0 4 b
     (nextRecord {} 4 4096 (meetHeaders s)).1 = some (0x80040, List.replicate 16 0 ++ b) ∧
     (mktById (nextRecord {} 4 4096 (meetHeaders s)).2 (leAt b 0 4)).isSome = true ∧ leAt b 4 1 < 4) ∧
    (∀ id ∈ [77, 78], let b := mktBody id (leBytes 4 0 ++ leBytes 4 4 ++ [0])
      let s := traded 1 3 b
      let past := (nextRecord {} 3 4096 (meetHeaders s)).2
      (nextRecord {} 3 4096 (meetHeaders s)).1 = some (0x80040, List.replicate 16 0 ++ b) ∧ (mktById past (leAt b 8 4)).isSome = (id == 77) ∧ leAt b 24 1 < 2 ∧
      (mktById past (leAt b 8 4)).all (fun m => m.state == 1 && leAt b 12 4 == mktWords past m &&
        decide (leAt b 16 4 + leAt b 20 4 ≤ mktWords past m) && (mktWork past m.index).parts == []) = true) := by decide +kernel

/-- A module that is the master's keeper. -/
def keeping : State := traded 0 0 []

/-- Markets: the keeper and another module, packets of each type. -/
theorem witness_market_packets :
    isKeeper keeping = true ∧ isMasterSite keeping = true ∧ isKeeper up = false ∧ live keeping = true ∧ mayAsk keeping .host = true ∧
    (let i := inbound 0x33 0 ([2, 1] ++ List.replicate 6 0 ++ leBytes 8 5)
     nextOf (arriving keeping i) 0x33 (fun p => leAt p.data 0 1 == 2) = some i) ∧
    (∀ b ∈ [1, 3], let i := inbound 0x33 0 (b :: List.replicate 7 0 ++ leBytes 8 5 ++ List.replicate 56 0)
     let s := arriving up i
     nextOf s 0x33 (fun p => leAt p.data 0 1 != 2) = some i ∧ (leAt i.pkt.data 0 1 = 1 ↔ b = 1) ∧ mktCount s = 0 ∧ ledgerOf s 5 = none ∧
     leAt (padTo 64 (i.pkt.data.drop 8)) 0 8 = 5) := by decide +kernel

/-- A module that knows bell 5, whose micro-batch map at 0x90000 says that descriptor 3 contributes to micro-batch 2. -/
def faulted : State :=
  { settled [(0x1800 + setIntMbMapLo, 0x90000)] [] with reports := [{ closedReport with bell := 5 }], mem := writeMem [] 0x9000C (leBytes 4 0x80020002) }

/-- A notice that has arrived. -/
def noticed (kind : Nat) : InPkt := inbound 0x32 0 (leBytes 1 kind ++ List.replicate 7 0 ++ leBytes 8 5 ++ List.replicate 48 0)

/-- This module's case of bell 5, over micro-batches 1 and 2. -/
def ownCase (acks : List Coord) : OwnCase := ⟨5, 0, true, 1, [1, 2], none, acks, false, []⟩

/-- A witness's replay of no descriptor. -/
def endedReplay : Replay := { replay with next := 1, stopped := true }

/-- FaultsAndNotices. -/
theorem witness_faults :
    live faulted = true ∧ bellKnown faulted 5 = true ∧ bellKnown faulted 6 = false ∧ mbEntry faulted 5 4 = none ∧ (mbEntry faulted 5 3).isSome = true ∧
    faulted.integrity.cases = [] ∧
    (∀ k ∈ [1, 2, 3, 4, 5], nextOf (arriving up (noticed k)) 0x32 (fun p => !Notice.good p.data || leAt p.data 0 1 == k) = some (noticed k) ∧
      Notice.good (noticed k).pkt.data = true ∧ (Notice.ofBytes (noticed k).pkt.data).bell = 5 ∧ (Notice.ofBytes (noticed k).pkt.data).num = 0 ∧
      (Notice.ofBytes (noticed k).pkt.data).kind = 0 ∧ (Notice.ofBytes (noticed k).pkt.data).slotMb = 0) ∧
    (let i := inbound 0x32 0 [1]
     (∀ k ∈ [1, 2, 3, 4, 5], nextOf (arriving up i) 0x32 (fun p => !Notice.good p.data || leAt p.data 0 1 == k) = some i) ∧
     Notice.good i.pkt.data = false) ∧
    (let c := ownCase [⟨0, 0, 0⟩, ⟨1, 0, 0⟩]; c.acks.erase (noticed 2).pkt.src ≠ [] ∧ c.bell = 5 ∧ c.num = 0 ∧ c.open_ = true) ∧
    (∃ m ∈ (ownCase []).range, m ≠ 0 ∧ ∀ v ∈ (ownCase []).verdicts, v.1 ≠ m) ∧ endedReplay.finished = true ∧
    up.integrity.cases.find? (fun c => c.bell == 5 && c.num == 0 && c.open_) = none ∧ up.integrity.requests = [] ∧ up.integrity.replaying = none ∧
    up.integrity.held = [] ∧ up.instances = [] ∧ up.integrity.pendingUse = [] := by decide +kernel

/-- StepRunsFrontCommand and TimeAndOutputsOnlyGrow: a command in front, an idle queue. -/
theorem witness_step :
    ({ up with pending := [.bellOutRelease, .stepReportWrite] } : State).pending = .bellOutRelease :: [.stepReportWrite] ∧ up.pending = [] ∧
    exec .stepReportWrite up = .next (after .stepReportWrite up) := ⟨rfl, rfl, rfl⟩

/-- StepKeepsSound: a sound state that steps. -/
theorem witness_sound : step State.reset = .next (idleClock State.reset) := rfl

theorem witness_sound_reset :
    Memory.wf State.reset.mem = true ∧ State.reset.regs = [] ∧ State.reset.poison = [] ∧
    State.reset.cores.length = 64 ∧ State.reset.rings.length = 64 ∧ State.reset.channels.length = 32 ∧ State.reset.ports.length = 8 ∧
    State.reset.banks.length = 5 ∧ (∀ c < 64, (coreAt State.reset c).loading = none ∧ (coreAt State.reset c).pass = none) := by decide +kernel


/-! ### Witnesses of further clauses -/

/-- PowerUpSequence, SensorsAndPowerLimit, ManagementAnswers and FirmwareUpdateStates: a stack's sensor at its warning threshold with the in-band
interrupt enabled, a power sample within the limits, a pending activation, and an update in each state. -/
theorem witness_standby :
    (tempLimits 47).map (·.1) = some 850 ∧ (850 : Nat) ≤ 850 ∧ flag up (mcReg 7 mcMcStatus) 2 = false ∧
    (let s := powered (fun p => { p with ibi := true, mc := .booted }); s.power.ibi = true ∧ s.power.alert = false) ∧
    overLimit (effectiveLimit up) ([3000, 3000]) = false ∧
    (let s := { up with manage := { up.manage with activation := true, exchange := true } }
     s.manage.activation = true ∧ s.manage.exchange = true ∧ s.power.mc = .booted) ∧
    (∀ u ∈ ([.idle, .learn, .readyXfer, .download, .verify, .apply] : List UpdateState),
      let s := { up with manage := { up.manage with update := u } }
      s.manage.update = u ∧ s.manage.image < 2 ∧ s.power.mc = .booted) := by decide +kernel

/-- EventsQueuedMergedRecorded and JournalEntriesAndConfig: an event of Table 18.5 and two that are none, before an event of a greater source;
a TIME entry and a key that is written. -/
theorem witness_journal_more :
    okEvent 0x2001 0x2000 0 = true ∧ okEvent 0x0050 0x2000 0 = false ∧ okEvent 0x2001 0x2000 0x50 = false ∧
    (let u := advanceTo up (up.recorder.since + 600 * clocksPerSecond)
     up.power.mc ≠ .off ∧ (activeJournal u.recorder).entries.length < bankPositions) ∧
    (∀ bs, some (List.replicate 37 (1 : Byte)) = some bs → bs.length ≤ 37) ∧ (∀ bs, (none : Option (List Byte)) = some bs → bs.length ≤ 37) := by
  refine ⟨by decide +kernel, by decide +kernel, by decide +kernel, by decide +kernel, ?_, ?_⟩
  · intro bs h; cases h; decide
  · intro bs h; cases h

/-- RegisterWrites: two neighbouring registers written in one access. -/
theorem witness_wide_write :
    (∀ o ∈ [coreReg 5 coreTally, coreReg 5 coreTally + 4], regIs up o (fun k d => k == o && decide (0x100000 ≤ k ∧ k < 0x200000) && d.rw &&& d.w1c == 0 && 0 &&& d.rsvd == 0)) ∧
    coreReg 5 coreTally % 8 = 0 ∧ mayAsk up .host = true := by decide +kernel

/-- CounterReadClears: an RC counter of each block that has one, none of them the recorder's. -/
theorem witness_counters :
    (∀ o ∈ [glbReg glbUndos, mcReg 7 mcCeCount, portReg 7 portCrcErr, ringReg 63 ringDbDrop, chanReg 31 chanCmdDrop, bankReg 4 ciphMsgSealed,
            redReg redBucketsDone, stlReg stlResends, intReg intReruns],
      regIs up o (fun k d => d.rc && !wideLo k && !wideLo (k - 4) &&
        [recEvtWritten, recEvtMerged, recEvtLost, recJrnTorn, recCompactions].all (fun c => k != recReg c)) = true) ∧
    doorbellPage .host (ringReg 63 ringDbDrop) = none := by decide +kernel

/-- LowHalfLatchesHigh: a read of _HI by a requester that holds no latch. -/
theorem witness_no_latch : ∀ c < 64, up.latches.find? (fun l => l.1 == latchOf (.core c)) = none := by decide +kernel

/-- RegionsAndPatrolScrub: an entry that is disabled, a reserved TYPE, a reserved bit, a TYPE that changes. -/
theorem witness_region_writes :
    bit (2 ^ 30 + 5) 31 = false ∧ (2 ^ 30 + 5) &&& 0x1FFFFFF0 = 0 ∧ bits (2 ^ 30 + 5) 3 0 ≤ 5 ∧ 5 < bits 6 3 0 ∧ 16 &&& 0x1FFFFFF0 ≠ 0 ∧
    (let s := upWith [(regionReg 15 regionSizeLo, 0x10000), (regionReg 15 regionCtrl, 2 ^ 31 + 1)]
     regionOn s 15 = true ∧ bits (2 ^ 31 + 2) 3 0 ≠ regionTypeOf s 15 ∧ bits (2 ^ 31 + 1) 3 0 = regionTypeOf s 15) := by decide +kernel

/-- TilePassBankAudit: a load and a pass of which every byte has been read. -/
theorem witness_tile_read :
    let op := { tileOp with loadClk := 4096, passClk := 4096 }
    passClocks op.word ≤ op.passClk ∧ tileOp.loadClk = 0 ∧ tileOp.weights = [] := by decide +kernel

/-- RingControl: a step ring that is disabled, and a slot that is flushed. -/
theorem witness_step_ring :
    (let s := upWith (ringRegs 0 1 1 0 0)
     let v := rd s (ringReg 0 ringCtrl) - 2 ^ 31
     v < 2 ^ 32 ∧ v &&& ctrlFixed = v % 2 ^ 29 ∧ bit v 30 = false ∧ bit v 29 = false ∧ bit v 31 = false ∧
     ringEnabled s 0 = true ∧ ringClass s 0 = 1 ∧ v &&& ctrlFixed = rd s (ringReg 0 ringCtrl) &&& ctrlFixed) ∧
    (let s := { upWith (ringRegs 0 0 2 0 1) with mem := writeMem [] 0x10000 (padTo 64 [1]) }
     stateOfRing s 0 = 2 ∧ s.flaws = [] ∧ readDesc s {} (rd64 s (ringReg 0 ringSqBaseLo) + 64 * sqHead s 0) = some (padTo 64 [1])) := by decide +kernel

/-- A master whose edge 5 is due after edge 4, with an arm for it that landed late, a step ring and a report that is due. -/
def turning (pend : Half) (late : Bool) : State :=
  let s := ringing [(setBellMaster, 2 ^ 31), (setStepCount, 1)] 0 5 7
  let s := (ringRegs 63 1 1 0 0 ++ [(ringReg 63 ringRptCfg, 2 ^ 31 + 12), (bellReg bellBellNumLo, 4)]).foldl (fun (s : State) (w : Nat × Nat) => wr s w.1 w.2) s
  { s with
    pendingHalf := pend
    reports := [emptyReport 4]
    bell := { s.bell with lastEdge := some (4, 1), begun := some (4, 1), armed := if late then some (5, true) else none } }

/-- BellEdgeAdvances: a swap at the target edge, one whose half fails a check, a report that closes, a replay that starts. -/
theorem witness_edge_actions :
    (∀ h ∈ [goodHalf, putSetting goodHalf setCurfew 0], let s := turning h true
      s.bell.armed = some (5, true) ∧ s.flaws = [] ∧ s.poison = [] ∧ (∀ c < 64, (coreAt s c).loading = none ∧ (coreAt s c).pass = none) ∧
      (∀ r ∈ s.reports, r.closed = false) ∧ flag s (bellReg bellBellStatus) 27 = false ∧ isMaster s = true ∧ s.bell.lastEdge.isSome = true ∧
      (reportDest s).isSome = true ∧ stepRing s = some 63 ∧ stateOfRing s 63 = 1 ∧ s.replays = []) ∧
    swapFault goodHalf = none ∧ (turning goodHalf false).bell.armed = none := by decide +kernel

/-- No exponent is automatic in a half that holds none of the scale table's words. -/
theorem no_auto (h : Half) (low : ∀ x ∈ h, x.1 < 0xC000) (e : Nat) : (scaleEntry h e).auto = false := by
  have none_ : h.find? (fun x => x.1 == 0xC000 + 8 * e) = none := by
    rw [List.find?_eq_none]
    intro x hx
    have := low x hx
    simp
    omega
  have reset_ : settingReset (0xC000 + 8 * e) = 0x13C00 ∨ settingReset (0xC000 + 8 * e) = 0 := by
    unfold settingReset settingDef
    by_cases h1 : 0xC000 + 8 * e < 0x14000
    · left
      have h2 : (0xC000 + 8 * e) % 8 = 0 := by omega
      repeat rw [if_neg (by omega)]
      rw [if_pos h1, if_pos h2]
      rfl
    · right
      repeat rw [if_neg (by omega)]
      rfl
  rcases reset_ with r | r <;> simp [scaleEntry, setting, sget, none_, r] <;> decide

/-- BellEdgeAdvances: the halves of these states have no automatic exponent. -/
theorem witness_no_auto (h : Half) (hh : h = goodHalf ∨ h = putSetting goodHalf setCurfew 0 ∨ h = (turning goodHalf true).activeHalf) (e : Nat) :
    (scaleEntry h e).auto = false := by
  refine no_auto h ?_ e
  rcases hh with rfl | rfl | rfl <;> decide +kernel

/-- BellMessagesAndPins: a master with a neighbour that port 3 serves. -/
theorem witness_bell_tree :
    let s := ringing [(setBellMaster, 2 ^ 31)] 0 8 5
    let s := [(portReg 3 portPortCtrl, 2 ^ 31 + 2 ^ 25), (portReg 3 portPortStatus, 5 * 2 ^ 28), (fabReg fabTorusSize, 2)].foldl (fun (s : State) (w : Nat × Nat) => wr s w.1 w.2) s
    let s := modPort s 3 (fun q => { q with inService := true })
    let u := advanceTo s (5 - leadClocks s)
    (⟨1, 0, 0⟩ : Coord) ∈ treeNext s (ownXyz s) ∧ s.ports.length = 8 ∧
    routeOf u (message u 0x31 ⟨1, 0, 0⟩ 0 []) none 0 = .port 3 0 := by decide +kernel

/-- CurfewAndHandover: a case of the bell that is open, and none. -/
theorem witness_curfew_case :
    let s := { reducing (inst 0) [] with bell := { up.bell with begun := some (0, 5) } }
    let s := { s with integrity := { s.integrity with cases := [⟨0, 0, true, 1, [1], none, [], false, []⟩] } }
    s.bell.begun = some (0, 5) ∧ (∀ c ∈ up.integrity.cases, c.bell = 0 → c.open_ = false) := by
  refine ⟨rfl, ?_⟩; intro c h; cases h

/-- CommitPort: a watch that is full. -/
theorem witness_full_watch : 256 ≤ ({ up with watch := List.replicate 256 ⟨0, 0, false⟩ } : State).watch.length := by decide +kernel

/-- UndoWalkAndDifferences: a directory of one header of the bell that is undone, which is turned. -/
theorem witness_undo_walk :
    let s := wr (sharded 1 0) (glbReg glbUndoBellLo) 0
    let h := shardAt s (dirEntry s 0)
    flag s (glbReg glbUndoCtrl) 30 = false ∧ s.flaws = [] ∧ (∀ m < 8, flag s (mcReg m mcMcStatus) 1 = false) ∧ dirCount s = 1 ∧
    headerInRegion s h = true ∧ h.flipBell = 0 ∧ h.undone = false ∧ h.landBell = bellNum s ∧ (entryAt s 1 ≤ dirEntry s 0) := by decide +kernel

/-- PortControl: a third port of one direction, and a port with a packet queued and one unacknowledged. -/
theorem witness_port_lost :
    (let s := upWith [(portReg 1 portPortCtrl, 2 ^ 31 + 2 ^ 25), (portReg 2 portPortCtrl, 2 ^ 31 + 2 ^ 25)]
     sameDirection s 3 (bits (2 ^ 31 + 2 ^ 25) 27 25) = 2 ∧ bits (2 ^ 31 + 2 ^ 25) 27 25 ≠ 0 ∧ portEnabled s 3 = false) ∧
    (let s := ported 5 { retry := [(0, leaving)], txq := [leaving] } []
     portEnabled s 3 = true ∧ isMopin s 3 = true ∧ (∀ u ∈ (portAt s 3).txq, u.core = none ∧ u.input = 8) ∧
     ∀ k ∈ (portAt s 3).retry.map (·.2.pkt) ++ (portAt s 3).txq.map (·.pkt), k.src = ownXyz s) := by decide +kernel

/-- PortTraining: a block with REFUSE in NEGOTIATE and in CALIBRATE. -/
theorem witness_refuse :
    let bs := trainBytes { trainBlock 1 1 with refuse := true }
    bs.length = 32 ∧ trainGood bs = true ∧ (trainOf bs).refuse = true ∧
    ∀ st ∈ [3, 4], let s := ported st { heard := bs :: List.replicate 7 [] } []
      portState s 3 = st ∧ (portAt s 3).heard.getD 0 [] = bs := by decide +kernel

/-- FlitsReceivedAndSent: the flits of a lost pair, a resend of one flit for the seventh time, and a fifth flit. -/
theorem witness_pair :
    (0 < (portAt (ported 5 { discard := 5 } []) 3).discard) ∧ (portAt (ported 5 {} []) 3).discard = 0 ∧
    (let q := portAt (ported 5 { retry := [(0, leaving)], resendFrom := some 4, resendRuns := 6 } []) 3
     q.resendFrom = some leaving.ord ∧ q.resendRuns < 7) ∧
    4 ≤ (portAt (ported 5 { pairFlits := List.replicate 4 [] } []) 3).pairFlits.length ∧
    codewordLost (((List.range 16).map (2 * ·)).drop 1) 0 = false := by decide +kernel

/-- A bucket of three groups of 256 words. -/
def bucket768 : Bucket := ⟨768, 0, 0x85, 0x3F, 0x30000, 0x40000, 0, [⟨1, 0, 768⟩], true⟩

/-- The first of three members, whose port 3 leads to the next, with one instance and a packet. -/
def ringed (i : Instance) (p : InPkt) : State :=
  let s := settled [(0x4000 + 60, 2 ^ 8), (0x4000 + 52, 2 * 2 ^ 16), (0x1000 + setRedBucketCount, 1)]
    [(portReg 3 portPortCtrl, 2 ^ 31 + 2 ^ 25), (portReg 3 portPortStatus, 5 * 2 ^ 28), (fabReg fabTorusSize, 2)]
  arriving (modPort { s with buckets := [(0, [bucket768])], instances := [i] } 3 (fun q => { q with inService := true })) p

/-- The whole stream of chunk `j` of phase RS-c, in one packet. -/
def chunkPkt (j : Nat) : InPkt := ⟨packet 0x20 0 ([0, 0, 0, 0] ++ leBytes 2 j ++ List.replicate 10 0 ++ [1, 2, 3]), none, 0, 0, none⟩

/-- An instance whose member has entered its value and sent chunk 2. -/
def entered : Instance := { inst 0 with entered := true, own := .included, done := [(0, 2)], ownVals := [(0, 7), (256, 5)] }

/-- ReductionsRun: a chunk that goes on and one that ends here, and a slot without a valid bucket. -/
theorem witness_finished_chunk :
    (∀ j ∈ [0, 1], let s := ringed entered (chunkPkt j)
      let h : ReduceHeader := ⟨0, 0, 0, false, j, 0, 0⟩
      firstOf s 0x20 (fun p => match reduceHeader p.data with | some h => !reduceEarly s h | none => true) = some (chunkPkt j) ∧
      reduceHeader (chunkPkt j).pkt.data = some h ∧ reduceBell s h = some 0 ∧ instanceOf s 0 0 = some entered ∧
      bucketOf s 0 0 = some bucket768 ∧ frcOf bucket768.mode 0 = none ∧ (chunkPkt j).pkt.last = true ∧ (chunkPkt j).pkt.poison = 0 ∧
      sendsHeld s 0 = false ∧ s.integrity.cases = [] ∧
      (ownGrid s 0).any (fun g => stageReady g entered 0 && decide (j < g.size 0) && !isDone entered 0 j &&
        isDone entered 0 ((g.pos 0 + g.size 0 - 1) % g.size 0) && decide ((g.chunk 0 j 768).1 < (g.chunk 0 j 768).2) &&
        (decide (j ≠ g.pos 0) == (j == 1)) && (ownValue g entered).2.1 == []) = true ∧
      routeOf s (barePacket 0x20 ⟨1, 0, 0⟩ ⟨0, 0, 0⟩ 0 0) none 0 = .port 3 0 ∧ entered.status = 0 ∧ entered.faulted = false ∧
      entered.gen = 0 ∧ entered.rx = [] ∧ entered.ready = []) ∧
    (let s := { ringed entered (chunkPkt 1) with buckets := [(0, [{ bucket768 with valid := false }])] }
     reduceBell s ⟨0, 0, 0, false, 1, 0, 0⟩ = some 0 ∧ (bucketOf s 0 0).map Bucket.valid = some false) := by decide +kernel

/-- RequestsAndResponses: no read that waits for a tag, no case of poison. -/
theorem witness_asked :
    let s := waiting true (inbound 2 0x100 [])
    (∀ x < 64, ∀ y ∈ (coreAt s x).mvOps, y.unasked = []) ∧ s.integrity.cases = [] := by decide +kernel

/-- StolcenTimersAndAcks: a partial group that is NAKed and one that is dropped with a road up; a NAK of a group that is held, sent just now and
long ago. -/
theorem witness_naks :
    (∀ e ∈ [(0, true), (2, false), (3, false)], let g : InGroup := ⟨4, 0, 0, 40, 2, 1, [], none, e.1, e.2⟩
      let s := linked true { groups := [g] } []
      (gateAt s 1).groups.find? (InGroup.is 4 0) = some g ∧ upRoads s 1 = [5] ∧ (g.fresh = false ∧ 3 ≤ g.stale ↔ e.1 = 3) ∧
      (partnerAt s 1).uk = 1 ∧ (partnerAt s 1).um = 0 ∧ 64 ≤ (partnerAt s 1).shardMax ∧ (roadAt s 5).owner = ownXyz s) ∧
    (∀ now ∈ [0, 5], let x := List.replicate 16 0 ++ leBytes 6 4 ++ leBytes 2 0
      let s := { linked true { store := [keptMsg 0], naks := [x] } [(stlReg stlStlCtrl, 2 ^ 31 + 16)] with now := now }
      firstWaiting s (·.naks) = some (1, x) ∧ x.length = 24 ∧ storedGroup s 1 (leAt (x.drop 16) 0 6) (leAt (x.drop 16) 6 2) = some (keptMsg 0, ⟨0, some 0, 0⟩) ∧
      upRoads s 1 ≠ [] ∧ 0 < resendMax s ∧ (0 * 10 + 17 * maxSrtt s 1 < s.now * 10 ↔ now = 5)) := by decide +kernel

/-- Markets: a contribution of a site outside the send set, a state message for a shard that is not joining, and one too long. -/
theorem witness_market_stale :
    (let b := mktBody 77 [0, 0, 0, 0, 0, 0, 4, 3]
     let s := traded 0 1 b
     let past := (nextRecord {} 1 4096 (meetHeaders s)).2
     (nextRecord {} 1 4096 (meetHeaders s)).1 = some (0x80040, List.replicate 16 0 ++ b) ∧ (mktById past 77).isSome = true ∧
     bit (sendSet past) (leAt b 23 1) = false) ∧
    (∀ e ∈ [(0, 4), (1, 5)], let b := mktBody 77 (leBytes 4 0 ++ leBytes 4 e.2 ++ [0])
      let s := traded e.1 3 b
      let past := (nextRecord {} 3 4096 (meetHeaders s)).2
      (nextRecord {} 3 4096 (meetHeaders s)).1 = some (0x80040, List.replicate 16 0 ++ b) ∧
      (mktById past 77).any (fun m => m.state != 1 || decide (mktWords past m < leAt b 16 4 + leAt b 20 4)) = true) := by decide +kernel

/-- FaultsAndNotices: a residue check of a slot with an instance and of one without. -/
theorem witness_residue :
    let s := reducing (inst 0) []
    (instanceOf s 0 0).isSome = true ∧ instanceOf s 0 1 = none ∧ (⟨7, 0, 0, 0, 0, 1⟩ : FaultReport).cause = 7 := by decide +kernel

/-- A replay request for bell 5 of the suspect at (1, 0, 0). -/
def replayRequest : List Byte := ({ Notice.ofBytes [] with notice := 3, bell := 5, suspect := ⟨1, 0, 0⟩, digests := 0x7000 } : Notice).bytes

/-- A witness whose replay has ended, before and after it has asked for the suspect's digests. -/
def comparing (i : InPkt) (asked : Bool) : State :=
  { arriving (ported 5 { inService := true } [(fabReg fabTorusSize, 2)]) i with
    witness := some endedReplay
    integrity := { State.reset.integrity with replaying := some replayRequest }
    requests := if asked then [⟨0x7F00, .digest, ⟨1, 0, 0⟩, true, [], 0⟩] else [] }

/-- FaultsAndNotices: the digests asked for over port 3, and their answer. -/
theorem witness_digests :
    (let s := comparing (noticed 3) false
     s.witness = some endedReplay ∧ endedReplay.finished = true ∧ s.integrity.replaying = some replayRequest ∧ readTag s 128 = some 0x7F00 ∧
     s.requests = [] ∧ s.ports.length = 8 ∧ (Notice.ofBytes replayRequest).suspect = ⟨1, 0, 0⟩ ∧
     routeOf s (barePacket 2 ⟨1, 0, 0⟩ (ownXyz s) 0x7F00 0) none 0 = .port 3 0) ∧
    (let i : InPkt := ⟨{ packet 0x10 0 (List.replicate 128 0) with tag := 0x7F00, src := ⟨1, 0, 0⟩ }, none, 0, 0, none⟩
     let s := comparing i true
     nextOf s 0x10 (fun p => (requestOf s true p.tag p.src).isSome) = some i ∧ i.core = none ∧ s.integrity.requests = [] ∧ s.flaws = [] ∧
     (∀ x < 64, ∀ y ∈ (coreAt s x).mvOps, y.unasked = [])) ∧
    (let s := comparing (noticed 3) false
     (s.requests.all (fun q => q.kind != .digest)) = true) := by decide +kernel

/-- StepRunsFrontCommand: a port where a packet waits for a credit. -/
theorem witness_credit_waits :
    creditWaits (ported 5 { txq := [leaving], credits := List.replicate 8 0 } []) 3 = true ∧ (∀ p < 8, creditWaits up p = false) ∧
    (∀ c < 64, (coreAt up c).loading = none ∧ (coreAt up c).pass = none) := by decide +kernel

end Sys2Proof.Tests
end

section
/-! SUPPORT. The global error log (R580, R581): one error counted, with what changes and what stays. -/

namespace Sys2Proof.Machine

/-! ### Registers changed and messages sent -/

/-- From `s` to `t` no register but those of `P` changes, and nothing but MSI-X messages leaves the module. -/
structure Touches (P : Nat → Prop) (s t : State) : Prop where
  kept : ∀ k, ¬ P k → rd t k = rd s k
  sent : ∃ msgs, t.out = s.out ++ msgs ∧ ∀ m ∈ msgs, ∃ v a d, m = .msi v a d

namespace Touches

variable {P Q : Nat → Prop} {s t u : State}

theorem refl (P : Nat → Prop) (s : State) : Touches P s s := ⟨fun _ _ => rfl, [], by simp, by simp⟩

theorem trans (h : Touches P s t) (k : Touches P t u) : Touches P s u := by
  obtain ⟨m, hm, hmsi⟩ := h.sent
  obtain ⟨n, hn, hnsi⟩ := k.sent
  refine ⟨fun j hj => (k.kept j hj).trans (h.kept j hj), m ++ n, by rw [hn, hm, List.append_assoc], fun x hx => ?_⟩
  exact (List.mem_append.mp hx).elim (hmsi x) (hnsi x)

theorem mono (h : Touches P s t) (hPQ : ∀ k, P k → Q k) : Touches Q s t := ⟨fun k hk => h.kept k (mt (hPQ k) hk), h.sent⟩

theorem ite {c : Prop} [Decidable c] (h : Touches P s t) (k : Touches P s u) : Touches P s (if c then t else u) := by
  split <;> assumption

/-- What leaves a register alone leaves its flags alone. -/
theorem flag_eq (h : Touches P s t) {k : Nat} (hk : ¬ P k) (i : Nat) : flag t k i = flag s k i := by rw [flag, h.kept k hk, flag]

end Touches

theorem touches_wr {P : Nat → Prop} (s : State) {k : Nat} (v : Nat) (h : P k) : Touches P s (wr s k v) :=
  ⟨fun _ hj => rd_wr_ne _ _ _ _ (fun e => hj (e ▸ h)), [], by simp⟩

/-- A word of the MSI-X pending bit array (R579). -/
def pendingWord (k : Nat) : Prop := 0x9000 ≤ k ∧ k < 0x9020

theorem fld_byte_lt (s : State) (k : Nat) : fld s k 7 0 < 256 := Nat.mod_lt _ (by decide)

/-- A vector is sent or becomes pending (R579). -/
theorem touches_sendVector (s : State) (v : Nat) (hv : v < 256) : Touches pendingWord s (sendVector s v) :=
  .ite (touches_wr s _ ⟨by omega, by omega⟩) ⟨fun _ _ => rfl, [_], rfl, fun m hm => ⟨_, _, _, List.mem_singleton.mp hm⟩⟩

/-- The vector that a register's low byte names. -/
theorem touches_sendVector_fld (s t : State) (k : Nat) : Touches pendingWord s (sendVector s (fld t k 7 0)) :=
  touches_sendVector s _ (fld_byte_lt t k)

theorem touches_raiseFlag (s : State) (i k b : Nat) : Touches (fun j => pendingWord j ∨ j = k) s (raiseFlag s i k b) :=
  (touches_wr s _ (.inr rfl)).trans (.ite (.refl _ _) ((touches_sendVector_fld _ _ _).mono fun _ => .inl))

/-! ### A flag that is set reads 1 -/

theorem bit_setBits_one (n i : Nat) : bit (setBits n i i 1) i = true := by
  have h : setBits n i i 1 = n % 2 ^ i + 2 ^ i * (2 * (n >>> (i + 1)) + 1) := by
    simp only [setBits, Nat.shiftLeft_eq, Nat.add_sub_cancel_left, pow_succ]
    ring
  rw [bit, h, Nat.shiftRight_eq_div_pow, Nat.add_mul_div_left _ _ (Nat.two_pow_pos i), Nat.div_eq_of_lt (Nat.mod_lt _ (Nat.two_pow_pos i))]
  simp

theorem bit_mod_two_pow (n : Nat) {i w : Nat} (h : i < w) : bit (n % 2 ^ w) i = bit n i := by
  have e (m : Nat) : bit m i = m.testBit i := by
    rw [bit, Nat.shiftRight_eq_div_pow, Nat.testBit_eq_decide_div_mod_eq, beq_eq_decide]
  rw [e, e, Nat.testBit_mod_two_pow, decide_eq_true h, Bool.true_and]

theorem flag_setFlag_same (s : State) (k : Nat) {i : Nat} (hi : i < 32) : flag (setFlag s k i true) k i = true := by
  rw [flag, setFlag, setFld, rd_wr_same, bit_mod_two_pow _ hi]
  exact bit_setBits_one _ _

theorem flag_raiseFlag_same (s : State) (i : Nat) {k b : Nat} (hk : ¬ pendingWord k) (hb : b < 32) : flag (raiseFlag s i k b) k b = true := by
  have hs := flag_setFlag_same s k hb
  unfold raiseFlag
  simp only
  split
  · exact hs
  · exact ((touches_sendVector_fld _ _ _).flag_eq hk b).trans hs

/-! ### One error counted -/

/-- The first words that an error changes in the log: ERR_COUNT, the counter of its cause, ERR_LAST and ERR_LAST_ARG (R580). -/
def logLast (s : State) (cause source arg : Nat) : State :=
  let t := count (count s (intReg errErrCount)) (intReg errErrCause + 4 * cause)
  wr (wr t (intReg errErrLast) (2 ^ 31 + cause * 65536 + source)) (intReg errErrLastArg) arg

/-- The words it changes next: ERR_LAST_BELL and, where no error stands there, ERR_FIRST with its argument (R580). -/
def logFirst (s : State) (cause source arg bell : Nat) : State :=
  let t := wr64 s (intReg errErrLastBellLo) bell
  if flag t (intReg errErrFirst) 31 then t else wr (wr t (intReg errErrFirst) (2 ^ 31 + cause * 65536 + source)) (intReg errErrFirstArg) arg

/-- ERR_EVENT.NEW set, with the messages that its rise may send (R578, R581). -/
def announceError (s : State) : State :=
  let t := raiseFlag s 12 (intReg errErrEvent) 31
  if !flag s (intReg errErrEvent) 31 && flag t (intReg errErrCtrl) 31 then sendVector t (fld t (irqReg irqErrVec) 7 0) else t

theorem logError_eq_stages (s : State) (cause source arg : Nat) :
    logError s cause source arg = announceError (logFirst (logLast s cause source arg) cause source arg (bellNum s)) := rfl

/-- A register of the global error log (Table 20.7). -/
def errorLogWord (k : Nat) : Prop := intReg errErrEvent ≤ k ∧ k < intReg errErrCause + 0x80

/-- A register that an error changes after ERR_COUNT, its cause's counter, ERR_LAST and ERR_LAST_ARG have their values. -/
def laterWord (k : Nat) : Prop :=
  pendingWord k ∨ k = intReg errErrEvent ∨ k = intReg errErrFirst ∨ k = intReg errErrFirstArg ∨
    k = intReg errErrLastBellLo ∨ k = intReg errErrLastBellLo + 4

theorem errorLogWord_iff (k : Nat) : errorLogWord k ↔ 0x300100 ≤ k ∧ k < 0x300280 := Iff.rfl

theorem laterWord_iff (k : Nat) : laterWord k ↔
    (0x9000 ≤ k ∧ k < 0x9020) ∨ k = 0x300100 ∨ k = 0x30010C ∨ k = 0x300110 ∨ k = 0x30011C ∨ k = 0x300120 := Iff.rfl

theorem causeCounter_eq (cause : Nat) : intReg errErrCause + 4 * cause = 0x300200 + 4 * cause := rfl

/-- The counters of the causes lie above the log's other registers. -/
theorem ne_causeCounter {k : Nat} (cause : Nat) (h : k < intReg errErrCause) : k ≠ intReg errErrCause + 4 * cause := by omega

theorem touches_announceError (s : State) : Touches (fun j => pendingWord j ∨ j = intReg errErrEvent) s (announceError s) :=
  .ite ((touches_raiseFlag _ _ _ _).trans ((touches_sendVector_fld _ _ _).mono fun _ => .inl)) (touches_raiseFlag _ _ _ _)

theorem flag_announceError (s : State) : flag (announceError s) (intReg errErrEvent) 31 = true := by
  have hk : ¬ pendingWord (intReg errErrEvent) := by unfold pendingWord; decide
  have hr := flag_raiseFlag_same s 12 hk (b := 31) (by decide)
  unfold announceError
  simp only
  split
  · exact ((touches_sendVector_fld _ _ _).flag_eq hk 31).trans hr
  · exact hr

theorem touches_logFirst (s : State) (cause source arg bell : Nat) : Touches laterWord s (logFirst s cause source arg bell) := by
  have hb : Touches laterWord s (wr64 s (intReg errErrLastBellLo) bell) :=
    (touches_wr _ _ (by simp [laterWord])).trans (touches_wr _ _ (by simp [laterWord]))
  have hf (t : State) (w : Nat) : Touches laterWord t (wr (wr t (intReg errErrFirst) w) (intReg errErrFirstArg) arg) :=
    (touches_wr _ _ (by simp [laterWord])).trans (touches_wr _ _ (by simp [laterWord]))
  exact .ite hb (hb.trans (hf _ _))

theorem touches_logLast (s : State) {cause : Nat} (source arg : Nat) (hc : cause < 32) : Touches errorLogWord s (logLast s cause source arg) := by
  have hcause : errorLogWord (intReg errErrCause + 4 * cause) := by rw [errorLogWord_iff, causeCounter_eq]; omega
  have hcount : errorLogWord (intReg errErrCount) := by unfold errorLogWord; decide
  have hlast : errorLogWord (intReg errErrLast) := by unfold errorLogWord; decide
  have harg : errorLogWord (intReg errErrLastArg) := by unfold errorLogWord; decide
  exact (((touches_wr _ _ hcount).trans (touches_wr _ _ hcause)).trans (touches_wr _ _ hlast)).trans (touches_wr _ _ harg)

/-- What follows the counts and ERR_LAST leaves them as they are. -/
theorem touches_logError_later (s : State) (cause source arg : Nat) :
    Touches laterWord (logLast s cause source arg) (logError s cause source arg) :=
  (touches_logFirst _ _ _ _ _).trans ((touches_announceError _).mono fun _ h => h.imp_right .inl)

theorem pendingWord_or_errorLogWord {k : Nat} (h : laterWord k) : pendingWord k ∨ errorLogWord k := by
  rw [laterWord_iff] at h
  rw [pendingWord, errorLogWord_iff]
  omega

/-- An error changes registers of the global error log and pending message bits, and sends messages (R580, R581). -/
theorem touches_logError (s : State) {cause : Nat} (source arg : Nat) (hc : cause < 32) :
    Touches (fun k => pendingWord k ∨ errorLogWord k) s (logError s cause source arg) :=
  ((touches_logLast s source arg hc).mono fun _ => .inr).trans ((touches_logError_later s cause source arg).mono fun _ => pendingWord_or_errorLogWord)

/-- The four values that an error leaves (R580). -/
theorem rd_logLast (s : State) {cause source : Nat} (arg : Nat) (hc : cause < 32) (hs : source < 65536) :
    let t := logLast s cause source arg
    rd t (intReg errErrCount) = satAdd (rd s (intReg errErrCount)) 1 ∧
    rd t (intReg errErrCause + 4 * cause) = satAdd (rd s (intReg errErrCause + 4 * cause)) 1 ∧
    rd t (intReg errErrLast) = 2 ^ 31 + cause * 65536 + source ∧ rd t (intReg errErrLastArg) = arg % 2 ^ 32 := by
  have hword : 2 ^ 31 + cause * 65536 + source < 2 ^ 32 := by omega
  have hbefore {k : Nat} (hl : k ≠ intReg errErrLast) (ha : k ≠ intReg errErrLastArg) : rd (logLast s cause source arg) k =
      rd (count (count s (intReg errErrCount)) (intReg errErrCause + 4 * cause)) k := by
    rw [logLast, rd_wr_ne _ _ _ _ ha, rd_wr_ne _ _ _ _ hl]
  refine ⟨?_, ?_, ?_, rd_wr_same _ _ _⟩
  · rw [hbefore (by decide) (by decide), rd_count_ne _ _ _ (ne_causeCounter _ (by decide)), rd_count_same]
  · rw [hbefore (ne_causeCounter _ (by decide)).symm (ne_causeCounter _ (by decide)).symm, rd_count_same,
      rd_count_ne _ _ _ (ne_causeCounter _ (by decide)).symm]
  · rw [logLast, rd_wr_ne _ _ _ _ (by decide), rd_wr_same, Nat.mod_eq_of_lt hword]

/-- The global error log counts an error as R580 and R581 say. -/
theorem counted_logError (s : State) {cause source : Nat} (arg : Nat) (hc : cause < 32) (hs : source < 65536) :
    Counted s (logError s cause source arg) cause source arg := by
  have hlater {k : Nat} (hk : ¬ laterWord k) := (touches_logError_later s cause source arg).kept k hk
  obtain ⟨hcount, hcause, hlast, harg⟩ := rd_logLast s arg hc hs
  have hall := touches_logError s source arg hc
  have hcauseKept : ¬ laterWord (intReg errErrCause + 4 * cause) := by rw [laterWord_iff, causeCounter_eq]; omega
  have hkept {k : Nat} (hk : k = intReg errErrCount ∨ k = intReg errErrLast ∨ k = intReg errErrLastArg) : ¬ laterWord k := by
    rw [laterWord_iff]
    rcases hk with rfl | rfl | rfl <;> decide
  exact ⟨(hlater (hkept (.inl rfl))).trans hcount, (hlater hcauseKept).trans hcause, (hlater (hkept (.inr (.inl rfl)))).trans hlast,
    (hlater (hkept (.inr (.inr rfl)))).trans harg, flag_announceError _, fun k hp hl => hall.kept k (not_or.mpr ⟨hp, hl⟩), hall.sent,
    logError_eq _ _ _ _⟩

/-! ### Accesses that R13 refuses -/

/-- An access narrower than 32 bits or not naturally aligned (R13). -/
def Misfit (off width : Nat) : Prop := ¬ (width = 4 ∧ off % 4 = 0) ∧ ¬ (width = 8 ∧ off % 8 = 0)

theorem busWrite_misfit (s : State) (who : Requester) (host : HostView) (up : Upset) {off width : Nat} (val : Nat) (hm : Misfit off width)
    (hd : doorbellPage who off = none) : busWrite s who host up off width val = logError s 1 (sourceOf who) off := by
  simp only [busWrite, hd, if_neg hm.1, if_neg hm.2]

theorem busRead_misfit (s : State) (who : Requester) {off width : Nat} (hm : Misfit off width) (hd : doorbellPage who off = none) :
    busRead s who off width = emit (logError s 1 (sourceOf who) off) (.readData off 0) := by
  simp only [busRead, hd, busValue, if_neg hm.1, if_neg hm.2]

/-- Where `who` reaches the registers, its access takes effect. -/
theorem regEvent_of_reaches {s : State} {who : Requester} (h : Reaches s who) (t : State) : regEvent s who t = .next t := by
  simp [regEvent, h.1, h.2]

/-- The SOURCE of a requester that exists fits its 16 bits (R582). -/
theorem sourceOf_lt {s : State} {who : Requester} (h : Reaches s who) : sourceOf who < 65536 := by
  cases who with
  | host => decide
  | core c =>
    have hc : c < 64 := of_decide_eq_true h.2
    show 0x1000 + c < 65536
    omega

theorem plantOne_eq (s : State) (f : Flaw) : plantOne s f = { s with flaws := (plantOne s f).flaws } := by
  unfold plantOne
  simp only
  split_ifs <;> rfl

/-- Bits that go wrong change the flaws and what is recorded of them, no register and nothing sent. -/
theorem plant_regs_out (s : State) (up : Upset) : (plant s up).regs = s.regs ∧ (plant s up).out = s.out := by
  have hone (fs : List Flaw) : ∀ s, (fs.foldl plantOne s).regs = s.regs ∧ (fs.foldl plantOne s).out = s.out := by
    induction fs with
    | nil => exact fun _ => ⟨rfl, rfl⟩
    | cons f fs ih =>
      intro s
      have h := plantOne_eq s f
      exact ⟨(ih _).1.trans (by rw [h]), (ih _).2.trans (by rw [h])⟩
  have htown (u : State) : (townHallError u).regs = u.regs ∧ (townHallError u).out = u.out := by
    unfold townHallError
    simp only
    split
    · rw [submitEvent_eq]; exact ⟨rfl, rfl⟩
    · exact ⟨rfl, rfl⟩
  unfold plant
  split
  · exact ⟨rfl, rfl⟩
  · exact ⟨(htown _).1.trans (hone _ s).1, (htown _).2.trans (hone _ s).2⟩

end Sys2Proof.Machine

open Sys2Proof Sys2Proof.Machine

/-- Settles O15: each of the three commands comes down to one `logError` of cause 0x01, of which `counted_logError` says what changes. -/
theorem narrowAccessCounted : Obligations.NarrowAccessCounted := by
  unfold Obligations.NarrowAccessCounted
  intro s who off width val host up hr hw hd counted
  have hm : Misfit off width := by unfold Misfit; omega
  have hlog {i : Instr} {answer : List Out} {u t : State} (hx : exec i s = .next t) (hu : u.regs = s.regs ∧ u.out = s.out)
      (ht : t = { logError u 1 (sourceOf who) off with out := (logError u 1 (sourceOf who) off).out ++ answer }) : counted i answer u := by
    obtain ⟨hcount, hcause, hlast, harg, -, hkept, ⟨msgs, hout, hmsi⟩, heq⟩ := counted_logError u off (cause := 1) (by decide) (sourceOf_lt hr)
    have hrd := rd_congr hu.1
    have htrd : ∀ k, rd t k = rd (logError u 1 (sourceOf who) off) k := fun k => by rw [ht]; rfl
    refine ⟨t, hx, ?_, ?_, (htrd _).trans hlast, (htrd _).trans harg, fun k hp hl => ?_, ⟨msgs, ?_, hmsi⟩, ?_⟩
    · rw [htrd, hcount, hrd]
    · rw [htrd, hcause, hrd]
    · rw [htrd, hkept k hp hl, hrd]
    · rw [ht, ← hu.2, ← hout]
    · rw [ht, heq]
  have hwrite : exec (.registerWrite who off width val host up) s = .next (logError (plant s up) 1 (sourceOf who) off) :=
    (regEvent_of_reaches hr _).trans (congrArg _ (busWrite_misfit _ _ _ _ _ hm hd))
  have hread : regEvent s who (busRead s who off width) = .next (emit (logError s 1 (sourceOf who) off) (.readData off 0)) :=
    (regEvent_of_reaches hr _).trans (congrArg _ (busRead_misfit _ _ hm hd))
  exact ⟨hlog hwrite (plant_regs_out s up) (by simp), hlog hread ⟨rfl, rfl⟩ rfl, hlog hread ⟨rfl, rfl⟩ rfl⟩

end

section
/-! SUPPORT. Reads of _LO and _HI pairs (R573): what a requester's latch holds after each read, and what the other latches keep. -/

namespace Sys2Proof.Machine

/-! ### The latches -/

/-- The half of key `k` that requester number `w` holds latched. -/
def heldHalf (ls : List (Nat × Nat × Word)) (w k : Nat) : Option Word := (ls.find? (fun l => l.1 == w && l.2.1 == k)).map (fun l => l.2.2)

/-- The latches without that of requester number `w`. -/
def dropLatch (ls : List (Nat × Nat × Word)) (w : Nat) : List (Nat × Nat × Word) := ls.filter (fun l => l.1 != w)

theorem heldHalf_dropLatch_same (ls : List (Nat × Nat × Word)) (w k : Nat) : heldHalf (dropLatch ls w) w k = none := by
  have hnone : (dropLatch ls w).find? (fun l => l.1 == w && l.2.1 == k) = none := by
    rw [List.find?_eq_none]
    intro l hl
    have hw : l.1 ≠ w := by simpa [dropLatch] using (List.mem_filter.mp hl).2
    simp [hw]
  rw [heldHalf, hnone, Option.map_none]

theorem heldHalf_dropLatch_ne (ls : List (Nat × Nat × Word)) {v w : Nat} (k : Nat) (h : v ≠ w) :
    heldHalf (dropLatch ls w) v k = heldHalf ls v k := by
  have htest (l : Nat × Nat × Word) : (l.1 != w && (l.1 == v && l.2.1 == k)) = (l.1 == v && l.2.1 == k) := by
    by_cases hv : l.1 = v <;> simp [hv, h]
  simp only [heldHalf, dropLatch, List.find?_filter, Bool.decide_and, Bool.decide_eq_true, htest]

theorem heldHalf_cons_same (ls : List (Nat × Nat × Word)) (w j k : Nat) (x : Word) :
    heldHalf ((w, j, x) :: ls) w k = if k = j then some x else heldHalf ls w k := by
  by_cases h : k = j
  · simp [heldHalf, h]
  · simp [heldHalf, h, Ne.symm h]

theorem heldHalf_cons_ne (ls : List (Nat × Nat × Word)) {v w : Nat} (j k : Nat) (x : Word) (h : v ≠ w) :
    heldHalf ((w, j, x) :: ls) v k = heldHalf ls v k := by
  simp [heldHalf, h.symm]

/-- The host and each core have latches of their own. -/
theorem latchOf_injective : Function.Injective latchOf
  | .host, .host, _ => rfl
  | .host, .core _, h => nomatch h
  | .core _, .host, h => nomatch h
  | .core _, .core _, h => congrArg Requester.core (Nat.succ.inj h)

/-! ### The registers of R573 -/

theorem wideLo_iff (k : Nat) : wideLo k = true ↔
    k = bellReg bellBellNumLo ∨ (∃ c < 64, k = coreReg c coreSlotBellLo) ∨ k = stlReg mktLedgerRoundLo ∨ k = bankReg 4 ciphGraceEndLo ∨
      (∃ m < 8, k = mcReg m mcErrAddrLo) ∨ k = glbReg glbUptimeLo ∨ k = intReg errErrLastBellLo := by
  have hcore : (0x100000 ≤ k ∧ k < 0x140000) ∧ k % 0x1000 = coreSlotBellLo ↔ ∃ c < 64, k = coreReg c coreSlotBellLo := by
    simp only [coreReg, coreSlotBellLo]
    exact ⟨fun h => ⟨(k - 0x100000) / 0x1000, by omega, by omega⟩, fun ⟨c, hc, hk⟩ => by omega⟩
  have hmem : (0x340000 ≤ k ∧ k < 0x348000) ∧ k % 0x1000 = mcErrAddrLo ↔ ∃ m < 8, k = mcReg m mcErrAddrLo := by
    simp only [mcReg, mcErrAddrLo]
    exact ⟨fun h => ⟨(k - 0x340000) / 0x1000, by omega, by omega⟩, fun ⟨m, hm, hk⟩ => by omega⟩
  simp only [wideLo, Bool.or_eq_true, Bool.and_eq_true, beq_iff_eq, decide_eq_true_eq, hcore, hmem, or_assoc]

/-! ### One read -/

/-- A read of _LO latches _HI in place of what the requester held. -/
theorem readReg_lo (s : State) (who : Requester) {k : Nat} (d : RegDef) (h : wideLo k = true) :
    readReg s who k d = (regView s k, { s with
      latches := (latchOf who, k + 4, BitVec.ofNat 32 (regView s (k + 4))) :: dropLatch s.latches (latchOf who) }) := by
  simp [readReg, h, dropLatch]

/-- A read of _HI whose requester holds it returns and spends the latched half. -/
theorem readReg_hi_held (s : State) (who : Requester) {k : Nat} (d : RegDef) {x : Word} (hlo : wideLo k = false) (hhi : wideLo (k - 4) = true)
    (h : heldHalf s.latches (latchOf who) k = some x) :
    readReg s who k d = (x.toNat, { s with latches := dropLatch s.latches (latchOf who) }) := by
  obtain ⟨l, hl, rfl⟩ := Option.map_eq_some_iff.mp h
  simp [readReg, hlo, hhi, hl, dropLatch]

/-- A read of _HI whose requester does not hold it returns the current half. -/
theorem readReg_hi_free (s : State) (who : Requester) {k : Nat} (d : RegDef) (hlo : wideLo k = false) (hhi : wideLo (k - 4) = true)
    (h : heldHalf s.latches (latchOf who) k = none) : readReg s who k d = (regView s k, s) := by
  simp [readReg, hlo, hhi, Option.map_eq_none_iff.mp h]

/-- No register lies past BAR0's blocks (Table 20.1). -/
theorem lt_of_placeOf_reg {eth : Nat → Bool} {off key : Nat} {d : RegDef} (h : placeOf eth off = .reg key d) : off < 0x400000 := by
  by_contra hoff
  have hres : placeOf eth off = .reserved := by
    unfold placeOf
    repeat rw [if_neg (by omega)]
  cases hres.symm.trans h

theorem doorbellPage_of_reg {eth : Nat → Bool} {off key : Nat} {d : RegDef} (who : Requester) (h : placeOf eth off = .reg key d) :
    doorbellPage who off = none := by
  have := lt_of_placeOf_reg h
  exact if_neg (by omega)

/-- LO_HALF_READ of an aligned register is one `readReg` whose value is the answer. -/
theorem exec_loHalfRead_reg {s : State} {who : Requester} {off key : Nat} {d : RegDef} (hr : Reaches s who) (hoff : off % 4 = 0)
    (hp : placeOf (ethView s) off = .reg key d) :
    exec (.loHalfRead who off 4) s = .next (emit (readReg s who key d).2 (.readData off (readReg s who key d).1)) := by
  have hread : busRead s who off 4 = emit (readReg s who key d).2 (.readData off (readReg s who key d).1) := by
    simp only [busRead, doorbellPage_of_reg who hp, busValue, hoff, and_self, if_true, read32, hp]
  exact (regEvent_of_reaches hr _).trans (congrArg _ hread)

end Sys2Proof.Machine

open Sys2Proof Sys2Proof.Machine

/-- Settles O14: the command is one `readReg`, by cases on which half the register is and on what the requester holds. -/
theorem lowHalfLatchesHigh : Obligations.LowHalfLatchesHigh := by
  unfold Obligations.LowHalfLatchesHigh
  refine ⟨wideLo_iff, fun c => ⟨latchOf_injective.ne (by simp), fun d h => by simpa using latchOf_injective h⟩, ?_⟩
  intro s who off key d hr hoff hp latch answers
  have hexec := exec_loHalfRead_reg hr hoff hp
  have hleads {v : Nat} {ls : List (Nat × Nat × Word)} {mine : Nat → Option Word} (hread : readReg s who key d = (v, { s with latches := ls }))
      (hmine : ∀ k, heldHalf ls (latchOf who) k = mine k) (hothers : ∀ w k, w ≠ latchOf who → heldHalf ls w k = heldHalf s.latches w k) :
      answers v mine := by
    rw [hread] at hexec
    exact ⟨_, hexec, rfl, hmine, hothers, rfl⟩
  refine ⟨fun hlo => ?low, fun hlo hhi => ⟨fun x hx => ?held, fun hfree => ?free⟩⟩
  case low =>
    refine hleads (readReg_lo s who d hlo) (fun k => ?_) (fun w k hw => ?_)
    · rw [heldHalf_cons_same, heldHalf_dropLatch_same]
    · rw [heldHalf_cons_ne _ _ _ _ hw, heldHalf_dropLatch_ne _ _ hw]
  case held =>
    exact hleads (readReg_hi_held s who d hlo hhi hx) (heldHalf_dropLatch_same _ _) (fun w k hw => heldHalf_dropLatch_ne _ _ hw)
  case free =>
    rw [hexec, readReg_hi_free s who d hlo hhi (hfree key)]
    rfl

end
